-- ==== Sys2Proof/Word.lean ====
section
/-!
DEFINITION. The plain types that the rest of the model is written with: a byte, a 64-byte cell, a tick count and a
place in a sparse memory. Polter has no word width of its own: registers are 32 or 64 bits, cells 512 bits.
-/
namespace Sys2Proof

/-- One byte of memory. -/
abbrev Byte := BitVec 8

/-- A 64-byte cell of a ring, as one number: bit 0 is bit 0 of byte 0 (R8). -/
abbrev Cell := BitVec 512

/-- How far each logical fold has come in a descriptor: (logical fold, units committed). -/
abbrev Progress := List (Nat × Nat)

/-- A sparse store: (key, value) pairs with strictly rising keys and no value equal to what an unlisted key reads as. -/
abbrev Sparse (α : Type) := List (Nat × α)

end Sys2Proof
end

