-- ==== Sys2Proof/Syntax.lean ====
section
/-!
DEFINITION. The commands of the block: one constructor of `Instr` for each row of the spec's table of operations and
events. A row has no bits; its operands are what the rule named beside it needs to say which part the step concerns
and what arrives with it. Assumption log 1 and 2.
-/
namespace Sys2Proof

/-- One of the fourteen data ports that raise a PLT_READY bit (Table 14-4). -/
inductive PortName where
  | sn (k : BitVec 3)
  | ne (k : BitVec 2)
  | nr (k : BitVec 1)
  deriving DecidableEq, Repr

/-- A physical upset that strikes an 8-byte word of a fold before a scrub slot reads its beat. A hard upset is
uncorrectable and turns over the data bits of `flips`; any other is a single-bit error, which every read corrects
(R327, R329, R330). `word` counts 8-byte words of the slice, or of the vector file (8 words a register). -/
inductive Upset where
  | pasture (word : BitVec 17) (hard : Bool) (flips : BitVec 64)
  | vfile (word : BitVec 8) (hard : Bool) (flips : BitVec 64)
  deriving DecidableEq, Repr

/-- An access of Polter's own that a retry names (Table 10-9). -/
inductive OwnRef where
  | completion (ring : BitVec 8)
  | event
  | message
  | runLog
  deriving DecidableEq, Repr

/-- RS_ID and RS_DATA of a response (Table 10-3). -/
structure DataResponse where
  id   : BitVec 10
  data : BitVec 512
  deriving DecidableEq, Repr

/-- Where the folds of a descriptor stop at the timeout of its port, and how many beats of the tile in progress the port had
taken (R271). -/
structure PortStop where
  pts   : Progress
  beats : Nat
  deriving DecidableEq, Repr

/-- A fault that a datapath checker finds: its row of Table 13-1 and, for row 5, a beat as it enters and as it leaves a stage of
the permuter, in nibble mode or not (R328). -/
structure CheckFault where
  part   : BitVec 4
  nibble : Bool
  inp    : BitVec 512
  out    : BitVec 512
  deriving DecidableEq, Repr

/-- The commands: the rows of the spec's table. -/
inductive Instr where
  -- resets and bring-up (15)
  | blockReset
  | resetRelease
  | pastureClearDone
  | planStoreClearDone
  | portReady (port : PortName)
  | rootOfTrustSuccess (build : BitVec 16) (image : List Byte)
  | rootOfTrustFailure
  | shepherdRunning
  | earlyMount (key : BitVec 256)
  | ledgerKeyTimeout
  | lateMountDone
  | calibrationDone (rd wr port : BitVec 16)
  | firstPatrolWave (wave : BitVec 3) (failing : List (BitVec 7))
  | enable (nudgeEn : Bool)
  | twinPrepared (k : BitVec 3)
  | remap
  -- pens (08)
  | nudgeEnChange (on : Bool)
  | nudge (pen : BitVec 12)
  | reload (pen : BitVec 12) (entry : BitVec 512)
  | crload (ring : BitVec 8) (entry : BitVec 128)
  | nudgeMapWrite (w : BitVec 7) (bits : BitVec 32)
  | doorbellSweep
  | doorbellWord (pen : BitVec 12) (word : BitVec 64)
  | fetchTurn
  | descriptorBurst (pen : BitVec 12) (cells : List Cell)
  | admission
  | heldAdmission
  | stepRefresh
  | stepRefreshDone
  -- period, bell, gate, power, heat (08, 11, 12, 15)
  | periodBoundary (cost : Option (BitVec 16 × BitVec 16 × BitVec 16)) (planUpsets : List (Nat × Nat))
  | bell
  | gateBell
  | gateRelease
  | pwrWarn
  | pwrWarnReturn
  | thermLvlChange (lvl : BitVec 2)
  -- the opcodes of Table 07-6; `d` is the serial number of the descriptor
  | copy (d : Nat)
  | transpose (d : Nat)
  | permute (d : Nat)
  | shuffle (d : Nat)
  | gather (d : Nat)
  | scatter (d : Nat)
  | convert (d : Nat)
  | pack (d : Nat)
  | unpack (d : Nat)
  | tprod (d : Nat)
  | cbload (d : Nat)
  | requant (d : Nat)
  | deliver (d : Nat) (stall : Nat)
  | collect (d : Nat) (stall : Nat)
  | nrBeat (port : BitVec 1) (ofs : BitVec 26) (data : BitVec 512) (last poison : Bool)
  | portStallTimeout (d : Nat) (stop : PortStop)
  | vload (d : Nat)
  | vstore (d : Nat)
  | vmove (d : Nat)
  | release (d : Nat)
  | route (d : Nat)
  | fence (d : Nat)
  | nop (d : Nat)
  | gateArm (d : Nat)
  | gateHold (d : Nat)
  | digest (d : Nat)
  | tally (d : Nat)
  | runLogWrite
  | leafFold
  | cancel (d : Nat) (pts : List (Nat × Progress))
  | planload (d : Nat) (fault : Bool)
  | seedset (d : Nat)
  -- suspension (06)
  | preemptionSuspend (d : Nat) (fold : BitVec 6) (units : Nat)
  | suspendedResume (fold : BitVec 6)
  -- streaming and the SN ports (09, 10)
  | crookGrant (d : Nat) (fold : BitVec 6) (line : BitVec 42) (write : Bool)
  | ringTransferStart (d : Nat) (index : Nat)
  | snReadResponse (port : BitVec 3) (id : BitVec 10) (data : BitVec 512) (poison : Bool)
  | snWriteResponse (port : BitVec 3) (id : BitVec 10)
  | snRetry (port : BitVec 3) (id : BitVec 10)
  | retryReissue (port : BitVec 3) (id : BitVec 10)
  | xstall (port : BitVec 3) (id : BitVec 10) (units : Nat) (row : Nat)
  | xdeny (port : BitVec 3) (id : BitVec 10) (pts : Progress)
  | derr (port : BitVec 3) (rs : DataResponse)
  | snUnexpected (port : BitVec 3) (id : BitVec 10) (write : Bool)
  | snTimeout (port : BitVec 3) (id : BitVec 10) (pts : Progress)
  | xresumeRetry (fold : BitVec 6)
  | xresumeAbort (fold : BitVec 6) (pts : Progress)
  | xlatWaitExpiry (fold : BitVec 6) (pts : Progress)
  -- completion, interrupts, events (08, 13, 14)
  | completionRecord (d : Nat)
  | consumerReread (ring : BitVec 8) (cons : BitVec 32) (fault : Bool)
  | interruptMessage
  | intMaskWrite (mask : BitVec 32)
  | eventRecord
  | ownAccessRetry (which : OwnRef) (fault : Bool)
  -- faults (13), twins (11)
  | scrubSlot (phys : BitVec 7) (upsets : List Upset)
  | scrubReread (phys : BitVec 7) (word : Nat)
  | mramScrub (sealArray : Bool) (word : Nat) (corrected bad : Bool)
  | patrolSlice (phys : BitVec 7) (slice : BitVec 4) (failed : Option (List (Nat × Progress)))
  | datapathCheck (d : Nat) (fold : BitVec 6) (found : CheckFault) (units : Nat) (pts : Progress)
  | twinDiverge (k : BitVec 3) (d : Nat) (units : Nat) (pts : Progress)
  | foldRetire (phys : BitVec 7) (pts : List (Nat × Progress))
  | spareIn (logical : BitVec 6) (lost : Bool)
  | fatal (cause : BitVec 8) (phys : BitVec 7) (pts : List (Nat × Progress)) (mramSound snSound : Bool)
  | watchdogTimeout (pts : List (Nat × Progress)) (mramSound snSound : Bool)
  -- the tally book (12)
  | epochClose
  | epochCommitDone
  | sealCommit
  | cut
  | epochSWrite (v : BitVec 10)
  | exportGo (hi : BitVec 32)
  | exportDone
  -- pause (11), registers (14), gating and debug (10, 15)
  | pause
  | pauseComplete (pts : List (Nat × Progress))
  | resume
  | twinCfgWrite (k : BitVec 3) (word : BitVec 32)
  | registerWrite (offset : BitVec 12) (word : BitVec 32) (strobes : BitVec 4)
  | foldGateOff (phys : BitVec 7)
  | portClockGate (port : PortName)
  | qosAging (port : BitVec 3) (id : BitVec 10)
  | debugRead (addr : BitVec 32)
  | testModeEntry
  | shepherdSramClearDone
  | debugPortOpen
  deriving DecidableEq, Repr

end Sys2Proof
end

