-- ==== Sys2Proof/Decode.lean ====
section
/-!
DEFINITION. The spec gives no command a word: no row of its table of operations and events has bits (a descriptor's
cells are parsed in Machine/Descriptor.lean, where the stile's checks give a malformed one its status). So no word
spells a command.
-/
namespace Sys2Proof

/-- The command that a word spells by the table's bits: none, since no row gives bits. -/
def decodeTableWord (_nbits _w : Nat) : Option Instr := none

end Sys2Proof
end

