-- ==== Sys2Proof/Machine/Bits.lean ====
section
/-!
DEFINITION. Bit fields, sign extension and little-endian bytes (R8). A field is read from the number that a cell or a
register holds.
-/
namespace Sys2Proof.Machine

/-- Field of `w` bits from bit `lo` of `x`. -/
def fld (x lo w : Nat) : Nat := (x >>> lo) % 2 ^ w

/-- Bit `i` of `x`. -/
def bit (x i : Nat) : Bool := x.testBit i

/-- The field of `w` bits at `lo`, placed in a number that is zero elsewhere. -/
def place (v lo w : Nat) : Nat := (v % 2 ^ w) <<< lo

/-- A Bool as a number. -/
def b2n (b : Bool) : Nat := if b then 1 else 0

/-- Two's complement value of the low `w` bits of `x`. -/
def sext (x w : Nat) : Int :=
  let v := x % 2 ^ w
  if v < 2 ^ (w - 1) then (v : Int) else (v : Int) - (2 ^ w : Nat)

/-- The low `w` bits of an integer. -/
def toBits (v : Int) (w : Nat) : Nat := (v % ((2 ^ w : Nat) : Int)).toNat

/-- `k` little-endian bytes of `n`. -/
def leBytes : Nat → Nat → List Byte
  | _, 0 => []
  | n, k + 1 => BitVec.ofNat 8 n :: leBytes (n / 256) k

/-- The number whose little-endian bytes are given. -/
def leNat : List Byte → Nat
  | [] => 0
  | b :: r => b.toNat + 256 * leNat r

/-- `k` big-endian bytes of `n`. -/
def beBytes (n k : Nat) : List Byte := (leBytes n k).reverse

/-- The number whose big-endian bytes are given. -/
def beNat (l : List Byte) : Nat := leNat l.reverse

/-- Ceiling of a quotient. -/
def cdiv (a b : Nat) : Nat := (a + b - 1) / b

/-- clamp(v, lo, hi) of 00_scope.md, "Tables, field maps, timing and pseudocode". -/
def clampI (v lo hi : Int) : Int := if v < lo then lo else if v > hi then hi else v

/-- Sum of a list of numbers. -/
def sumN : List Nat → Nat
  | [] => 0
  | a :: r => a + sumN r

/-- Largest of a list of numbers, 0 when it is empty. -/
def maxN : List Nat → Nat
  | [] => 0
  | a :: r => Nat.max a (maxN r)

/-- Number of ones among the low `n` bits. -/
def popN (x : Nat) : Nat → Nat
  | 0 => 0
  | n + 1 => b2n (x.testBit n) + popN x n

/-- Position of the lowest one among bits `lo` up to `lo + n`. -/
def lowBitFrom (x lo : Nat) : Nat → Option Nat
  | 0 => none
  | n + 1 => if x.testBit lo then some lo else lowBitFrom x (lo + 1) n

/-- First element that passes, with its place. -/
def findIdx1 {α : Type} (p : α → Bool) : List α → Nat → Option Nat
  | [], _ => none
  | a :: r, i => if p a then some i else findIdx1 p r (i + 1)

/-- The list with its entry `i` replaced. -/
def setNth {α : Type} : List α → Nat → α → List α
  | [], _, _ => []
  | _ :: r, 0, v => v :: r
  | a :: r, i + 1, v => a :: setNth r i v

/-- The list without repeats, last occurrences kept. -/
def dedup {α : Type} [DecidableEq α] : List α → List α
  | [] => []
  | a :: r => if a ∈ r then dedup r else a :: dedup r

/-- Insert a number into a rising list. -/
def insertN (a : Nat) : List Nat → List Nat
  | [] => [a]
  | b :: r => if a < b then a :: b :: r else if a = b then b :: r else b :: insertN a r

/-- The numbers of a list in rising order, each once. -/
def sortN : List Nat → List Nat
  | [] => []
  | a :: r => insertN a (sortN r)

/-- The numbers `a`, `a + 1`, …, `n` of them. -/
def rangeFrom (a n : Nat) : List Nat := (List.range n).map (fun i => a + i)

end Sys2Proof.Machine
end

