-- ==== Sys2Proof/Machine/Elem.lean ====
section
/-!
DEFINITION. Element types (R30, Table 02-2) and the exact dyadic arithmetic behind every floating-point rule of the
spec: a finite value is ± m × 2^e, and every rounding is to nearest even (R129, R154).
-/
namespace Sys2Proof.Machine

/-- The element types of Table 02-2. -/
inductive ETy where
  | u4 | s4 | u8 | s8 | s16 | s32 | e4m3 | e5m2 | fp16 | bf16 | fp32 | u2 | s2 | s48 | u16
  deriving DecidableEq, Repr

/-- Element type of a code; 0 names none (R30). -/
def ETy.ofCode : Nat → Option ETy
  | 1 => some .u4 | 2 => some .s4 | 3 => some .u8 | 4 => some .s8 | 5 => some .s16 | 6 => some .s32
  | 7 => some .e4m3 | 8 => some .e5m2 | 9 => some .fp16 | 10 => some .bf16 | 11 => some .fp32
  | 12 => some .u2 | 13 => some .s2 | 14 => some .s48 | 15 => some .u16
  | _ => none

/-- Width in bits. -/
def ETy.width : ETy → Nat
  | .u4 | .s4 => 4
  | .u8 | .s8 | .e4m3 | .e5m2 => 8
  | .s16 | .fp16 | .bf16 | .u16 => 16
  | .s32 | .fp32 => 32
  | .u2 | .s2 => 2
  | .s48 => 48

/-- Element width in bytes, 1 for a sub-byte type. -/
def ETy.bytes (t : ETy) : Nat := Nat.max 1 (t.width / 8)

/-- Sub-byte types. -/
def ETy.sub (t : ETy) : Bool := decide (t.width < 8)

/-- Two's complement types. -/
def ETy.signed : ETy → Bool
  | .s4 | .s8 | .s16 | .s32 | .s2 | .s48 => true
  | _ => false

/-- A floating-point format: exponent bits, mantissa bits, bias, and whether it has infinities (E4M3 has none). -/
structure Fmt where
  ebits : Nat
  mbits : Nat
  bias  : Nat
  inf   : Bool
  deriving DecidableEq, Repr

/-- The format of a floating-point type. -/
def ETy.fmt : ETy → Option Fmt
  | .e4m3 => some { ebits := 4, mbits := 3, bias := 7, inf := false }
  | .e5m2 => some { ebits := 5, mbits := 2, bias := 15, inf := true }
  | .fp16 => some { ebits := 5, mbits := 10, bias := 15, inf := true }
  | .bf16 => some { ebits := 8, mbits := 7, bias := 127, inf := true }
  | .fp32 => some { ebits := 8, mbits := 23, bias := 127, inf := true }
  | _ => none

/-- The FP32 format. -/
def fmt32 : Fmt := { ebits := 8, mbits := 23, bias := 127, inf := true }

/-- The FP16 format. -/
def fmt16 : Fmt := { ebits := 5, mbits := 10, bias := 15, inf := true }

/-- A floating-point value: NaN, an infinity, or ± m × 2^e. -/
inductive FVal where
  | nan
  | inf (neg : Bool)
  | fin (neg : Bool) (m : Nat) (e : Int)
  deriving DecidableEq, Repr

/-- The value that bits of a format encode. -/
def Fmt.decode (f : Fmt) (x : Nat) : FVal :=
  let man := fld x 0 f.mbits
  let ex := fld x f.mbits f.ebits
  let neg := bit x (f.ebits + f.mbits)
  let top := 2 ^ f.ebits - 1
  if f.inf && decide (ex = top) then (if man = 0 then .inf neg else .nan)
  else if !f.inf && decide (ex = top) && decide (man = 2 ^ f.mbits - 1) then .nan
  else if ex = 0 then .fin neg man (1 - (f.bias : Int) - f.mbits)
  else .fin neg (2 ^ f.mbits + man) ((ex : Int) - f.bias - f.mbits)

/-- The canonical NaN of a format (Table 06-5, R129). -/
def Fmt.nanBits (f : Fmt) : Nat :=
  if f.inf then place (2 ^ f.ebits - 1) f.mbits f.ebits + 2 ^ (f.mbits - 1)
  else place (2 ^ f.ebits - 1) f.mbits f.ebits + (2 ^ f.mbits - 1)

/-- Sign bit of a format. -/
def Fmt.signBit (f : Fmt) (neg : Bool) : Nat := place (b2n neg) (f.ebits + f.mbits) 1

/-- Infinity, or the largest finite value where the format has no infinity. -/
def Fmt.infBits (f : Fmt) (neg : Bool) : Nat :=
  f.signBit neg +
    (if f.inf then place (2 ^ f.ebits - 1) f.mbits f.ebits
     else place (2 ^ f.ebits - 1) f.mbits f.ebits + (2 ^ f.mbits - 2))

/-- `m / 2^k` rounded to nearest, ties to even. -/
def rneShift (m k : Nat) : Nat :=
  let q := m >>> k
  let r := m - (q <<< k)
  if k = 0 then q
  else if r > 2 ^ (k - 1) then q + 1
  else if r = 2 ^ (k - 1) ∧ q % 2 = 1 then q + 1
  else q

/-- ± m × 2^e rounded to nearest even in a format; the Bool says that it overflowed. -/
def Fmt.round (f : Fmt) (neg : Bool) (m : Nat) (e : Int) : Nat × Bool :=
  if m = 0 then (f.signBit neg, false)
  else
    let top : Int := (Nat.log2 m : Int) + e
    let emin : Int := 1 - (f.bias : Int)
    let q : Int := (if top < emin then emin else top) - f.mbits
    let m1 := if q ≤ e then m <<< (e - q).toNat else rneShift m (q - e).toNat
    let carry := decide (2 ^ (f.mbits + 1) ≤ m1)
    let m2 := if carry then m1 / 2 else m1
    let q2 : Int := if carry then q + 1 else q
    if m2 < 2 ^ f.mbits then (f.signBit neg + m2, false)
    else
      let ex : Int := q2 + f.mbits + f.bias
      let maxEx : Int := if f.inf then (2 ^ f.ebits : Nat) - 2 else (2 ^ f.ebits : Nat) - 1
      if ex > maxEx ∨ (!f.inf ∧ ex = maxEx ∧ m2 = 2 ^ (f.mbits + 1) - 1) then (f.infBits neg, true)
      else (f.signBit neg + place ex.toNat f.mbits f.ebits + (m2 - 2 ^ f.mbits), false)

/-- A value in a format: NaN canonical, infinity kept or saturated (Table 06-5). -/
def Fmt.encode (f : Fmt) : FVal → Nat × Bool
  | .nan => (f.nanBits, false)
  | .inf neg => (f.infBits neg, !f.inf)
  | .fin neg m e => f.round neg m e

/-- Sign and magnitude of an integer. -/
def intParts (v : Int) : Bool × Nat := (decide (v < 0), v.natAbs)

/-- Integer ± m scaled to exponent `e0 ≤ e`. -/
def dyadic (neg : Bool) (m : Nat) (e e0 : Int) : Int :=
  let v : Int := ((m <<< (e - e0).toNat : Nat) : Int)
  if neg then -v else v

/-- FP32 sum, rounded once; −0 only from two negative zeros. -/
def f32add (x y : Nat) : Nat :=
  match fmt32.decode x, fmt32.decode y with
  | .nan, _ => fmt32.nanBits
  | _, .nan => fmt32.nanBits
  | .inf a, .inf b => if a = b then fmt32.infBits a else fmt32.nanBits
  | .inf a, _ => fmt32.infBits a
  | _, .inf b => fmt32.infBits b
  | .fin a m e, .fin b n k =>
    let e0 : Int := if e ≤ k then e else k
    let v := dyadic a m e e0 + dyadic b n k e0
    if v = 0 then fmt32.signBit (a && b && decide (m = 0) && decide (n = 0))
    else (fmt32.round (intParts v).1 (intParts v).2 e0).1

/-- FP32 negation of the sign bit. -/
def f32neg (x : Nat) : Nat := x ^^^ 2 ^ 31

/-- FP32 product, rounded once. -/
def f32mul (x y : Nat) : Nat :=
  match fmt32.decode x, fmt32.decode y with
  | .nan, _ => fmt32.nanBits
  | _, .nan => fmt32.nanBits
  | .inf a, .inf b => fmt32.infBits (a != b)
  | .inf a, .fin b n _ => if n = 0 then fmt32.nanBits else fmt32.infBits (a != b)
  | .fin a m _, .inf b => if m = 0 then fmt32.nanBits else fmt32.infBits (a != b)
  | .fin a m e, .fin b n k => (fmt32.round (a != b) (m * n) (e + k)).1

/-- An integer in FP32, rounded to nearest even (exact below 2^24 in magnitude). -/
def f32ofInt (v : Int) : Nat := (fmt32.round (intParts v).1 (intParts v).2 0).1

/-- ± m × 2^e rounded to the nearest integer, ties to even. -/
def rneInt (neg : Bool) (m : Nat) (e : Int) : Int :=
  let q : Nat := if 0 ≤ e then m <<< e.toNat else rneShift m (-e).toNat
  if neg then -(q : Int) else (q : Int)

/-- `p / 2^k` of an integer, rounded to nearest even (R128). -/
def rneDiv (p : Int) (k : Nat) : Int :=
  let fl : Int := p / ((2 ^ k : Nat) : Int)
  let r : Int := p - fl * ((2 ^ k : Nat) : Int)
  if k = 0 then p
  else if 2 * r > ((2 ^ k : Nat) : Int) ∨ (2 * r = ((2 ^ k : Nat) : Int) ∧ fl % 2 = 1) then fl + 1
  else fl

/-- Smallest and largest value of an integer type. -/
def ETy.range (t : ETy) : Int × Int :=
  if t.signed then (-((2 ^ (t.width - 1) : Nat) : Int), ((2 ^ (t.width - 1) : Nat) : Int) - 1)
  else (0, ((2 ^ t.width : Nat) : Int) - 1)

/-- The integer value of an integer element. -/
def ETy.toInt (t : ETy) (x : Nat) : Int := if t.signed then sext x t.width else ((x % 2 ^ t.width : Nat) : Int)

end Sys2Proof.Machine
end

