-- ==== Sys2Proof/Config.lean ====
section
/-!
DEFINITION. What the spec leaves without a defined order or value, as opaque constants: nothing in Lean can evaluate
them, so a proof about them holds for every value. Assumption log 3.
-/
namespace Sys2Proof

/-- An undefined choice among `n` alternatives is `Config.freeChoice k` taken modulo `n`, with `k` the model's counter
`State.freeCtr` (R56, R103, R112, R132, R386: "chosen without a defined order"). -/
opaque Config.freeChoice : Nat → Nat

/-- Byte `o` of the padding between the codebooks and the scale area of an image that CBLOAD builds: the spec states no
value, and R278 lets it turn on nothing but the descriptor (R121). -/
opaque Config.codebookPad : Nat → BitVec 8

/-- The route word that a tile or shear path applied last, byte by byte, where no route body gives it (Table 06-5a). -/
opaque Config.routeWord : Nat → BitVec 8

end Sys2Proof
end

