-- ==== Sys2Proof/Machine/State.lean ====
section
/-!
DEFINITION. Everything the spec gives the block, as plain data, and the machine right after reset. Registers keep the
widths of their field maps; tables with many equal entries are sparse. INVENTORY.md lists each field with its rule.
-/
namespace Sys2Proof.Machine

/-! ### Fuses, pins, bring-up -/

/-- The three grades (R3, Table 00-2). -/
inductive Grade where
  | p64 | p48 | p32
  deriving DecidableEq, Repr

/-- Enabled logical folds of a grade (Table 00-2). -/
def Grade.folds : Grade → Nat
  | .p64 => 64 | .p48 => 48 | .p32 => 32

/-- Grade code (Table 00-2). -/
def Grade.code : Grade → Nat
  | .p64 => 0x40 | .p48 => 0x30 | .p32 => 0x20

/-- What the fuses hold: the grade, the physical fold of each enabled logical fold in order, and the four spares
(R3, R17, R354). Every other physical fold is fused off. -/
structure Fuses where
  grade  : Grade
  phys   : List Nat
  spares : List Nat
  deriving DecidableEq, Repr

/-- The pins and what they hold at their accepted level (Table 15-2, R293, R335). -/
structure Pins where
  rstLow   : Bool
  testMode : Bool
  fatalN   : Bool
  gateArm  : Bool
  warn     : Bool
  deriving DecidableEq, Repr

/-- What the root of trust has signalled (R373). -/
inductive RotSignal where
  | none | success | failure
  deriving DecidableEq, Repr

/-- Progress of bring-up (R372 to R374). -/
structure Boot where
  pastureDone  : Bool
  planDone     : Bool
  sramDone     : Bool
  rot          : RotSignal
  build        : BitVec 16
  shepherdTick : Option Nat
  calibrated   : Bool
  passed       : List Nat
  debugOpen    : Bool
  deriving DecidableEq, Repr

/-! ### Registers -/

/-- PLT_READY (Table 14-4). -/
structure Ready where
  fold     : BitVec 64
  stile    : Bool
  plan     : Bool
  tally    : Bool
  shepherd : Bool
  sn       : BitVec 8
  ne       : BitVec 4
  nr       : BitVec 2
  deriving DecidableEq, Repr

/-- The registers that software writes, as they stand (chapter 14). -/
structure Cfg where
  enable     : Bool
  remap      : Bool
  nudgeEn    : Bool
  ctxBase    : BitVec 64
  pentab     : BitVec 64
  doorbell   : BitVec 64
  cplring    : BitVec 64
  evtBase    : BitVec 64
  runlogBase : BitVec 64
  radmapBase : BitVec 64
  evtCons    : BitVec 32
  runlogCons : BitVec 32
  radmapCons : BitVec 32
  smmuSid    : BitVec 16
  rshare     : BitVec 11
  period     : BitVec 32
  bellEn     : Bool
  forceCap   : Bool
  dl         : List (BitVec 32)
  snTmo      : BitVec 16
  neTmo      : BitVec 12
  nrTmo      : BitVec 12
  xlatWait   : BitVec 32
  msgAddr    : List (BitVec 64)
  msgData    : List (BitVec 32)
  intMask    : BitVec 4
  epochS     : BitVec 10
  expAddr    : BitVec 64
  expCmd     : BitVec 32
  deriving DecidableEq, Repr

/-- PLT_FATAL (Table 14-6). -/
structure FatalReg where
  cause : BitVec 8
  phys  : BitVec 7
  valid : Bool
  deriving DecidableEq, Repr

/-- State of a physical fold (Table 14-10). -/
inductive PhysState where
  | backs | spare | retired | fusedOff
  deriving DecidableEq, Repr

/-- The fold map (R354): the physical fold of each logical fold, `none` for one that is absent or that the grade does
not enable; the state of each of the 68 physical folds; logical folds made absent (R341); logical folds whose
substitution is under way, with the spare, and the retired fold where its slice is to be copied (R340). -/
structure FoldMap where
  phys   : List (Option Nat)
  state  : List PhysState
  absent : List Nat
  subst  : List (Nat × Nat × Option Nat)
  deriving DecidableEq, Repr

/-- PLT_PAUSE, the image base read when REQ rose, and the folds whose PLT_XRESUME waits for the resume, with ABORT
(R289). -/
structure Pause where
  req    : Bool
  paused : Bool
  busy   : Bool
  base   : BitVec 64
  retry  : List (Nat × Bool)
  deriving DecidableEq, Repr

/-- PLT_TWINk (Table 11-8); `taken` says that Polter has read the entry as a pair, whose shadow is then out of reach,
`prep` that the Shepherd has still to prepare it (R296, R297, R299). -/
structure Twin where
  pri    : BitVec 6
  shd    : BitVec 6
  en     : Bool
  active : Bool
  fault  : Bool
  taken  : Bool
  prep   : Bool
  deriving DecidableEq, Repr

/-- The period and the bell (R233, R292, Tables 11-7 and 14-15). `inForce` is P; `pending` new values of P, each with the
number of boundaries still to be taken before it applies; `next` the boundary not yet taken; `snapped` a snap whose boundary has
not been taken. -/
structure Period where
  num      : BitVec 64
  tb       : Nat
  next     : Option Nat
  inForce  : Nat
  pending  : List (Nat × Nat)
  snapped  : Bool
  locked   : Bool
  freeRun  : Bool
  misses   : Nat
  ignored  : Nat
  deriving DecidableEq, Repr

/-- The gate (R291, R293, R294): the last tick at which BELL_IN is known to have been high, the last bell's tick with whether the
block was armed at it, and the tick of a release that is due. -/
structure Gate where
  high     : Option Nat
  lastBell : Option (Nat × Bool)
  release  : Option Nat
  deriving DecidableEq, Repr

/-- PLT_THERM beside FORCE_CAP, with the tick from which the accepted level applies (R361, R377). -/
structure Therm where
  lvl     : BitVec 2
  before  : BitVec 2
  from_   : Nat
  l3      : Bool
  l3count : BitVec 16
  deriving DecidableEq, Repr

/-- PLT_COST (Table 14-17). -/
structure Cost where
  rd   : BitVec 16
  wr   : BitVec 16
  port : BitVec 16
  deriving DecidableEq, Repr

/-! ### Folds -/

/-- State of a vector register (Table 06-1). -/
inductive RegState where
  | empty | loading | full | tile
  deriving DecidableEq, Repr

/-- A vector register: 512 bits, a raddle bit for each byte lane, its state (R146, R147), and a bit for each 64-bit
word that holds an uncorrectable error (Table 13-1). -/
structure VReg where
  data : BitVec 512
  rad  : BitVec 64
  st   : RegState
  err  : BitVec 8
  deriving DecidableEq, Repr

/-- What an EMPTY register holds (Table 06-1). -/
def VReg.blank : VReg := { data := 0, rad := 0, st := .empty, err := 0 }

/-- SROW's own fields (Table 06-6); TARGET, FULL and MODE are read from the registers and the file mode. -/
structure Srow where
  row     : BitVec 16
  unit    : BitVec 32
  rvalid  : BitVec 32
  susp    : Bool
  sat     : Bool
  constCh : Bool
  tag     : BitVec 32
  brand   : BitVec 16
  dpart   : BitVec 64
  clamps  : BitVec 32
  raddles : BitVec 32
  deriving DecidableEq, Repr

/-- SROW after a block reset (R164). -/
def Srow.blank : Srow :=
  { row := 0, unit := 0, rvalid := 0, susp := false, sat := false, constCh := false, tag := 0, brand := 0, dpart := 0,
    clamps := 0, raddles := 0 }

/-- A route cache entry (Table 03-8). -/
structure RouteEntry where
  key   : BitVec 64
  body  : BitVec 26
  rm1   : BitVec 6
  ew    : BitVec 2
  n     : BitVec 13
  valid : Bool
  deriving DecidableEq, Repr

/-- A clear route cache entry (R93). -/
def RouteEntry.blank : RouteEntry := { key := 0, body := 0, rm1 := 0, ew := 0, n := 0, valid := false }

/-- Why a fold holds a suspended descriptor (R163, R274, R289). -/
inductive SuspWhy where
  | fault (tick : Nat) (limit : Nat)
  | preempt (by_ : Nat)
  | pause
  deriving DecidableEq, Repr

/-- A suspended descriptor; `ready` once its fault is serviced or its preemptor has completed (R163). -/
structure Susp where
  did   : Nat
  why   : SuspWhy
  ready : Bool
  deriving DecidableEq, Repr

/-- The bits of one byte that a unit writes, with their raddle. `mask` marks the bits written. -/
structure Piece where
  host : Bool
  key  : Nat
  mask : Nat
  val  : Nat
  rad  : Bool
  deriving DecidableEq, Repr

/-- A host line landed in a drover's landing buffer, with the unit that asked for it (R238, R239). -/
structure Landed where
  did  : Nat
  unit : Nat
  line : Nat
  data : BitVec 512
  rad  : Bool
  deriving DecidableEq, Repr

/-- A drover batch (R238): one descriptor, direction, unit and SN port; lines issued, and of those the ones not yet
answered. -/
structure Batch where
  did   : Nat
  write : Bool
  unit  : Nat
  path  : Nat
  lines : Nat
  open_ : Nat
  deriving DecidableEq, Repr

/-- The reuse latches (Table 06-5a), each with the bytes that it holds and their raddle, or invalid. The code, table and
operand latches are filled and given up inside one commit unit, so they are invalid between two commands; the route latch
holds a route body, the permute latch the last route word. -/
structure Latches where
  code    : Option (List (Byte × Bool))
  table   : Option (List Int)
  operand : Option (List (Byte × Bool))
  route   : Option (List (Byte × Bool))
  permute : Option (List (Byte × Bool))
  deriving DecidableEq, Repr

/-- Every latch invalid (R162). -/
def Latches.clear : Latches := { code := none, table := none, operand := none, route := none, permute := none }

/-- The state of one physical fold besides its pasture. `inPlace` is a fault of a descriptor that runs beside a
suspended one and waits where it stands (R163); `lastTick` the tick of the fold's last activity (R376); `strikes` the
detected faults of the descriptors it runs, each with the unit struck (R299, R333); `egress` the bytes that its egress buffer
holds for host lines that a later commit unit shares, with the descriptor (R127, R237). -/
structure Fold where
  vregs     : Sparse VReg
  acc       : Bool
  srow      : Srow
  route     : Sparse RouteEntry
  running   : Option Nat
  susp      : Option Susp
  inPlace   : Option Susp
  landing   : List Landed
  batches   : List Batch
  egress    : List (Nat × Piece)
  latches   : Latches
  scrub     : Nat
  patrol    : Nat
  logicOn   : Bool
  lastTick  : Nat
  strikes   : List (Nat × Nat)
  deriving DecidableEq, Repr

/-- A fold after a block reset (R93, R146, R164, R237). -/
def Fold.blank : Fold :=
  { vregs := [], acc := false, srow := Srow.blank, route := [], running := none, susp := none, inPlace := none, landing := [],
    batches := [], egress := [], latches := Latches.clear, scrub := 0, patrol := 0, logicOn := false, lastTick := 0,
    strikes := [] }

/-- Error state of a pasture word that holds one (R329, R330). -/
inductive WordErr where
  | none | single | hard
  deriving DecidableEq, Repr

/-! ### Pens and descriptors -/

/-- A pen table entry as read (Table 08-1). -/
structure PenEntry where
  en     : Bool
  rsv    : Bool
  qos    : Nat
  cplr   : Nat
  credit : Nat
  logsz  : Nat
  ring   : Nat
  allot  : Nat
  xallot : Nat
  share  : Nat
  depth  : Nat
  deriving DecidableEq, Repr

/-- An entry of zeros. -/
def PenEntry.blank : PenEntry :=
  { en := false, rsv := false, qos := 0, cplr := 0, credit := 0, logsz := 0, ring := 0, allot := 0, xallot := 0,
    share := 0, depth := 0 }

/-- A recorded layer of a run, with the STEP of the DIGEST that entered it (R285). -/
structure Layer where
  layer  : Nat
  digest : BitVec 64
  step   : Nat
  deriving DecidableEq, Repr

/-- The state the stile keeps of one pen. `pdid` is the serial number of the legend at the head of `partial_`. -/
structure Pen where
  loaded   : Bool
  served   : Bool
  ent      : PenEntry
  rsv      : Bool
  pidx     : BitVec 32
  cidx     : BitVec 32
  passed   : Bool
  partial_ : List Cell
  pdid     : Nat
  ft       : Nat
  xl       : Nat
  hpen     : Nat
  tokens   : Nat
  tokTick  : Nat
  seed     : BitVec 64
  layers   : List Layer
  stepOpen : Option Nat
  stoch    : List Nat
  mv       : List Nat
  deriving DecidableEq, Repr

/-- A pen whose entry has not been read. -/
def Pen.blank : Pen :=
  { loaded := false, served := false, ent := PenEntry.blank, rsv := false, pidx := 0, cidx := 0, passed := false,
    partial_ := [], pdid := 0, ft := 0, xl := 0, hpen := 0, tokens := 0, tokTick := 0, seed := 0, layers := [], stepOpen := none,
    stoch := [], mv := [] }

/-- Status codes (Table 08-8). -/
inductive Status where
  | done | doneNoted | raddled
  | refusedBudget | refusedShape | refusedRange | refusedAlias | refusedEncoding | refusedGrade
  | xlatFault | foldLost | twinMismatch | portTimeout | cancelled | pvBrand
  deriving DecidableEq, Repr

/-- What a descriptor held at admission waits for: the order of its pen (R180, R196), a scoreboard entry (R18), a STEP
refresh (R315), room for a run record (R322). -/
inductive HoldWhy where
  | order | entry | step | tally
  deriving DecidableEq, Repr

/-- Stage of a descriptor. `ended` waits for its completion record. -/
inductive Stage where
  | fetched
  | held (why : HoldWhy)
  | admitted
  | ended
  deriving DecidableEq, Repr

/-- One element of a descriptor's covered sequence (R283): the fold that processed it, the part of the sequence and
the place in it, width, value written and raddle. -/
structure Cov where
  fold : Nat
  part : Nat
  key : Nat
  w   : Nat
  val : Nat
  rad : Bool
  deriving DecidableEq, Repr

/-- Lines of one unit that a fold has issued, reads or writes, in the order of R240. -/
structure Sent where
  fold  : Nat
  unit  : Nat
  write : Bool
  n     : Nat
  deriving DecidableEq, Repr

/-- A host line of a committed unit whose write met a recoverable fault: it is written again when the descriptor resumes
(R165, R274). -/
structure WLine where
  fold : Nat
  unit : Nat
  line : Nat
  data : BitVec 512
  strb : BitVec 64
  poison : Bool
  deriving DecidableEq, Repr

/-- What one fold has counted for a descriptor so far (R49, R114, R154, R164): clamps, positions dropped, saturation, a
constant channel. `xrad` and `xdig` are what a context image changed in RADDLES and DPART (R290). -/
structure FoldAcc where
  fold    : Nat
  clamps  : Nat
  drops   : List Nat
  sat     : Bool
  constCh : Bool
  xrad    : Int
  xdig    : BitVec 64
  deriving DecidableEq, Repr

/-- Nothing counted on a fold yet. -/
def FoldAcc.fresh (f : Nat) : FoldAcc :=
  { fold := f, clamps := 0, drops := [], sat := false, constCh := false, xrad := 0, xdig := 0 }

/-- The bytes that one unit of fold `fold` wrote to a destination that overlaps itself, each with the byte that its fold read
there (R56, R103, R112, R386). -/
structure Win where
  fold  : Nat
  bytes : List (Piece × (Byte × Bool))
  deriving DecidableEq, Repr

/-- A drain beat taken by a COLLECT (R271). -/
structure DrainBeat where
  data : BitVec 512
  rad  : Bool
  deriving DecidableEq, Repr

/-- A descriptor from its fetch to the issue of its completion record. `work` holds each executing fold's units from its
start on; `install` the route cache entries that a ROUTE installs when it completes; `marked` a raddled input that
leaves no raddled output to count (R91); `since` is the tick at which it last started or resumed, `ordPort` and `ordId` the port and ID of the writes of an ORDERED
descriptor (R247, R258). `backgr` says that a page fault voided its bound, so that it runs as background (R226). `heads` are the
table image headers that the folds of a TPROD read at its release, with their raddle (R123), `slots` the route cache entries
that the folds of a SHUFFLE read as they start it (R85). `sent` are the lines issued for
units not yet committed, `wire` those of them, (fold, unit, line), whose bytes a write transaction carries, `redo` the units
that a fold restarted and reads anew, `stalled` the lines to be written again. `wins` are the units that wrote a destination overlapping itself. `stallFrom` is the tick at which the timeout of
its port started, with its length (R271). -/
structure Desc where
  did      : Nat
  pen      : Nat
  index    : BitVec 32
  cells    : List Cell
  plan     : Option Nat
  stage    : Stage
  -- what admission gives it (R219 to R222, R236)
  admitted : Bool
  step     : Nat
  tAdmit   : Nat
  bound    : Option Nat
  start    : Nat
  xbytes   : Nat
  issued   : Nat
  seed     : BitVec 64
  period   : Nat
  folds    : List Nat
  waitOn   : List Nat
  targets  : List Nat
  -- how far it has come
  begun    : Bool
  since    : Nat
  prog     : Progress
  void     : Bool
  backgr   : Bool
  noted    : Bool
  tried    : Bool
  work     : List (Nat × List (List Nat))
  derr     : List Nat
  drain    : List DrainBeat
  heads    : List (Nat × BitVec 512 × Bool)
  slots    : List (Nat × RouteEntry)
  sent     : List Sent
  wire     : List (Nat × Nat × Nat)
  redo     : List (Nat × Nat)
  stalled  : List WLine
  wins     : List Win
  ordPort  : Option Nat
  ordId    : Option Nat
  stallFrom : Option (Nat × Nat)
  -- what its record will say (R216, R337, R338)
  cov      : List Cov
  accs     : List FoldAcc
  marked   : Bool
  install  : List (Nat × RouteEntry)
  status   : Status
  digest   : BitVec 64
  tDone    : Nat
  deriving DecidableEq, Repr

/-- A fetched descriptor. -/
def Desc.fresh (did pen : Nat) (index : BitVec 32) (cells : List Cell) (plan : Option Nat) : Desc :=
  { did := did, pen := pen, index := index, cells := cells, plan := plan, stage := .fetched, admitted := false,
    step := 0, tAdmit := 0, bound := none, start := 0, xbytes := 0, issued := 0, seed := 0, period := 0, folds := [],
    waitOn := [], targets := [], begun := false, since := 0, prog := [], void := false, backgr := false, noted := false,
    tried := false, work := [], derr := [], drain := [], heads := [], slots := [], sent := [], wire := [], redo := [], stalled := [], wins := [],
    ordPort := none, ordId := none, stallFrom := none, cov := [], accs := [], marked := false, install := [], status := .done,
    digest := 0, tDone := 0 }

/-- An outstanding burst of descriptor cells: its pen, its first cell's index, its cells, and the serial number that a legend in
its first cell takes (R211, R212). -/
structure Burst where
  pen   : Nat
  first : BitVec 32
  cells : Nat
  base  : Nat
  deriving DecidableEq, Repr

/-- The stile (R204, R209, R211, R236, R242). `queue` is the fetch queue, each pen with the
tick at which its PIDX was accepted, or none for one that went to the back; `bursts` the outstanding bursts, oldest first; `sweepAt` the next sweep of the doorbells and `sweepLong` whether the gap after it is 188
ticks; `stepOn` the STEP when ENABLE rose (Table 12-5). -/
structure Stile where
  step      : BitVec 64
  stepOn    : Nat
  queue     : List (Nat × Option Nat)
  bursts    : List Burst
  doorbells : List Nat
  dbFault   : List Nat
  sweepAt   : Option Nat
  sweepLong : Bool
  deriving DecidableEq, Repr

/-- Horizons in ticks (R220, R251): folds, NE and NR ports (0 to 3 and 4 to 5), link directions (2f up, 2f + 1 down). -/
structure Horizons where
  fold : Sparse Nat
  port : Sparse Nat
  link : Sparse Nat
  deriving DecidableEq, Repr

/-- A standing plan (R235): the loaded image, the staged one with the PLANLOAD that brought it, a pending CLEAR, and
the cells of the loaded image that hold an uncorrectable word (R334). -/
structure Plan where
  loaded : Option (Nat × List Cell)
  staged : Option (Nat × List Cell × Nat)
  clear  : Option Nat
  bad    : List Nat
  deriving DecidableEq, Repr

/-- No plan. -/
def Plan.blank : Plan := { loaded := none, staged := none, clear := none, bad := [] }

/-! ### Rings, records, messages -/

/-- A completion ring (R214, R215, R217). `faulted` and `consFault` are episodes of faults on its record writes and on its
consumer word (Table 10-9). -/
structure CplRing where
  loaded    : Bool
  bad       : Bool
  base      : Nat
  logsz     : Nat
  vec       : Nat
  ie        : Bool
  w         : BitVec 32
  cons      : BitVec 32
  held      : List Nat
  full      : Bool
  badLogged : Bool
  faulted   : Bool
  consFault : Bool
  deriving DecidableEq, Repr

/-- A ring whose entry has not been read. -/
def CplRing.blank : CplRing :=
  { loaded := false, bad := false, base := 0, logsz := 0, vec := 0, ie := false, w := 0, cons := 0, held := [],
    full := false, badLogged := false, faulted := false, consFault := false }

/-- An event record as queued (Table 13-8). -/
structure EvRec where
  code  : BitVec 16
  fold  : Option Nat
  tag   : BitVec 32
  brand : BitVec 16
  pen   : BitVec 12
  tick  : Nat
  info  : BitVec 64
  deriving DecidableEq, Repr

/-- The event ring (R343): `w` is the W field, `issue` the index of the next record to issue. -/
structure EvtRing where
  w       : BitVec 32
  issue   : BitVec 32
  queue   : List EvRec
  dropped : Nat
  faulted : Bool
  deriving DecidableEq, Repr

/-- A run record (Table 12-5) from its TALLY to the response of its run log writes. `layers`, `stepOpen`, `stoch` and
`mvs` are the run that it closed, which an abandoned TALLY leaves open (R318). -/
structure RunRec where
  did      : Nat
  pen      : Nat
  bytes    : List Byte
  mv       : Bool
  folded   : Bool
  layers   : List Layer
  stepOpen : Option Nat
  stoch    : List Nat
  mvs      : List Nat
  deriving DecidableEq, Repr

/-- The run log (R306) and the raddle map ring (R339). -/
structure LogRings where
  runW      : BitVec 32
  runFull   : Bool
  runFault  : Bool
  radW      : BitVec 32
  deriving DecidableEq, Repr

/-- What one of Polter's own accesses is for (R242, Table 10-9). -/
inductive OwnKind where
  | doorbell (pen : Nat)
  | burst (pen : Nat)
  | completion (ring : Nat) (did : Nat)
  | event
  | message (vec : Nat) (pend : Bool)
  | runLog (did : Nat) (cells : Nat)
  | map (ring : Nat) (did : Nat) (entries : Nat)
  deriving DecidableEq, Repr

/-- One of Polter's own accesses in flight; `writes` are the bytes it stores. `waiting` marks one that met a
translation fault and waits for its retry (R277). -/
structure Own where
  key     : Nat
  kind    : OwnKind
  writes  : List (Nat × Byte)
  waiting : Bool
  deriving DecidableEq, Repr

/-! ### Boundary ports -/

/-- Owner of an SN transaction. -/
inductive Owner where
  | drover (phys did : Nat)
  | own (key : Nat)
  deriving DecidableEq, Repr

/-- A request as it leaves on an SN port, with its write data beat: the Out signals of Table 10-3 beside VALID (R264).
RQ_LOCK is 0 on every one. -/
structure SnReq where
  port    : Nat
  write   : Bool
  id      : Nat
  line    : Nat
  sid     : BitVec 16
  qos     : Nat
  noalloc : Bool
  msg     : Bool
  data    : BitVec 512
  strb    : BitVec 64
  poison  : Bool
  deriving DecidableEq, Repr

/-- A request of a descriptor that waits for entitlement or bucket tokens, with the tick at which it was made (R245). -/
structure Waiter where
  did  : Nat
  fold : Nat
  tick : Nat
  deriving DecidableEq, Repr

/-- An outstanding SN transaction (R258, R264, R266, R268): its request, and the unit that it serves where it is a
drover's. `aged` counts what it has aged while it waits at its port to be sent again. -/
structure Txn where
  port    : Nat
  id      : Nat
  write   : Bool
  line    : Nat
  owner   : Owner
  unit    : Nat
  req     : SnReq
  qos     : Nat
  aged    : Nat
  arrival : Nat
  limit   : Nat
  retryAt : Option Nat
  deriving DecidableEq, Repr

/-- The SN ports: outstanding transactions, quarantined IDs (port, id), and clock gates of the three port groups. -/
structure Ports where
  txns   : List Txn
  quar   : List (Nat × Nat)
  gateSn : BitVec 8
  gateNe : BitVec 4
  gateNr : BitVec 2
  last   : Sparse Nat
  deriving DecidableEq, Repr

/-- What leaves on an NE port (Table 10-6). -/
inductive NeOut where
  | beat (port : Nat) (ofs : BitVec 26) (data : BitVec 512) (last poison : Bool)
  | abort (port : Nat)
  deriving DecidableEq, Repr

/-- A ring transfer (R250); `until_` is set once it has acquired its resources: it holds them before that tick, and its beats
have gone to the receiving fold. -/
structure Transfer where
  did    : Nat
  index  : Nat
  src    : Nat
  dst    : Nat
  beats  : Nat
  asked  : Nat
  step   : Nat
  until_ : Option Nat
  deriving DecidableEq, Repr

/-! ### The tally book -/

/-- STATE of PLT_TALLY_STAT (Table 12-11). -/
inductive TallyState where
  | unmounted | verifying | mounted | cut | failed
  deriving DecidableEq, Repr

/-- Why admission is stopped (R317, R319, R335). -/
inductive StopWhy where
  | no | warn | cut | fatal
  deriving DecidableEq, Repr

/-- The open epoch (Table 12-3). -/
structure Epoch where
  seq        : Nat
  stepLo     : Nat
  opened     : Nat
  epochS     : Nat
  prev       : BitVec 256
  mountedF   : Bool
  lost       : Bool
  brk        : Bool
  therm3     : Bool
  pause      : Bool
  unverified : Bool
  warnrec    : Bool
  faults     : List Nat
  bounds     : Nat
  snaps      : Nat
  nmv        : Nat
  leaves     : List (BitVec 256)
  breakSeq   : BitVec 64
  deriving DecidableEq, Repr

/-- An epoch record whose body is written and whose marker is not (R316); `slot` says that a counter slot follows; `closed` is the
epoch as it closed, which a warning in the tick of the close cuts instead (R326). -/
structure Commit where
  seq    : Nat
  marker : List Byte
  tlen   : Nat
  slot   : Bool
  closed : Epoch
  deriving DecidableEq, Repr

/-- An export in progress (R323). -/
structure Export where
  addr   : Nat
  first  : Nat
  region : Bool
  count  : Nat
  deriving DecidableEq, Repr

/-- The MRAM (R300): bytes of the two arrays and the 32-byte words that hold an uncorrectable error. -/
structure Mram where
  ring     : Sparse Byte
  seals    : Sparse Byte
  badRing  : List Nat
  badSeals : List Nat
  deriving DecidableEq, Repr

/-- The tally book's powered state: PLT_TALLY_STAT's fields, the ledger key register, counter slot generation, STEP
reservation in effect and being written, the open epoch, the commit under way, seal totals, records waiting, export. -/
structure Tally where
  st        : TallyState
  brk       : Bool
  sealFull  : Bool
  lost      : Bool
  key       : Option (BitVec 256)
  keyLate   : Bool
  gen       : Nat
  mount     : BitVec 32
  slotDone  : Bool
  resv      : Nat
  refresh   : Option Nat
  stop      : StopWhy
  epoch     : Option Epoch
  commit    : Option Commit
  seq       : Nat
  sealTicks : Nat
  sealFirst : Nat
  waiting   : List RunRec
  export_   : Option Export
  deriving DecidableEq, Repr

/-! ### The whole machine -/

/-- The block. -/
structure State where
  pending  : List Instr
  fuses    : Fuses
  pins     : Pins
  tick     : Nat
  boot     : Boot
  ready    : Ready
  cfg      : Cfg
  fatalReg : FatalReg
  fmap     : FoldMap
  nudges   : List Nat
  pause    : Pause
  twins    : List Twin
  period   : Period
  gate     : Gate
  therm    : Therm
  cost     : Cost
  cnt      : List (BitVec 64)
  intPend  : BitVec 4
  host     : Sparse Byte
  poison   : Sparse Bool
  past     : Sparse Byte
  raddle   : Sparse Bool
  ecc      : Sparse WordErr
  handed   : List (Nat × Nat)
  sram     : Sparse Byte
  folds    : Sparse Fold
  pens     : Sparse Pen
  stile    : Stile
  descs    : List Desc
  hor      : Horizons
  plans    : Sparse Plan
  rings    : Sparse CplRing
  evt      : EvtRing
  msgs     : List (Nat × Bool)
  logs     : LogRings
  own      : List Own
  ports    : Ports
  snOut    : List SnReq
  neOut    : List NeOut
  waiting  : List Waiter
  xfers    : List Transfer
  mram     : Mram
  tally    : Tally
  -- the model's own fields
  freeCtr  : Nat
  debugOut : BitVec 32
  nextDid  : Nat
  nextKey  : Nat
  deriving DecidableEq, Repr

/-- Why a command stops the model. -/
inductive Fault where
  /-- A command names a part the silicon does not carry: a physical fold of 68 or above, or a patrol wave past the last
  physical fold. Raised by firstPatrolWave, scrubSlot, scrubReread, patrolSlice, foldRetire and foldGateOff. Safe: the
  hardware has no such step. -/
  | noSuchPart
  deriving DecidableEq, Repr

/-- Why the model refuses a command. -/
inductive Refusal where
  /-- Raised by an arm of exec whose command has no meaning yet. Safe. -/
  | notModelled (mnemonic : String)
  deriving DecidableEq, Repr

/-! ### Reset -/

/-- The fuses of Example 15-1 (assumption log 5). -/
def Fuses.example15 : Fuses :=
  { grade := .p64, phys := List.range 64, spares := [64, 65, 66, 67] }

/-- The state of each physical fold that the fuses give (R354). -/
def Fuses.states (f : Fuses) : List PhysState :=
  (List.range 68).map (fun p =>
    if p ∈ f.phys then .backs else if p ∈ f.spares then .spare else .fusedOff)

/-- The fold map that the fuses give (R354). -/
def Fuses.map (f : Fuses) : FoldMap :=
  { phys := (List.range 64).map (fun l => f.phys[l]?), state := f.states, absent := [], subst := [] }

/-- Set-up registers at reset (chapters 11 to 14). -/
def Cfg.reset : Cfg :=
  { enable := false, remap := false, nudgeEn := false, ctxBase := 0, pentab := 0, doorbell := 0, cplring := 0,
    evtBase := 8, runlogBase := 10, radmapBase := 10, evtCons := 0, runlogCons := 0, radmapCons := 0, smmuSid := 0,
    rshare := 0, period := 0x005F5E10, bellEn := false, forceCap := false, dl := List.replicate 7 0, snTmo := 0x1000,
    neTmo := 0x400, nrTmo := 0x400, xlatWait := 0x008F0D18, msgAddr := List.replicate 4 0,
    msgData := List.replicate 4 0, intMask := 0, epochS := 0x03C, expAddr := 0, expCmd := 0 }

/-- The format record that Grenes writes at manufacturing test (R301), bytes 0 to 59; its CRC-32 and counter slot 0
(R314) follow. Assumption log 7. -/
def Mram.factory : Mram :=
  { ring := [],
    seals :=
      [ -- counter slot 0: GEN 0, SEQ_OPEN 1, RESV 0, MOUNT 0, MAGIC 0x7A11_C0DE, CRC
        (0x100008, 0x01), (0x100038, 0xDE), (0x100039, 0xC0), (0x10003A, 0x11), (0x10003B, 0x7A), (0x10003C, 0xDD), (0x10003D, 0x96), (0x10003E, 0xF3), (0x10003F, 0xD9),
        -- format record: MAGIC 0x7A11_0F0A, version 1, CRC
        (0x101000, 0x0A), (0x101001, 0x0F), (0x101002, 0x11), (0x101003, 0x7A), (0x101004, 0x01), (0x10103C, 0xAA), (0x10103D, 0xE4), (0x10103E, 0x98), (0x10103F, 0x29) ],
    badRing := [], badSeals := [] }

/-- The tally book before a mount. -/
def Tally.reset : Tally :=
  { st := .unmounted, brk := false, sealFull := false, lost := false, key := none, keyLate := false, gen := 0,
    mount := 0, slotDone := false, resv := 0, refresh := none, stop := .no, epoch := none, commit := none, seq := 0,
    sealTicks := 0, sealFirst := 1, waiting := [], export_ := none }

/-- The machine right after the release of block reset (R372) with the fuses `f`. Host memory and MRAM are not the
reset's to set; `State.reset` gives them their first contents. -/
def State.released (f : Fuses) : State :=
  { pending := [], fuses := f,
    pins := { rstLow := false, testMode := false, fatalN := true, gateArm := false, warn := false },
    tick := 0,
    boot := { pastureDone := false, planDone := false, sramDone := false, rot := .none, build := 0,
              shepherdTick := none, calibrated := false, passed := [], debugOpen := false },
    ready := { fold := 0, stile := false, plan := false, tally := false, shepherd := false, sn := 0, ne := 0, nr := 0 },
    cfg := Cfg.reset, fatalReg := { cause := 0, phys := 0, valid := false }, fmap := f.map, nudges := [],
    pause := { req := false, paused := false, busy := false, base := 0, retry := [] },
    twins := List.replicate 8 { pri := 0, shd := 0, en := false, active := false, fault := false, taken := false, prep := false },
    period := { num := 0, tb := 0, next := none, inForce := 0x005F5E10, pending := [], snapped := false,
                locked := false, freeRun := false, misses := 0, ignored := 0 },
    gate := { high := none, lastBell := none, release := none },
    therm := { lvl := 0, before := 0, from_ := 0, l3 := false, l3count := 0 },
    cost := { rd := 0x30, wr := 0x20, port := 0x8 }, cnt := List.replicate 17 0, intPend := 0,
    host := [], poison := [], past := [], raddle := [], ecc := [], handed := [], sram := [], folds := [], pens := [],
    stile := { step := 0, stepOn := 0, queue := [], bursts := [], doorbells := [], dbFault := [], sweepAt := none,
               sweepLong := false },
    descs := [], hor := { fold := [], port := [], link := [] }, plans := [], rings := [],
    evt := { w := 0, issue := 0, queue := [], dropped := 0, faulted := false }, msgs := [],
    logs := { runW := 0, runFull := false, runFault := false, radW := 0 }, own := [],
    ports := { txns := [], quar := [], gateSn := 0, gateNe := 0, gateNr := 0, last := [] },
    snOut := [], neOut := [], waiting := [], xfers := [],
    mram := { ring := [], seals := [], badRing := [], badSeals := [] }, tally := Tally.reset,
    freeCtr := 0, debugOut := 0, nextDid := 0, nextKey := 0 }

/-- The machine right after reset: P64 with the fuses of Example 15-1, the MRAM as it leaves manufacturing test, host
memory with nothing listed, no command waiting. -/
def State.reset : State := { State.released Fuses.example15 with mram := Mram.factory }

end Sys2Proof.Machine
end

