-- ==== Sys2Proof/Machine/Flags.lean ====
section
/-!
DEFINITION. The flags a result carries: the conversion rules with their SAT flag (Table 06-5), requantisation with its
saturation (R133, R134), and how a descriptor's status is decided (R338).
-/
namespace Sys2Proof.Machine

/-- Clamp an integer to a type; the Bool says that the value changed. -/
def satInt (t : ETy) (v : Int) : Nat × Bool :=
  let c := clampI v t.range.1 t.range.2
  (toBits c t.width, decide (c ≠ v))

/-- One element converted by Table 06-5: the bits, and whether SAT is set. -/
def convertElem (src dst : ETy) (x : Nat) : Nat × Bool :=
  if src = dst then (x, false)
  else
    match src.fmt, dst.fmt with
    | none, none => satInt dst (src.toInt x)
    | none, some f => f.round (intParts (src.toInt x)).1 (intParts (src.toInt x)).2 0
    | some f, some g => g.encode (f.decode x)
    | some f, none =>
      match f.decode x with
      | .nan => (0, true)
      | .inf neg => (toBits (if neg then dst.range.1 else dst.range.2) dst.width, true)
      | .fin neg m e => satInt dst (rneInt neg m e)

/-- What requantising one output gives: the output value before its bits, the magnitude that RMAX tracks, saturation. -/
structure Requant where
  y   : Int
  mag : Nat
  sat : Bool
  deriving DecidableEq, Repr

/-- INT requantisation (R133): accumulator `a`, offset, mantissa, shift `sh`, zero point, the dither word when RND = 1. -/
def requantInt (t : ETy) (a ofs : Int) (mo sh : Nat) (zo : Int) (dither : Option (BitVec 64)) : Requant :=
  let p := (a - ofs) * (mo : Int)
  let v : Int :=
    if sh = 0 then p
    else match dither with
      | none => rneDiv p sh
      | some d => (p + ((d >>> (64 - sh)).toNat : Int)) / ((2 ^ sh : Nat) : Int)
  let y := clampI (v + zo) t.range.1 t.range.2
  { y := y, mag := v.natAbs, sat := decide (y ≠ v + zo) }

/-- FP requantisation (R134): accumulator, offset and OSCALE are FP32 bits, `ex` the exponent E. -/
def requantFp (t : ETy) (a ofs oscale : Nat) (ex : Int) (zo : Int) (dither : Option (BitVec 64)) : Requant :=
  let v := f32mul (f32add a (f32neg ofs)) oscale
  match fmt32.decode v with
  | .nan => { y := zo, mag := 65535, sat := true }
  | .inf neg => { y := if neg then t.range.1 else t.range.2, mag := 65535, sat := true }
  | .fin neg m e =>
    let e1 := e - ex
    let u : Int :=
      match dither with
      | none => rneInt neg m e1
      | some d =>
        let e0 : Int := if e1 ≤ -24 then e1 else -24
        let x := dyadic neg m e1 e0 + dyadic false (d >>> 40).toNat (-24) e0
        x / ((2 ^ (-e0).toNat : Nat) : Int)
    let y := clampI (u + zo) t.range.1 t.range.2
    { y := y, mag := u.natAbs, sat := decide (y ≠ u + zo) }

/-- Code of a status (Table 08-8). -/
def Status.code : Status → Nat
  | .done => 0x00 | .doneNoted => 0x01 | .raddled => 0x02
  | .refusedBudget => 0x10 | .refusedShape => 0x11 | .refusedRange => 0x12 | .refusedAlias => 0x13
  | .refusedEncoding => 0x14 | .refusedGrade => 0x15
  | .xlatFault => 0x20 | .foldLost => 0x21 | .twinMismatch => 0x22 | .portTimeout => 0x23
  | .cancelled => 0x30 | .pvBrand => 0x3F

/-- Status of a descriptor that ran to its end (R338, steps 2 to 4). -/
def endStatus (raddles : Nat) (noted : Bool) : Status :=
  if raddles > 0 then .raddled else if noted then .doneNoted else .done

/-- The statuses whose record carries a digest (R283). -/
def Status.hasDigest : Status → Bool
  | .done | .doneNoted | .raddled => true
  | _ => false

end Sys2Proof.Machine
end

