-- ==== Sys2Proof/Machine/Hash.lean ====
section
/-!
DEFINITION. The digests and generators of the spec: PD64 (R282), DG64 (R135), SHA-256 (FIPS 180-4), HMAC-SHA-256
(FIPS 198-1), CRC-32 (R304) and the Merkle tree hash (R309).
-/
namespace Sys2Proof.Machine

/-! ### PD64 -/

/-- Multiply by x in GF(2^64), modulo x^64 + x^4 + x^3 + x + 1. -/
def gfX (a : Nat) : Nat :=
  let y := a <<< 1
  if y.testBit 64 then (y ^^^ 2 ^ 64) ^^^ 0x1B else y

/-- Carry-less product, reduced: bits `n − 1` down to 0 of `b`. -/
def gfMulFrom (a b : Nat) : Nat → Nat → Nat
  | 0, acc => acc
  | n + 1, acc => gfMulFrom a b n (gfX acc ^^^ (if b.testBit n then a else 0))

/-- Product in GF(2^64). -/
def gfMul (a b : Nat) : Nat := gfMulFrom a b 64 0

/-- The fixed point H of PD64 (R282). -/
def pdH : Nat := 0x2F6BD45A19C3E875

/-- The partial `d` of a byte sequence. -/
def pdPart : List Byte → Nat → Nat
  | [], d => d
  | b :: r, d => pdPart r (gfMul d pdH ^^^ b.toNat)

/-- PD64 of a byte sequence (R282). -/
def pd64 (l : List Byte) : BitVec 64 := BitVec.ofNat 64 (gfMul (pdPart l 0) pdH ^^^ l.length)

/-- PD64 of a byte sequence whose partial is altered by `x`: the partials of disjoint units add (R284). -/
def pd64With (x : Nat) (l : List Byte) : BitVec 64 := BitVec.ofNat 64 (gfMul (pdPart l 0 ^^^ x) pdH ^^^ l.length)

/-- H to the power `n`. -/
def pdPow : Nat → Nat
  | 0 => 1
  | n + 1 => gfMul (pdPow n) pdH

/-! ### DG64 -/

/-- One round of DG64. -/
def dgRound (x : BitVec 64) : BitVec 64 :=
  let a := x ^^^ (x >>> 31)
  let b := a * 0x6A09E667F3BCC909#64
  b ^^^ (b >>> 29)

/-- DG64: the dither word of one output element (R135). -/
def dg64 (seed step idx : BitVec 64) : BitVec 64 :=
  let x := (seed ^^^ (step * 0x9E3779B97F4A7C15#64)) + idx * 0xB7E151628AED2A6B#64
  dgRound (dgRound (dgRound x))

/-! ### SHA-256 -/

/-- The greatest number below 2^`n` whose `k`-th power is at most `x`, bit by bit from the top. -/
def rootFloor (k x : Nat) : Nat → Nat → Nat
  | 0, r => r
  | n + 1, r => rootFloor k x n (if (r + 2 ^ n) ^ k ≤ x then r + 2 ^ n else r)

/-- The first 32 bits of the fractional part of the `k`-th root of `p`: what FIPS 180-4 takes its constants from. -/
def rootFrac (k p : Nat) : BitVec 32 := BitVec.ofNat 32 (rootFloor k (p <<< (32 * k)) 36 0)

/-- The primes below `n`. -/
def primesBelow (n : Nat) : List Nat :=
  (List.range n).filter (fun p => decide (2 ≤ p) && (List.range p).all (fun q => decide (q < 2) || decide (p % q ≠ 0)))

/-- The round constants: cube roots of the first 64 primes. -/
def shaK : List (BitVec 32) := (primesBelow 312).map (rootFrac 3)

/-- Word `i` of a register of 32-bit words. -/
def wordOf {n : Nat} (x : BitVec n) (i : Nat) : BitVec 32 := x.extractLsb' (32 * i) 32

/-- A register of words, the first in the lowest place. -/
def ofWords (n : Nat) (l : List (BitVec 32)) : BitVec n :=
  l.foldr (fun w acc => (acc <<< 32) ||| w.setWidth n) 0

/-- The initial hash value: square roots of the first eight primes, word a lowest. -/
def shaInit : BitVec 256 := ofWords 256 ((primesBelow 20).map (rootFrac 2))

/-- Exclusive or of three rotations. -/
def rot3 (x : BitVec 32) (i j k : Nat) : BitVec 32 := (x.rotateRight i ^^^ x.rotateRight j) ^^^ x.rotateRight k

/-- The word that enters the schedule behind a window of sixteen. -/
def shaNext (m : BitVec 512) : BitVec 32 :=
  wordOf m 0 + wordOf m 9 +
    ((wordOf m 1).rotateRight 7 ^^^ (wordOf m 1).rotateRight 18 ^^^ (wordOf m 1 >>> 3)) +
    ((wordOf m 14).rotateRight 17 ^^^ (wordOf m 14).rotateRight 19 ^^^ (wordOf m 14 >>> 10))

/-- One round: the words move up one place, the lowest and the fifth take the round's sums; the window of the schedule moves
down one word. -/
def shaRound (x : BitVec 256 × BitVec 512) (k : BitVec 32) : BitVec 256 × BitVec 512 :=
  let v := wordOf x.1
  let pick := v 6 ^^^ (v 4 &&& (v 5 ^^^ v 6))
  let most := (v 0 &&& v 1) ||| (v 2 &&& (v 0 ||| v 1))
  let up := v 7 + rot3 (v 4) 6 11 25 + pick + (k + wordOf x.2 0)
  (ofWords 256 [up + rot3 (v 0) 2 13 22 + most, v 0, v 1, v 2, v 3 + up, v 4, v 5, v 6],
   (x.2 >>> 32) ||| ((shaNext x.2).setWidth 512 <<< 480))

/-- The sixteen big-endian words of a block as a register. -/
def shaWindow (block : List Byte) : BitVec 512 :=
  ofWords 512 ((List.range 16).map (fun i => BitVec.ofNat 32 (beNat ((block.drop (4 * i)).take 4))))

/-- Compress one block into a hash value. -/
def shaBlock (h : BitVec 256) (block : List Byte) : BitVec 256 :=
  let r := (shaK.foldl shaRound (h, shaWindow block)).1
  ofWords 256 ((List.range 8).map (fun i => wordOf h i + wordOf r i))

/-- Compress `n` blocks of 64 bytes. -/
def shaBlocks : Nat → List Byte → BitVec 256 → BitVec 256
  | 0, _, h => h
  | n + 1, l, h => shaBlocks n (l.drop 64) (shaBlock h (l.take 64))

/-- The message with its end mark, zeros and length in bits. -/
def shaPad (l : List Byte) : List Byte :=
  l ++ 0x80#8 :: List.replicate ((119 - l.length % 64) % 64) 0#8 ++ beBytes (8 * l.length) 8

/-- SHA-256 as 32 bytes. -/
def sha256 (l : List Byte) : List Byte :=
  let p := shaPad l
  let h := shaBlocks (p.length / 64) p shaInit
  (List.range 8).flatMap (fun i => beBytes (wordOf h i).toNat 4)

/-- A digest held as a number whose little-endian bytes are the digest's bytes in order. -/
def sha256n (l : List Byte) : BitVec 256 := BitVec.ofNat 256 (leNat (sha256 l))

/-- HMAC-SHA-256 under a 32-byte key (R311). -/
def hmac (key : BitVec 256) (msg : List Byte) : List Byte :=
  let k := leBytes key.toNat 32 ++ List.replicate 32 0#8
  sha256 (k.map (· ^^^ 0x5C#8) ++ sha256 (k.map (· ^^^ 0x36#8) ++ msg))

/-! ### CRC-32 -/

/-- Eight shifts of the reflected IEEE 802.3 polynomial. -/
def crcShift : Nat → Nat → Nat
  | 0, c => c
  | n + 1, c => crcShift n (if c.testBit 0 then (c >>> 1) ^^^ 0xEDB88320 else c >>> 1)

/-- CRC-32 of bytes, before the final complement. -/
def crcFrom : List Byte → Nat → Nat
  | [], c => c
  | b :: r, c => crcFrom r (crcShift 8 (c ^^^ b.toNat))

/-- CRC-32, initial value 0xFFFF_FFFF and final complement (R304). -/
def crc32 (l : List Byte) : Nat := crcFrom l 0xFFFFFFFF ^^^ 0xFFFFFFFF

/-! ### The tree of R309 -/

/-- Root of a list of leaves; `fuel` is at least the number of leaves. -/
def treeRootFuel : Nat → List (BitVec 256) → BitVec 256
  | 0, _ => sha256n []
  | fuel + 1, l =>
    match l with
    | [] => sha256n []
    | [d] => d
    | d :: e :: r =>
      let all := d :: e :: r
      let k := 2 ^ Nat.log2 (all.length - 1)
      sha256n (0x01#8 :: leBytes (treeRootFuel fuel (all.take k)).toNat 32
        ++ leBytes (treeRootFuel fuel (all.drop k)).toNat 32)

/-- The Merkle tree hash of R309. -/
def treeRoot (l : List (BitVec 256)) : BitVec 256 := treeRootFuel l.length l

end Sys2Proof.Machine
end

