-- ==== Sys2Proof/Machine/Descriptor.lean ====
section
/-!
DEFINITION. The encodings of chapter 07 and Table 02-1: legend, graticule, PROJ, DEP and AUX slots, read from the cells
as the stile snapshotted them.
-/
namespace Sys2Proof.Machine

/-! ### Legend (Table 07-2) -/

/-- The opcodes of Table 07-6. -/
inductive Opc where
  | copy | transpose | permute | shuffle | gather | scatter | convert | pack | unpack
  | tprod | cbload | requant | deliver | collect | vload | vstore | vmove | release
  | route | fence | gate | digest | tally | cancel | planload | seedset | nop
  deriving DecidableEq, Repr

/-- Opcode of a code (Table 07-6). -/
def Opc.ofCode : Nat → Option Opc
  | 0x01 => some .copy | 0x02 => some .transpose | 0x03 => some .permute | 0x04 => some .shuffle
  | 0x05 => some .gather | 0x06 => some .scatter | 0x07 => some .convert | 0x08 => some .pack
  | 0x09 => some .unpack | 0x10 => some .tprod | 0x11 => some .cbload | 0x12 => some .requant
  | 0x18 => some .deliver | 0x19 => some .collect | 0x20 => some .vload | 0x21 => some .vstore
  | 0x22 => some .vmove | 0x23 => some .release | 0x30 => some .route | 0x38 => some .fence
  | 0x39 => some .gate | 0x3A => some .digest | 0x3B => some .tally | 0x3C => some .cancel
  | 0x3D => some .planload | 0x3E => some .seedset | 0x3F => some .nop
  | _ => none

/-- Required and optional slots of an opcode as masks over Table 07-1 (Table 07-6). VMOVE's pair is checked apart. -/
def Opc.slots : Opc → Nat × Nat
  | .copy | .transpose | .convert => (0x09, 0x40)
  | .permute | .shuffle => (0x29, 0x40)
  | .gather | .scatter => (0x09, 0xC4)
  | .pack => (0x8B, 0x40)
  | .unpack => (0x89, 0x40)
  | .tprod => (0x9B, 0x40)
  | .cbload => (0x8A, 0x41)
  | .requant | .deliver | .collect => (0x89, 0x40)
  | .vload => (0x81, 0x40)
  | .vstore => (0x88, 0x40)
  | .vmove => (0x80, 0x49)
  | .release => (0x80, 0x40)
  | .route => (0x8C, 0x40)
  | .fence | .nop => (0x00, 0x40)
  | .gate | .seedset => (0x80, 0x40)
  | .digest | .planload => (0x81, 0x40)
  | .tally => (0x01, 0x40)
  | .cancel => (0x80, 0x00)

/-- Opcodes of the no-fold class (Table 07-7). -/
def Opc.noFold : Opc → Bool
  | .fence | .gate | .tally | .cancel | .planload | .seedset | .nop => true
  | _ => false

/-- Opcodes on which ORDERED is permitted (Table 07-3). -/
def Opc.orderable : Opc → Bool
  | .copy | .transpose | .permute | .convert | .pack | .unpack | .gather | .scatter | .vstore => true
  | _ => false

/-- Opcodes that the control pen accepts (R185); GATE's pen depends on ARM. -/
def Opc.control : Opc → Bool
  | .cancel | .planload | .seedset | .fence | .nop => true
  | _ => false

/-- Opcodes accepted on the control pen only (R185); GATE's pen depends on ARM. -/
def Opc.controlOnly : Opc → Bool
  | .cancel | .planload | .seedset => true
  | _ => false

/-- Opcodes that write no memory and are neither DIGEST nor TALLY, so that DIGEST = 0 (R196). -/
def Opc.noDigest : Opc → Bool
  | .fence | .nop | .gate | .cancel | .planload | .seedset | .release => true
  | _ => false

/-- The null tag (R172). -/
def nullTag : Nat := 0xFFFFFFFF

/-- The all-slot presence count of a legend (R169, R170). -/
def cellCount (legend : Nat) : Nat := 1 + popN (fld legend 16 8) 8

/-! ### Graticule (Table 02-1) -/

/-- A graticule as read. `ety` is the type code; `noalloc` the hint that its host accesses carry (R44). -/
structure Grat where
  space  : Bool
  addr   : Nat
  ety    : Nat
  rank   : Nat
  proj   : Nat
  suboff : Nat
  noalloc : Bool
  loc    : Bool
  size   : List Nat
  stride : List Int
  deriving DecidableEq, Repr

/-- The graticule of a cell. Sizes and strides are those of the used dimensions. -/
def Grat.ofCell (c : Nat) : Grat :=
  let r := fld c 68 3
  { space := bit c 63, addr := fld c 0 63, ety := fld c 64 4, rank := r, proj := fld c 72 8, suboff := fld c 80 2,
    noalloc := bit c 96, loc := bit c 97, size := (List.range r).map (fun d => fld c (128 + 32 * d) 32),
    stride := (List.range r).map (fun d => sext (fld c (320 + 32 * d) 32) 32) }

/-- Element type; U8 for the undefined code, which no admitted descriptor carries. -/
def Grat.ty (g : Grat) : ETy := (ETy.ofCode g.ety).getD .u8

/-- Element width in bits. -/
def Grat.w (g : Grat) : Nat := g.ty.width

/-- Product of sizes. -/
def prodN : List Nat → Nat
  | [] => 1
  | a :: r => a * prodN r

/-- Element count. -/
def Grat.count (g : Grat) : Nat := prodN g.size

/-- Size of a dimension, 1 where it is not used. -/
def Grat.sz (g : Grat) (d : Nat) : Nat := (g.size[d]?).getD 1

/-- Stride of a dimension, 0 where it is not used. -/
def Grat.st (g : Grat) (d : Nat) : Int := (g.stride[d]?).getD 0

/-- LIN (Table 03-1). -/
def Grat.lin (g : Grat) : Bool := g.proj = 0

/-! ### Whole descriptor -/

/-- A descriptor as its cells encode it. -/
structure Parsed where
  leg      : Nat
  opc      : Option Opc
  v        : Bool
  pres     : Nat
  tag      : Nat
  brand    : Nat
  dclass   : Nat
  fmode    : Bool
  strict   : Bool
  ordered  : Bool
  pinned   : Bool
  assured  : Bool
  spill    : Bool
  relmask  : Nat
  affinity : Nat
  src0     : Option Grat
  src1     : Option Grat
  idx      : Option Grat
  dst      : Option Grat
  tbl      : Option Grat
  proj     : Option Nat
  dep      : Option Nat
  auxCell  : Option Nat
  deriving DecidableEq, Repr

/-- The cell of slot `i` where it is present (R169). -/
def slotCell (cells : List Cell) (i : Nat) : Option Nat :=
  let pres := fld ((cells[0]?).getD 0).toNat 16 8
  if bit pres i then ((cells[1 + popN pres i]?).map BitVec.toNat) else none

/-- Parse a descriptor. -/
def parse (cells : List Cell) : Parsed :=
  let l := ((cells[0]?).getD 0).toNat
  let g := fun i => (slotCell cells i).map Grat.ofCell
  { leg := l, opc := Opc.ofCode (fld l 0 8), v := bit l 8, pres := fld l 16 8, tag := fld l 32 32,
    brand := fld l 64 16, dclass := fld l 80 3, fmode := bit l 88, strict := bit l 96, ordered := bit l 97,
    pinned := bit l 98, assured := bit l 99, spill := bit l 100, relmask := fld l 128 9, affinity := fld l 160 64,
    src0 := g 0, src1 := g 1, idx := g 2, dst := g 3, tbl := g 4, proj := slotCell cells 5, dep := slotCell cells 6,
    auxCell := slotCell cells 7 }

/-- The AUX cell, zero when absent. -/
def Parsed.aux (p : Parsed) : Nat := p.auxCell.getD 0

/-- The PROJ cell, zero when absent. -/
def Parsed.pj (p : Parsed) : Nat := p.proj.getD 0

/-- The descriptor's parse. -/
def Desc.p (d : Desc) : Parsed := parse d.cells

/-- Whether the descriptor carries the opcode. -/
def Desc.isOpc (d : Desc) (o : Opc) : Bool := d.p.opc = some o

/-! ### Dependency tags (Table 07-5) -/

/-- Wait list: the non-null entries, each once (R179). -/
def Parsed.waits (p : Parsed) : List Nat :=
  match p.dep with
  | none => []
  | some c => dedup (((List.range 8).map (fun i => fld c (32 * i) 32)).filter (fun t => t ≠ nullTag))

/-- REL entry `i`, null when DEP is absent. -/
def Parsed.rel (p : Parsed) (i : Nat) : Nat :=
  match p.dep with
  | none => nullTag
  | some c => fld c (256 + 32 * i) 32

/-- Release set (R179). -/
def Parsed.releases (p : Parsed) : List Nat :=
  dedup ((if bit p.relmask 0 then [p.tag] else []) ++
    ((List.range 8).filter (fun i => bit p.relmask (1 + i))).map p.rel)

/-- Tracked descriptors (R180). -/
def Parsed.tracked (p : Parsed) : Bool := !(p.waits.isEmpty && p.releases.isEmpty)

/-! ### AUX layouts -/

/-- Output parameters of TPROD and REQUANT (Tables 05-2 and 07-8). -/
structure TParams where
  nrows   : Nat
  oscale  : Nat
  zo      : Int
  zx      : Nat
  fp      : Bool
  sheaves : Bool
  relaxed : Bool
  rotate  : Bool
  rnd     : Bool
  adapt   : Bool
  satLim  : Nat
  floor   : Int
  ceil    : Int
  stats   : Nat
  work    : Nat
  worksz  : Nat
  deriving DecidableEq, Repr

/-- Read Table 07-8. -/
def TParams.ofAux (a : Nat) : TParams :=
  { nrows := fld a 0 32, oscale := fld a 32 32, zo := sext (fld a 64 16) 16, zx := fld a 80 8, fp := bit a 88,
    sheaves := bit a 89, relaxed := bit a 90, rotate := bit a 91, rnd := bit a 92, adapt := bit a 93,
    satLim := fld a 96 32, floor := sext (fld a 128 8) 8, ceil := sext (fld a 136 8) 8, stats := fld a 144 20,
    work := fld a 164 20, worksz := fld a 184 20 }

/-- AUX of the vector file opcodes (Table 07-10). -/
structure VParams where
  vr    : Nat
  nreg  : Nat
  rtype : Nat
  trans : Bool
  rel   : Bool
  dfold : Nat
  vrd   : Nat
  rmask : Nat
  deriving DecidableEq, Repr

/-- Read Table 07-10. -/
def VParams.ofAux (a : Nat) : VParams :=
  { vr := fld a 0 5, nreg := fld a 5 6, rtype := fld a 11 4, trans := bit a 15, rel := bit a 16, dfold := fld a 17 6,
    vrd := fld a 23 5, rmask := fld a 32 32 }

/-- AUX of CBLOAD (Table 07-9). -/
structure CbParams where
  nrows   : Nat
  k       : Nat
  kf      : Nat
  code    : Nat
  fp      : Bool
  sheaves : Bool
  deriving DecidableEq, Repr

/-- Read Table 07-9. -/
def CbParams.ofAux (a : Nat) : CbParams :=
  { nrows := fld a 0 32, k := fld a 32 32, kf := fld a 64 32, code := fld a 96 2, fp := bit a 98,
    sheaves := bit a 99 }

/-- Window origin `o_d` (R191). -/
def origin (aux d : Nat) : Int := sext (fld aux (32 * d) 32) 32

/-- Axis map entry A[d] (Table 07-4). -/
def axis (pj d : Nat) : Nat := fld pj (16 + 3 * d) 3

/-- β[j] of class BPC (Table 07-4). -/
def beta (pj j : Nat) : Nat := fld pj (96 + 4 * j) 4

/-- A GATE that arms (Table 07-12). -/
def Parsed.arms (p : Parsed) : Bool := bit p.aux 0

end Sys2Proof.Machine
end

