-- ==== Sys2Proof/Machine/Sparse.lean ====
section
/-!
DEFINITION. Sparse stores: the one canonical form of every memory and table of the state. Keys rise strictly and no
listed value equals the default `d`, which is what an unlisted key reads as.
-/
namespace Sys2Proof.Machine

/-- The value at key `a`; `d` where none is listed. -/
def sget {α : Type} (d : α) : Sparse α → Nat → α
  | [], _ => d
  | (k, v) :: m, a => if a = k then v else sget d m a

/-- Remove key `a`. -/
def serase {α : Type} : Sparse α → Nat → Sparse α
  | [], _ => []
  | (k, v) :: m, a => if a = k then serase m a else (k, v) :: serase m a

/-- List `v` at key `a`, in its place in the rising order. -/
def sinsert {α : Type} : Sparse α → Nat → α → Sparse α
  | [], a, v => [(a, v)]
  | (k, w) :: m, a, v =>
    if a < k then (a, v) :: (k, w) :: m
    else if a = k then (a, v) :: m
    else (k, w) :: sinsert m a v

/-- Write `v` at key `a`; writing the default removes the entry. -/
def sset {α : Type} [DecidableEq α] (d : α) (m : Sparse α) (a : Nat) (v : α) : Sparse α :=
  if v = d then serase m a else sinsert m a v

/-- The canonical form, with every key at or above `lo`. -/
def swfFrom {α : Type} [DecidableEq α] (d : α) : Nat → Sparse α → Bool
  | _, [] => true
  | lo, (k, v) :: m => decide (lo ≤ k) && !decide (v = d) && swfFrom d (k + 1) m

/-- The canonical form: keys strictly rising, no entry equal to the default. -/
def swf {α : Type} [DecidableEq α] (d : α) (m : Sparse α) : Bool := swfFrom d 0 m

/-- Write a list of (key, value) pairs in order. -/
def ssetAll {α : Type} [DecidableEq α] (d : α) : Sparse α → List (Nat × α) → Sparse α
  | m, [] => m
  | m, (a, v) :: r => ssetAll d (sset d m a v) r

/-- Keep the entries whose key passes `p`. -/
def sfilter {α : Type} (p : Nat → Bool) : Sparse α → Sparse α
  | [] => []
  | (k, v) :: m => if p k then (k, v) :: sfilter p m else sfilter p m

/-- Change every listed value by `f`, dropping those that become the default. -/
def smap {α : Type} [DecidableEq α] (d : α) (f : α → α) : Sparse α → Sparse α
  | [] => []
  | (k, v) :: m => sset d (smap d f m) k (f v)

/-- Copy the values of the `n` keys from `a` up to the `n` keys from `b` up. -/
def scopy {α : Type} [DecidableEq α] (d : α) (m : Sparse α) (a b n : Nat) : Sparse α :=
  ssetAll d (sfilter (fun k => decide (k < b ∨ b + n ≤ k)) m)
    ((m.filter (fun p => decide (a ≤ p.1 ∧ p.1 < a + n))).map (fun p => (b + (p.1 - a), p.2))).reverse

/-- Give the `n` keys from `b` up one value. -/
def sfill {α : Type} [DecidableEq α] (d : α) (m : Sparse α) (b n : Nat) (v : α) : Sparse α :=
  m.filter (fun x => decide (x.1 < b)) ++ (if v = d then [] else (List.range n).map (fun i => (b + i, v))) ++
    m.filter (fun x => decide (b + n ≤ x.1))

end Sys2Proof.Machine
end

