-- ==== Sys2Proof/Machine/Operands.lean ====
section
/-!
DEFINITION. Operand forms: where the elements of a graticule lie (chapters 02 and 03), the fold map, and the reads and
writes of one byte or element with its raddle (R329, R330, R336, R387).
-/
namespace Sys2Proof.Machine

/-! ### Geometry -/

/-- Extents and sizes of a projection's block (Table 03-1). -/
structure Block where
  b0    : Nat
  b1    : Nat
  bytes : Nat
  elems : Nat
  deriving DecidableEq, Repr

/-- The block of a projected graticule; the whole-element block of LIN has no use. -/
def Grat.block (g : Grat) : Block :=
  match g.proj with
  | 0x01 => { b0 := 64, b1 := 16, bytes := 1024, elems := 1024 }
  | 0x02 => { b0 := 16, b1 := 64, bytes := 1024, elems := 1024 }
  | 0x03 => { b0 := 32, b1 := 64, bytes := 1024, elems := 2048 }
  | 0x04 => { b0 := 64 / g.ty.bytes, b1 := 64, bytes := 4096, elems := 4096 / g.ty.bytes }
  | _ => { b0 := 1, b1 := 1, bytes := g.ty.bytes, elems := 1 }

/-- Byte map of Table 03-2. -/
def blockByte (proj e r0 r1 : Nat) : Nat :=
  match proj with
  | 0x01 => 64 * (r0 / 4) + 4 * r1 + r0 % 4
  | 0x02 => 32 * (r1 / 2) + 2 * r0 + r1 % 2
  | 0x03 => 16 * r1 + r0 / 2
  | _ => 64 * e * r0 + e * r1

/-- Bit position of Table 03-2. -/
def blockPos (proj r0 : Nat) : Nat := if proj = 0x03 then 4 * (r0 % 2) else 0

/-- Multi-index of a logical index (R34). -/
def decomp : List Nat → Nat → List Nat
  | [], _ => []
  | n :: r, l => l % n :: decomp r (l / n)

/-- Logical index of a multi-index (R34). -/
def flat : List Nat → List Nat → Nat
  | n :: r, i :: t => i + n * flat r t
  | _, _ => 0

/-- Exact sum of index times stride. -/
def dotN : List Nat → List Int → Int
  | i :: t, s :: r => (i : Int) * s + dotN t r
  | _, _ => 0

/-- Byte of a block's origin (R65). -/
def Grat.org (g : Grat) (i : List Nat) : Int :=
  let b := g.block
  let q0 := ((i[0]?).getD 0) / b.b0
  let q1 := ((i[1]?).getD 0) / b.b1
  (g.addr : Int) + (dotN (q0 :: q1 :: i.drop 2) g.stride) * (g.w : Int) / 8

/-- Bit address of the element with multi-index `i` (R35, R65): eight times its byte plus its position. -/
def Grat.bitOf (g : Grat) (i : List Nat) : Int :=
  if g.lin then 8 * (g.addr : Int) + ((g.suboff * g.w : Nat) : Int) + dotN i g.stride * (g.w : Int)
  else
    let b := g.block
    let r0 := ((i[0]?).getD 0) % b.b0
    let r1 := ((i[1]?).getD 0) % b.b1
    8 * (g.org i + (blockByte g.proj g.ty.bytes r0 r1 : Nat)) + (blockPos g.proj r0 : Nat)

/-- Bit address of the element with logical index `l`. -/
def Grat.bitAt (g : Grat) (l : Nat) : Int := g.bitOf (decomp g.size l)

/-- Counts of blocks (projected) or indices (LIN) along each dimension (R67). -/
def Grat.blocks (g : Grat) : List Nat :=
  if g.lin then g.size
  else cdiv (g.sz 0) g.block.b0 :: cdiv (g.sz 1) g.block.b1 :: g.size.drop 2

/-- Least and greatest offset in elements (R45, R67). -/
def offRange : List Nat → List Int → Int × Int
  | n :: r, s :: t =>
    let span := s * ((n : Int) - 1)
    let o := offRange r t
    if span < 0 then (o.1 + span, o.2) else (o.1, o.2 + span)
  | _, _ => (0, 0)

/-- Footprint [lo, hi] in bytes (R45, R67). -/
def Grat.foot (g : Grat) : Int × Int :=
  let o := offRange g.blocks g.stride
  let w : Int := (g.w : Int)
  if g.lin then
    let base : Int := 8 * (g.addr : Int) + ((g.suboff * g.w : Nat) : Int)
    ((base + o.1 * w) / 8, (base + o.2 * w + w - 1) / 8)
  else ((g.addr : Int) + o.1 * w / 8, (g.addr : Int) + o.2 * w / 8 + (g.block.bytes : Int) - 1)

/-- Number of the block that holds element `l` of a projected graticule, in ascending block index (R96). -/
def Grat.blockNo (g : Grat) (l : Nat) : Nat :=
  let i := decomp g.size l
  flat g.blocks (((i[0]?).getD 0) / g.block.b0 :: ((i[1]?).getD 0) / g.block.b1 :: i.drop 2)

/-- Byte of the origin of block number `q` (R65). -/
def Grat.blockOrg (g : Grat) (q : Nat) : Int := (g.addr : Int) + dotN (decomp g.blocks q) g.stride * (g.w : Int) / 8

/-- Beat-aligned LIN graticule (R71); dimensions of size 1 are disregarded (R384). -/
def Grat.beatAligned (g : Grat) : Bool :=
  g.lin && (g.sz 0 = 1 || g.st 0 = 1) && g.suboff = 0 && g.addr % 64 = 0 && g.sz 0 * g.w % 512 = 0 &&
  ((List.range g.rank).all (fun d => d = 0 || g.sz d ≤ 1 || (g.st d * (g.w : Int)) % 512 = 0))

/-! ### Folds -/

/-- Logical folds of the grade (Table 00-2). -/
def State.n (s : State) : Nat := s.fuses.grade.folds

/-- Physical fold behind a logical fold. -/
def State.phys (s : State) (f : Nat) : Option Nat := ((s.fmap.phys[f]?).getD none)

/-- Logical folds that are enabled and present. -/
def State.present (s : State) (f : Nat) : Bool := f < s.n && (s.phys f).isSome

/-- Shadows of the pairs, active or not (R297, R299). -/
def State.shadow (s : State) (f : Nat) : Bool := s.twins.any (fun t => t.taken && (t.shd.toNat = f))

/-- The active pair of a primary, with its number. -/
def State.pairOf (s : State) (f : Nat) : Option (Nat × Twin) :=
  ((List.range 8).zip s.twins).find? (fun x => x.2.active && decide (x.2.pri.toNat = f))

/-- The next present fold at or above `f`, wrapping at n (R341). -/
def nextPresent (s : State) : Nat → Nat → Nat
  | 0, f => f
  | k + 1, f => if s.present f then f else nextPresent s k ((f + 1) % s.n)

/-- The fold that stands for an affinity bit (R177, R341, R354). -/
def State.standIn (s : State) (f : Nat) : Nat := nextPresent s 64 (f % s.n)

/-- Logical fold 0 or the fold that stands in for it (R186, R341). -/
def State.fold0 (s : State) : Nat := s.standIn 0

/-- Every enabled logical fold, less absent folds and shadows (R297, R341). -/
def State.enabled (s : State) : List Nat := (List.range s.n).filter (fun f => s.present f && !s.shadow f)

/-- The record of a physical fold. -/
def State.fold (s : State) (p : Nat) : Fold := sget Fold.blank s.folds p

/-- Change the record of a physical fold. -/
def State.setFold (s : State) (p : Nat) (v : Fold) : State := { s with folds := sset Fold.blank s.folds p v }

/-- Change the record of a physical fold by a function. -/
def State.modFold (s : State) (p : Nat) (f : Fold → Fold) : State := s.setFold p (f (s.fold p))

/-- The record of a logical fold. -/
def State.lfold (s : State) (f : Nat) : Fold := s.fold ((s.phys f).getD 68)

/-- Change the record of a logical fold; nothing where it is absent. -/
def State.modL (s : State) (f : Nat) (g : Fold → Fold) : State :=
  match s.phys f with
  | none => s
  | some p => s.modFold p g

/-- The logical fold of a physical one. -/
def State.logical (s : State) (p : Nat) : Option Nat :=
  (List.range 64).find? (fun f => s.phys f = some p)

/-! ### Reading -/

/-- Bytes of a slice. -/
def slice : Nat := 2 ^ 20

/-- Where a byte lies: host memory, a physical pasture byte, or nowhere. -/
inductive Loc where
  | host (a : Nat)
  | past (k : Nat)
  | none
  deriving DecidableEq, Repr

/-- Place of byte `a` of a graticule for executing fold `f` (R13, R43). -/
def State.loc (s : State) (g : Grat) (f : Nat) (a : Nat) : Loc :=
  if g.space then
    match s.phys (if g.loc then f else a / slice) with
    | none => .none
    | some p => .past (p * slice + a % slice)
  else .host a

/-- Error state of the pasture word that holds byte `k`. -/
def State.wordErr (s : State) (k : Nat) : WordErr := sget .none s.ecc (k / 8)

/-- A pasture byte with its raddle as a read delivers it (R330). -/
def State.pastByte (s : State) (k : Nat) : Byte × Bool :=
  (sget 0 s.past k, sget false s.raddle k || s.wordErr k = .hard)

/-- A host byte with the poison of its line (R267). -/
def State.hostByte (s : State) (a : Nat) : Byte × Bool := (sget 0 s.host a, sget false s.poison (a / 64))

/-- A host byte as descriptor `did` reads it on fold `f`: from a landed line where there is one (R239). -/
def State.droverByte (s : State) (f did a : Nat) : Byte × Bool :=
  match (s.lfold f).landing.find? (fun l => l.did = did && l.line = a / 64) with
  | some l => (l.data.extractLsb' (8 * (a % 64)) 8, l.rad)
  | none => s.hostByte a

/-- A byte of a graticule as descriptor `did` reads it on fold `f`. -/
def State.rdByte (s : State) (f did : Nat) (g : Grat) (a : Nat) : Byte × Bool :=
  match s.loc g f a with
  | .host x => s.droverByte f did x
  | .past k => s.pastByte k
  | .none => (0, true)

/-- An element with its raddle, one bit per byte. -/
structure Elt where
  val : Nat
  rad : Nat
  deriving DecidableEq, Repr

/-- Whether any byte of an element is raddled. -/
def Elt.bad (e : Elt) : Bool := e.rad ≠ 0

/-- Every byte raddled when `b`. -/
def radAll (w : Nat) (b : Bool) : Nat := if b then 2 ^ (Nat.max 1 (w / 8)) - 1 else 0

/-- The number whose bits are given, lowest first. -/
def bitsOf : List Bool → Nat
  | [] => 0
  | b :: r => b2n b + 2 * bitsOf r

/-- Read an element at a bit address. -/
def State.rdBits (s : State) (f did : Nat) (g : Grat) (b : Int) : Elt :=
  let a := b.toNat / 8
  if g.w < 8 then
    let x := s.rdByte f did g a
    { val := fld x.1.toNat (b.toNat % 8) g.w, rad := b2n x.2 }
  else
    let l := (List.range (g.w / 8)).map (fun i => s.rdByte f did g (a + i))
    { val := leNat (l.map Prod.fst), rad := bitsOf (l.map Prod.snd) }

/-- Read the element with logical index `l` of a graticule. -/
def State.rdElt (s : State) (f did : Nat) (g : Grat) (l : Nat) : Elt := s.rdBits f did g (g.bitAt l)

/-- The pasture words with an error among the bytes of an element: what the read corrects or hands on. -/
def State.errWords (s : State) (f : Nat) (g : Grat) (l : Nat) : List Nat :=
  if s.ecc.isEmpty || !g.space then []
  else
    let a := (g.bitAt l).toNat / 8
    (List.range (Nat.max 1 (g.w / 8))).filterMap (fun i =>
      match s.loc g f (a + i) with
      | .past k => if s.wordErr k = .none then none else some (k / 8)
      | _ => none)

/-! ### Writing -/

/-- The pieces of an element written at a bit address (R31). -/
def State.pieces (s : State) (f : Nat) (g : Grat) (b : Int) (e : Elt) : List Piece :=
  let a := b.toNat / 8
  let mk := fun (i mask val : Nat) (rad : Bool) =>
    match s.loc g f (a + i) with
    | .host x => [({ host := true, key := x, mask := mask, val := val, rad := rad } : Piece)]
    | .past k => [{ host := false, key := k, mask := mask, val := val, rad := rad }]
    | .none => []
  if g.w < 8 then
    let pos := b.toNat % 8
    mk 0 ((2 ^ g.w - 1) <<< pos) ((e.val % 2 ^ g.w) <<< pos) (e.bad)
  else (List.range (g.w / 8)).flatMap (fun i => mk i 0xFF (fld e.val (8 * i) 8) (bit e.rad i))

/-- Overlay piece `q` on piece `p` of the same byte; where they share bits `q` wins. -/
def Piece.over (p q : Piece) : Piece :=
  { p with mask := p.mask ||| q.mask, val := (p.val &&& (0xFF ^^^ q.mask)) ||| q.val,
           rad := (p.rad && (p.mask &&& (0xFF ^^^ q.mask)) != 0) || q.rad }

/-- Add a piece to a list that holds one piece a byte. -/
def addPiece : List Piece → Piece → List Piece
  | [], q => [q]
  | p :: r, q => if p.host = q.host ∧ p.key = q.key then p.over q :: r else p :: addPiece r q

/-- One piece a byte, later pieces over earlier ones: what one unit writes together. -/
def mergePieces (l : List Piece) : List Piece := l.foldl addPiece []

/-- The byte that a piece leaves (R336): value and raddle from the byte as stored. -/
def Piece.apply (p : Piece) (old : Byte × Bool) : Byte × Bool :=
  (BitVec.ofNat 8 ((old.1.toNat &&& (0xFF ^^^ p.mask)) ||| p.val), p.rad || (p.mask ≠ 0xFF && old.2))

/-- Pieces that a DERR on their line's write leaves unwritten (R267). -/
def keepPieces (derr : List Nat) (ps : List Piece) : List Piece :=
  ps.filter (fun p => !(p.host && derr.contains (p.key / 64)))

/-- Hand a word to its scrubber unless it has been handed and not yet re-read (R330). -/
def State.hand (s : State) (w : Nat) : State :=
  if s.handed.any (fun h => h.1 = w) then s else { s with handed := s.handed ++ [(w, s.tick)] }

/-- Count one event in a FAULTS counter of the open epoch (Table 12-4), which saturates at 32 bits. -/
def State.bumpFault (s : State) (i n : Nat) : State :=
  match s.tally.epoch with
  | none => s
  | some e =>
    { s with tally := { s.tally with epoch := some { e with
      faults := setNth e.faults i (Nat.min 0xFFFFFFFF (((e.faults[i]?).getD 0) + n)) } } }

/-- Advance counter `i` of Table 14-23 by `n`, modulo 2^64 (R368). -/
def State.count (s : State) (i n : Nat) : State :=
  { s with cnt := setNth s.cnt i ((s.cnt.getD i 0) + BitVec.ofNat 64 n) }

/-- Count a corrected pasture word (R329, R368). -/
def State.corrected (s : State) : State := (s.bumpFault 6 1).count 13 1

/-- The words of the merges of R387: a partial write of a word that holds an error takes the word as corrected, or
raddles the bytes it keeps and hands the word on; a whole write replaces it. -/
def State.mergeWord (s : State) (ps : List Piece) (w : Nat) : State :=
  match sget .none s.ecc w with
  | .none => s
  | e =>
    let full := (List.range 8).all (fun i => ps.any (fun p => !p.host && p.key = 8 * w + i && p.mask = 0xFF))
    let s1 := { s with ecc := sset .none s.ecc w .none }
    if full then s1
    else if e = .single then s1.corrected
    else
      let keep := (List.range 8).map (fun i => (8 * w + i, true))
      ({ s1 with raddle := ssetAll false s1.raddle keep } : State).hand w

/-- The lines of host pieces, each once. -/
def hostLines (ps : List Piece) : List Nat := dedup ((ps.filter (fun p => p.host)).map (fun p => p.key / 64))

/-- Poison of a line after a write (R267): set by a raddled write, cleared by an unraddled write of the whole line. -/
def State.poisonLine (s : State) (ps : List Piece) (l : Nat) : State :=
  let mine := ps.filter (fun p => p.host && p.key / 64 = l)
  if mine.any (fun p => p.rad) then { s with poison := sset false s.poison l true }
  else if mine.length = 64 && mine.all (fun p => p.mask = 0xFF) then { s with poison := sset false s.poison l false }
  else s

/-- Write one merged piece. -/
def State.putPiece (s : State) (p : Piece) : State :=
  if p.host then { s with host := sset 0 s.host p.key (p.apply (s.hostByte p.key)).1 }
  else
    let r := p.apply (sget 0 s.past p.key, sget false s.raddle p.key)
    { s with past := sset 0 s.past p.key r.1, raddle := sset false s.raddle p.key r.2 }

/-- Write what one unit writes: `ps` holds one piece a byte. -/
def State.putAll (s : State) (ps : List Piece) : State :=
  let words := if s.ecc.isEmpty then [] else dedup ((ps.filter (fun p => !p.host)).map (fun p => p.key / 8))
  let s1 := words.foldl (fun t w => t.mergeWord ps w) s
  let s2 := (hostLines ps).foldl (fun t l => t.poisonLine ps l) s1
  ps.foldl State.putPiece s2

/-- What a read does to a word that holds an error: a correction is counted, an uncorrectable word handed on
(R329, R330). -/
def State.noteWord (s : State) (w : Nat) : State :=
  match sget .none s.ecc w with
  | .none => s
  | .single => s.corrected
  | .hard => s.hand w

/-- Note the error words that a unit read, each once. -/
def State.noteReads (s : State) (ws : List Nat) : State := (dedup ws).foldl State.noteWord s

/-- The next free choice, from 0 to n − 1 (assumption log 3). -/
def State.choose (s : State) (n : Nat) : Nat × State :=
  (Config.freeChoice s.freeCtr % n, { s with freeCtr := s.freeCtr + 1 })

/-- Write raw bytes to host memory, clearing the poison of a line that is written whole. -/
def State.putHost (s : State) (a : Nat) (l : List Byte) : State :=
  s.putAll (((List.range l.length).zip l).map (fun x =>
    { host := true, key := a + x.1, mask := 0xFF, val := x.2.toNat, rad := false }))

/-- Read bytes of host memory. -/
def State.getHost (s : State) (a n : Nat) : List Byte := (List.range n).map (fun i => sget 0 s.host (a + i))

end Sys2Proof.Machine
end

