-- ==== Sys2Proof/Machine/Cost.lean ====
section
/-!
DEFINITION. Runs, windows and units: how a graticule's elements are cut (R61, R104, R187) and what moving them costs a
fold in FCLK cycles (R62, R106, R107, Table 03-5).
-/
namespace Sys2Proof.Machine

/-! ### Runs (R61) -/

/-- A graticule whose dimension 0 breaks every element into a run of its own (R61, case 3). -/
def Grat.singles (g : Grat) : Bool := g.lin && g.sz 0 ≠ 1 && g.st 0 ≠ 1

/-- Elements of a run: dimensions joined from the second up while they continue it (R61, case 2; R384). -/
def joinRun : Nat → List Nat → List Int → Nat
  | n, z :: zs, t :: ts => if z = 1 ∨ t = (n : Int) then joinRun (n * z) zs ts else n
  | n, _, _ => n

/-- Elements of one run. -/
def Grat.runLen (g : Grat) : Nat :=
  if g.singles then 1 else Nat.max 1 (joinRun (g.sz 0) (g.size.drop 1) (g.stride.drop 1))

/-- Maximal stretches (first, last) of consecutive indices within one run of `rl` elements. -/
def stretches (rl : Nat) : List Nat → List (Nat × Nat)
  | [] => []
  | a :: r =>
    match stretches rl r with
    | [] => [(a, a)]
    | (b, c) :: t => if b = a + 1 ∧ a / rl = b / rl then (a, c) :: t else (a, a) :: (b, c) :: t

/-- Byte interval [lo, hi) of one element. -/
def Grat.spanOf (g : Grat) (l : Nat) : Nat × Nat :=
  let b := (g.bitAt l).toNat
  (b / 8, (b + g.w - 1) / 8 + 1)

/-- Byte intervals of the runs that a rising list of elements forms: stretches of a LIN graticule, each touched block of a
projected one, blocks that a zero stride puts at one origin counted apart (R61, case 4). -/
def Grat.spans (g : Grat) (ls : List Nat) : List (Nat × Nat) :=
  if g.lin then (stretches g.runLen ls).map (fun x => ((g.spanOf x.1).1, (g.spanOf x.2).2))
  else (sortN (ls.map g.blockNo)).map (fun q => ((g.blockOrg q).toNat, (g.blockOrg q).toNat + g.block.bytes))

/-- Beats or lines that an interval [lo, hi) touches. -/
def beatsOf (x : Nat × Nat) : Nat := cdiv x.2 64 - x.1 / 64

/-- Lines that an interval touches. -/
def linesOf (x : Nat × Nat) : List Nat := rangeFrom (x.1 / 64) (beatsOf x)

/-- Cost of one run in pasture (Table 02-3). -/
def runCost (x : Nat × Nat) : Nat := if x.1 % 64 = 0 then beatsOf x else 2 * beatsOf x

/-! ### Windows (R104, R106) -/

/-- Positions of a window for elements of `w` bits (R104). -/
def windowSize (w : Nat) : Nat := if w ≤ 8 then 64 else if w = 16 then 32 else if w = 48 then 10 else 16

/-- Cut a list into pieces of `c`. -/
def chunks {α : Type} (c : Nat) : Nat → List α → List (List α)
  | 0, _ => []
  | k + 1, l => if l.isEmpty then [] else l.take c :: chunks c k (l.drop c)

/-- Cut a list into windows of `c`. -/
def windows {α : Type} (c : Nat) (l : List α) : List (List α) := chunks c l.length l

/-- Cycles of one window on the pasture side: the most rows asked of one bank (R106). -/
def windowCycles (spans : List (Nat × Nat)) : Nat :=
  let beats := dedup (spans.flatMap linesOf)
  Nat.max 1 (maxN ((List.range 8).map (fun b => (beats.filter (fun x => x % 8 = b)).length)))

/-- Lines of one window, each once (R109). -/
def windowLines (spans : List (Nat × Nat)) : List Nat := dedup (spans.flatMap linesOf)

/-! ### One side of a share -/

/-- Host lines that a share's runs take (R62). -/
def Grat.lines (g : Grat) (ls : List Nat) : Nat := sumN ((g.spans ls).map beatsOf)

/-- Fold cycles of one side of a share: R62, or R107 for single-element runs in pasture. -/
def Grat.side (g : Grat) (ls : List Nat) : Nat :=
  if !g.space then g.lines ls
  else if g.singles then sumN ((windows (windowSize g.w) (ls.map g.spanOf)).map windowCycles)
  else sumN ((g.spans ls).map runCost)

/-- External lines of one side of a share. -/
def Grat.ext (g : Grat) (ls : List Nat) : Nat := if g.space then 0 else g.lines ls

/-! ### Paths (Table 03-4) -/

/-- The four paths of R70. -/
inductive Path where
  | run | shear | tile | gather
  deriving DecidableEq, Repr

/-- A pair of a beat-aligned LIN graticule and one of a projection whose block dimensions are its dimensions 0 and 1. The
outer dimensions pair by logical index, whatever their number (R34). -/
def tilePair (a b : Grat) : Bool := a.lin && !b.lin && a.beatAligned && a.sz 0 = b.sz 0 && a.sz 1 = b.sz 1

/-- Path of a descriptor (R70, R193, R194, R197). -/
def Parsed.path (p : Parsed) : Path :=
  match p.opc, p.src0, p.dst with
  | some .copy, some a, some b =>
    if a.lin && b.lin then .run
    else if p.ordered then .gather
    else if !a.lin && !b.lin && a.proj = b.proj && a.ety = b.ety && a.size = b.size then .run
    else if tilePair a b || tilePair b a then .tile
    else .gather
  | some .transpose, some a, some b =>
    if !p.ordered && (a.sz 0 = 1 || a.st 0 = 1) && (b.sz 0 = 1 || b.st 0 = 1) && a.w ≠ 48 then .shear else .gather
  | some .permute, some a, some b =>
    if axis p.pj 0 = 0 then (if p.ordered && !(a.lin && b.lin) then .gather else .run)
    else if !p.ordered && (a.sz 0 = 1 || a.st 0 = 1) && (b.sz 0 = 1 || b.st 0 = 1) && a.w ≠ 48 then .shear
    else .gather
  | some .shuffle, _, _ => .tile
  | some .deliver, some a, some b => if tilePair a b then .tile else .gather
  | some .collect, some a, some b => if tilePair b a then .tile else .gather
  | some .pack, some a, some b =>
    if (fld p.aux 0 16) * a.w % 512 = 0 && a.beatAligned && b.beatAligned && ((p.src1.map Grat.beatAligned).getD true)
    then .run else .gather
  | some .unpack, some a, some b =>
    if (fld p.aux 0 16) * a.w % 512 = 0 && a.beatAligned && b.beatAligned then .run else .gather
  | some .gather, _, _ => .gather
  | some .scatter, _, _ => .gather
  | _, _, _ => .run

/-! ### Units (R187) -/

/-- State of the cut of run-path units: elements of the open unit (last first), beats used, run and last beat. -/
structure CutAcc where
  done : List (List Nat)
  cur  : List Nat
  used : Nat
  run  : Nat
  beat : Nat
  seen : List Nat
  deriving DecidableEq, Repr

/-- Take one element into the cut: it opens a unit when its beats do not fit in 64. -/
def cutStep (g : Grat) (acc : CutAcc) (l : Nat) : CutAcc :=
  if g.lin then
    let x := g.spanOf l
    let b0 := x.1 / 64
    let b1 := (x.2 - 1) / 64
    let r := l / g.runLen
    let new := if acc.cur ≠ [] ∧ r = acc.run ∧ acc.beat ≤ b1 ∧ b0 ≤ acc.beat + 1 then b1 - acc.beat else b1 + 1 - b0
    if acc.used + new ≤ 64 ∨ acc.cur = [] then { acc with cur := l :: acc.cur, used := acc.used + new, run := r, beat := b1 }
    else { done := acc.cur.reverse :: acc.done, cur := [l], used := b1 + 1 - b0, run := r, beat := b1, seen := [] }
  else
    let o := g.blockNo l
    let new := if o ∈ acc.seen then 0 else g.block.bytes / 64
    if acc.used + new ≤ 64 ∨ acc.cur = [] then { acc with cur := l :: acc.cur, used := acc.used + new, seen := if o ∈ acc.seen then acc.seen else o :: acc.seen }
    else { done := acc.cur.reverse :: acc.done, cur := [l], used := g.block.bytes / 64, run := 0, beat := 0, seen := [o] }

/-- Run-path units of a list of elements of side `g`: the longest stretches within 64 beats (R187). -/
def cutUnits (g : Grat) (ls : List Nat) : List (List Nat) :=
  let a := ls.foldl (cutStep g) { done := [], cur := [], used := 0, run := 0, beat := 0, seen := [] }
  ((if a.cur = [] then [] else [a.cur.reverse]) ++ a.done).reverse

/-- All multi-indices of a box, dimension 0 fastest. -/
def boxes : List Nat → List (List Nat)
  | [] => [[]]
  | n :: r => (boxes r).flatMap (fun t => (List.range n).map (fun i => i :: t))

/-- Indices of one block along a dimension: block `q` of extent `e`, cut to size `n`. -/
def within (q e n : Nat) : List Nat := (rangeFrom (q * e) e).filter (fun i => i < n)

/-- Logical indices of the product of one index list a dimension. -/
def crossL (size : List Nat) : List (List Nat) → List (List Nat)
  | [] => [[]]
  | l :: r => (crossL size r).flatMap (fun t => l.map (fun i => i :: t))

/-- Blocks of a DST tensor cut with the given extent along each dimension, in the order of `boxes` over the block
counts: the elements of each in DST logical order. -/
def cutBlocks (size ext : List Nat) : List (List Nat) :=
  (boxes ((size.zip ext).map (fun x => cdiv x.1 x.2))).map (fun q =>
    (crossL size ((q.zip (size.zip ext)).map (fun x => within x.1 x.2.2 x.2.1))).map (fun i => flat size i))

/-- The DST dimension that takes SRC0's dimension 0 (R78, R79). -/
def Parsed.lift (p : Parsed) : Nat :=
  match p.opc with
  | some .permute => ((List.range 6).find? (fun t => axis p.pj t = 0)).getD 0
  | _ => 1

/-- Elements along SRC0's dimension 0 of a shear block (R78, R79, R77). -/
def shearCols (w : Nat) : Nat := if w < 8 then 64 else 64 / (w / 8)

/-- Block extents along each DST dimension on the shear path. -/
def Parsed.shearExt (p : Parsed) (g : Grat) : List Nat :=
  (List.range g.rank).map (fun d => if d = 0 then 64 else if d = p.lift then shearCols g.w else 1)

/-- Shear blocks in order: planes of DST dimensions 0 and `lift` inside the other dimensions (R79, step 5). -/
def Parsed.shearUnits (p : Parsed) (g : Grat) : List (List Nat) :=
  let ext := p.shearExt g
  let us := cutBlocks g.size ext
  if p.lift ≤ 1 then us
  else
    -- sort key: the block index with the lifted dimension moved next to dimension 0
    let nb := (g.size.zip ext).map (fun x => cdiv x.1 x.2)
    let order := (List.range nb.length).filter (fun d => d ≠ p.lift)
    let perm := match order with | [] => [] | a :: r => a :: p.lift :: r
    let nb2 := perm.map (fun d => (nb[d]?).getD 1)
    (boxes nb2).map (fun q2 =>
      let q := (List.range nb.length).map (fun d => ((q2[(perm.idxOf d)]?).getD 0))
      (us[flat nb q]?).getD [])

/-- Elements of the tiles of a tile-path COPY, DELIVER or COLLECT over the projected side `g`: up to four 1 KiB blocks
along dimension 0, or one SHEAR64 block (R96). -/
def tileUnits (g : Grat) : List (List Nat) :=
  let b := g.block
  cutBlocks g.size ((List.range g.rank).map (fun d =>
    if d = 0 then (if g.proj = 4 then b.b0 else 4 * b.b0) else if d = 1 then b.b1 else 1))

/-- The units of a divided descriptor over side `g` (DST, or SRC0 for DIGEST). -/
def Parsed.units (p : Parsed) (g : Grat) : List (List Nat) :=
  match p.path with
  | .run => cutUnits g (List.range g.count)
  | .shear => p.shearUnits g
  | .tile =>
    let pg := if g.lin then (p.src0.getD g) else g
    tileUnits pg
  | .gather => windows (windowSize g.w) (List.range g.count)

/-! ### Index maps of the reordering opcodes -/

/-- Insert the index of DST dimension d as SRC0's A[d] (R79). -/
def permIndex (p : Parsed) (j : List Nat) (rank : Nat) : List Nat :=
  (List.range rank).map (fun e =>
    match (List.range rank).find? (fun d => axis p.pj d = e) with
    | some d => (j[d]?).getD 0
    | none => 0)

/-- Source graticule (0 for SRC0, 1 for SRC1) and logical index of DST element `l` (R34, R78, R79, R194). -/
def Parsed.srcIndex (p : Parsed) (l : Nat) : Nat × Nat :=
  match p.opc, p.src0, p.dst with
  | some .transpose, some a, some b =>
    (0, match decomp b.size l with
        | j0 :: j1 :: r => flat a.size (j1 :: j0 :: r)
        | _ => l)
  | some .permute, some a, some b => (0, flat a.size (permIndex p (decomp b.size l) b.rank))
  | some .pack, some a, some b =>
    match decomp b.size l with
    | j0 :: r =>
      let g := fld p.aux 0 16
      let c := j0 / g
      (c % 2, flat a.size ((g * (c / 2) + j0 % g) :: r))
    | _ => (0, l)
  | some .unpack, some a, some b =>
    match decomp b.size l with
    | j0 :: r =>
      let g := fld p.aux 0 16
      (0, flat a.size ((g * (2 * (j0 / g) + fld p.aux 16 1) + j0 % g) :: r))
    | _ => (0, l)
  | _, _, _ => (0, l)

end Sys2Proof.Machine
end

