-- ==== Sys2Proof/Machine/Work.lean ====
section
/-!
DEFINITION. Which folds execute a descriptor and what each of them does: the resolved affinity (R177), the execution
classes (R186, R187), the index streams of GATHER and SCATTER (R97 to R103), and the row and sheaf layout of the table
product (R119).
-/
namespace Sys2Proof.Machine

/-! ### Affinity -/

/-- The bits of a 64-bit mask. -/
def onesOf (m : Nat) : List Nat := (List.range 64).filter (fun i => bit m i)

/-- The resolved affinity in ascending order (R177). -/
def State.resolve (s : State) (p : Parsed) : List Nat := sortN ((onesOf p.affinity).map s.standIn)

/-- Affinity bits that need remapping, with the fold used (R177). -/
def State.remaps (s : State) (p : Parsed) : List (Nat × Nat) :=
  ((onesOf p.affinity).filter (fun b => !s.present b)).map (fun b => (b, s.standIn b))

/-! ### Slices -/

/-- Slices that a byte interval touches. -/
def slicesOf (lo hi : Int) : List Nat :=
  rangeFrom (lo / (slice : Int)).toNat ((hi / (slice : Int)).toNat + 1 - (lo / (slice : Int)).toNat)

/-- Slices of a graticule's footprint. -/
def Grat.slices (g : Grat) : List Nat := slicesOf g.foot.1 g.foot.2

/-- A pasture graticule that is not LOCAL. -/
def Grat.anchored (g : Grat) : Bool := g.space && !g.loc

/-- Slices that some elements of a graticule touch. -/
def Grat.slicesAt (g : Grat) (ls : List Nat) : List Nat :=
  sortN ((g.spans ls).flatMap (fun x => slicesOf x.1 ((x.2 : Int) - 1)))

/-- The graticules of a descriptor in slot order. -/
def Parsed.grats (p : Parsed) : List Grat := [p.src0, p.src1, p.idx, p.dst, p.tbl].filterMap id

/-- Whether a graticule of slot `i` is a port address and no memory (R95, R195). -/
def portSlot (o : Opc) (i : Nat) : Bool := (o = .deliver && i = 3) || (o = .collect && i = 0)

/-- Graticules with their slot numbers. -/
def Parsed.slotGrats (p : Parsed) : List (Nat × Grat) :=
  ([(0, p.src0), (1, p.src1), (2, p.idx), (3, p.dst), (4, p.tbl)]).filterMap (fun x => x.2.map (fun g => (x.1, g)))

/-- Whether a SCATTER writes a host tensor of sub-byte elements (R386). -/
def Parsed.hostSub (p : Parsed) : Bool :=
  p.opc = some .scatter && (p.dst.map (fun g => !g.space && decide (g.w < 8))).getD false

/-- Graticules that lie in memory, with their slot numbers: the port addresses of DELIVER and COLLECT left out. -/
def Parsed.memGrats (p : Parsed) : List (Nat × Grat) :=
  p.slotGrats.filter (fun x => !portSlot (p.opc.getD .nop) x.1)

/-- The descriptor's anchored graticules, the port addresses of DELIVER and COLLECT aside. -/
def Parsed.anchors (p : Parsed) : List Grat := (p.memGrats.map Prod.snd).filter Grat.anchored

/-- The one slice of the anchored graticules: `some none` where there are none, `none` where they need several. -/
def Parsed.anchorSlice (p : Parsed) : Option (Option Nat) :=
  match sortN (p.anchors.flatMap Grat.slices) with
  | [] => some none
  | [f] => some (some f)
  | _ => none

/-- A share: an executing fold and its units, each a list of logical indices. -/
abbrev Share := Nat × List (List Nat)

/-- The single fold of R55, of the single-fold class and of R102: the affinity's one fold, or `dflt`. `none` is
REFUSED_SHAPE. -/
def oneFold (aff : List Nat) (dflt : Nat) : Option Nat :=
  match aff with
  | [] => some dflt
  | [f] => some f
  | _ => none

/-- The fold of the ordered class (R55). -/
def State.orderedFold (s : State) (p : Parsed) : Option Nat :=
  match p.anchorSlice with
  | none => none
  | some none => oneFold (s.resolve p) s.fold0
  | some (some a) => (oneFold (s.resolve p) a).bind (fun f => if f = a then some f else none)

/-- The folds that R102 and R103 name: the anchored one, the ordered one, or the affinity's or every enabled fold. -/
def State.anchoredFolds (s : State) (p : Parsed) : Option (List Nat) :=
  match p.anchorSlice with
  | none => none
  | some (some a) => (oneFold (s.resolve p) a).bind (fun f => if f = a then some [f] else none)
  | some none =>
    if p.ordered then (s.orderedFold p).map (fun f => [f])
    else some (if (s.resolve p).isEmpty then s.enabled else s.resolve p)

/-- Whether any graticule is a LOCAL pasture one. -/
def Parsed.anyLocal (p : Parsed) : Bool := p.grats.any (fun g => g.space && g.loc)

/-! ### Divided descriptors (R187) -/

/-- The side whose logical order cuts the units. -/
def Parsed.lead (p : Parsed) : Option Grat := if p.opc = some .digest then p.src0 else p.dst

/-- Source elements of some DST elements, as (source number, rising indices). -/
def Parsed.srcAt (p : Parsed) (k : Nat) (ls : List Nat) : List Nat :=
  sortN ((ls.map p.srcIndex).filterMap (fun x => if x.1 = k then some x.2 else none))

/-- Slices that a unit's anchored bytes touch. -/
def Parsed.unitSlices (p : Parsed) (ls : List Nat) : List Nat :=
  let side := fun (g : Option Grat) (l : List Nat) => match g with
    | some a => if a.anchored then a.slicesAt l else []
    | none => []
  if p.opc = some .digest then side p.src0 ls
  else sortN (side p.src0 (p.srcAt 0 ls) ++ side p.src1 (p.srcAt 1 ls) ++ side p.dst (sortN ls))

/-- Units grouped by fold in ascending fold order. -/
def groupUnits (folds : List Nat) (tagged : List (Nat × List Nat)) : List Share :=
  folds.map (fun f => (f, (tagged.filter (fun x => x.1 = f)).map Prod.snd))

/-- Units dealt out in equal stretches (R187, case 3). -/
def dealUnits (folds : List Nat) (us : List (List Nat)) : List Share :=
  let c := cdiv us.length folds.length
  (((List.range folds.length).zip folds).map (fun x => (x.2, (us.drop (x.1 * c)).take c))).filter (fun x => x.2 ≠ [])

/-- The division of a divided descriptor; `none` is REFUSED_SHAPE. -/
def State.divide (s : State) (p : Parsed) : Option (List Share) :=
  match p.lead with
  | none => none
  | some g =>
    let us := p.units g
    let aff := s.resolve p
    if p.ordered then (s.orderedFold p).map (fun f => [(f, us)])
    else if p.path = .gather then
      match s.anchoredFolds p with
      | none => none
      | some fs =>
        if p.anyLocal || fs.length ≤ 1 then some (fs.map (fun f => (f, us))) else some (dealUnits fs us)
    else if p.anchors ≠ [] then
      let tagged := us.map (fun u => (p.unitSlices u, u))
      if tagged.any (fun x => x.1.length ≠ 1) then none
      else
        let t := tagged.map (fun x => ((x.1[0]?).getD 0, x.2))
        let fs := sortN (t.map Prod.fst)
        if aff ≠ [] && fs.any (fun f => !(aff.contains f)) then none else some (groupUnits fs t)
    else
      let fs := if aff.isEmpty then s.enabled else aff
      if p.anyLocal then some (fs.map (fun f => (f, us))) else some (dealUnits fs us)

/-! ### SHUFFLE (R80, R81) -/

/-- Element width log2 e of a SHUFFLE's type. -/
def Parsed.eBytes (p : Parsed) : Nat := ((p.src0.map (fun g => g.ty.bytes)).getD 1)

/-- Elements of a tile: fixed by M, or recorded in the route slot (R82 to R84). -/
def State.tileN (s : State) (p : Parsed) (f : Nat) : Nat :=
  if fld p.pj 0 4 = 4 then (sget RouteEntry.blank (s.lfold f).route (fld p.pj 160 8)).n.toNat
  else 2 ^ (fld p.pj 8 4) / p.eBytes

/-- Tile size for the shape checks at admission; for class BODY the first executing fold's slot gives it. -/
def State.shuffleFolds (s : State) (p : Parsed) : List Nat :=
  let aff := s.resolve p
  if aff.isEmpty then s.enabled else aff

/-- Tiles of a SHUFFLE: for class BODY the slot of the fold that holds the first anchored byte. -/
def State.shuffleN (s : State) (p : Parsed) : Nat :=
  match p.anchors.flatMap Grat.slices with
  | f :: _ => s.tileN p f
  | [] => match s.shuffleFolds p with
    | f :: _ => s.tileN p f
    | [] => 1

/-- The division of a SHUFFLE by tiles of `n` elements; `none` is REFUSED_SHAPE. -/
def State.divideTiles (s : State) (p : Parsed) (n : Nat) : Option (List Share) :=
  match p.dst with
  | none => none
  | some g =>
    let us := windows n (List.range g.count)
    if p.anchors = [] then some ((s.shuffleFolds p).map (fun f => (f, us)))
    else
      let tagged := us.map (fun u => (p.unitSlices u, u))
      if tagged.any (fun x => x.1.length ≠ 1) then none
      else
        let t := tagged.map (fun x => ((x.1[0]?).getD 0, x.2))
        let fs := sortN (t.map Prod.fst)
        let aff := s.resolve p
        if aff ≠ [] && fs.any (fun f => !(aff.contains f)) then none else some (groupUnits fs t)

/-- Whether a SHUFFLE is of class BODY, whose N stands in a route slot (R84). -/
def Parsed.bodyClass (p : Parsed) : Bool := fld p.pj 0 4 = 4

/-- The division of a SHUFFLE. The N of class BODY is known when the scoreboard releases the descriptor (R84): a slot as
it stands before that only prices it (DESIGN CHOICE, log 80), and where its N fits no tile of the descriptor the folds are those of the
elements. -/
def State.divideShuffle (s : State) (p : Parsed) : Option (List Share) :=
  let x := s.divideTiles p (Nat.max 1 (s.shuffleN p))
  if p.bodyClass then x.or (s.divideTiles p 1) else x

/-! ### GATHER and SCATTER -/

/-- The index forms of Table 04-1. -/
inductive GForm where
  | window | flat | coord | row
  deriving DecidableEq, Repr

/-- Stream tensor Q and data tensor A. -/
def Parsed.streamData (p : Parsed) : Option (Grat × Grat) :=
  match p.src0, p.dst with
  | some a, some b => some (if p.opc = some .scatter then (a, b) else (b, a))
  | _, _ => none

/-- The form that IDX selects (Table 04-1); `none` is REFUSED_SHAPE (R98). -/
def Parsed.form (p : Parsed) : Option GForm :=
  match p.streamData, p.idx with
  | some (q, a), none => if q.rank = a.rank then some .window else none
  | some (q, a), some x =>
    if x.size = q.size then some .flat
    else if x.rank = q.rank + 1 ∧ x.sz 0 = a.rank ∧ x.size.drop 1 = q.size then some .coord
    else if x.rank = 1 ∧ q.rank = a.rank ∧ 2 ≤ q.rank ∧ x.sz 0 = q.sz (q.rank - 1) ∧
        q.size.take (q.rank - 1) = a.size.take (q.rank - 1) then some .row
    else none
  | none, _ => none

/-- Signed value of an index element (Table 04-2). -/
def Grat.idxVal (g : Grat) (v : Nat) : Int := if g.ty.signed then sext v g.w else (v : Int)

/-- Where a stream position leads: the data element, whether it was clamped, whether the index is raddled. -/
structure Hit where
  at_   : Nat
  clamp : Bool
  bad   : Bool
  deriving DecidableEq, Repr

/-- Clamp a supplied multi-index (R47). -/
def clampMulti : List Nat → List Int → List Nat × Bool
  | n :: r, j :: t =>
    let c := clampI j 0 ((n : Int) - 1)
    let x := clampMulti r t
    (c.toNat :: x.1, x.2 || c ≠ j)
  | _, _ => ([], false)

/-- The clamped hit of a multi-index. -/
def hitMulti (a : Grat) (j : List Int) (bad : Bool) : Hit :=
  let x := clampMulti a.size j
  { at_ := Sys2Proof.Machine.flat a.size x.1, clamp := x.2, bad := bad }

/-- IDX elements that a stream position reads. -/
def Parsed.idxAt (p : Parsed) (l : Nat) : List Nat :=
  match p.form, p.streamData with
  | some .flat, _ => [l]
  | some .coord, some (_, a) => (List.range a.rank).map (fun d => d + a.rank * l)
  | some .row, some (q, _) => [((decomp q.size l)[q.rank - 1]?).getD 0]
  | _, _ => []

/-- The data element that stream position `l` names, as fold `f` reads IDX (R97, R100). -/
def State.hit (s : State) (p : Parsed) (f did l : Nat) : Hit :=
  match p.streamData, p.form with
  | some (q, a), some fm =>
    let j := decomp q.size l
    let ix := (p.idxAt l).map (fun k => match p.idx with
      | some x => (x.idxVal (s.rdElt f did x k).val, (s.rdElt f did x k).bad)
      | none => (0, false))
    let bad := ix.any Prod.snd
    match fm with
    | .window => hitMulti a (((List.range j.length).zip j).map (fun x => (x.2 : Int) + origin p.aux x.1)) false
    | .flat =>
      let v := ((ix[0]?).map Prod.fst).getD 0
      let c := clampI v 0 ((a.count : Int) - 1)
      { at_ := c.toNat, clamp := c ≠ v, bad := bad }
    | .coord => hitMulti a (ix.map Prod.fst) bad
    | .row => hitMulti a ((j.take (q.rank - 1)).map Int.ofNat ++ [((ix[0]?).map Prod.fst).getD 0]) bad
  | _, _ => { at_ := 0, clamp := false, bad := false }

/-- Byte intervals that overlap. -/
def overlaps (x y : Nat × Nat) : Bool := decide (x.1 < y.2 ∧ y.1 < x.2)

/-- Windows of a fold's range of positions; under ORDERED a SCATTER window also ends before a position whose element
shares a byte with one that the window writes (R104). `spans` gives the destination bytes of a position, an empty
interval for one that a raddled index drops (R114). -/
def orderedWindows (c : Nat) (spans : Nat → Nat × Nat) : List Nat → List Nat → List (List Nat)
  | cur, [] => if cur = [] then [] else [cur.reverse]
  | cur, l :: r =>
    if cur.length ≥ c ∨ cur.any (fun k => overlaps (spans k) (spans l)) then
      cur.reverse :: orderedWindows c spans [l] r
    else orderedWindows c spans (l :: cur) r

/-- Windows of a range (R104). -/
def State.gsWindows (s : State) (p : Parsed) (f did : Nat) (ls : List Nat) : List (List Nat) :=
  match p.streamData with
  | none => []
  | some (q, a) =>
    let c := windowSize q.w
    if p.ordered && p.opc = some .scatter then
      orderedWindows c (fun l => let h := s.hit p f did l
        if h.bad then (0, 0) else a.spanOf h.at_) [] ls
    else windows c ls

/-- The division of a GATHER or SCATTER (R103); `none` is REFUSED_SHAPE. -/
def State.divideGS (s : State) (p : Parsed) (did : Nat) : Option (List Share) :=
  match s.anchoredFolds p, p.streamData with
  | some fs, some (q, _) =>
    let n := q.count
    let all := fs.map (fun f => (f, List.range n))
    let parts :=
      if p.anyLocal then all
      else
        let c := 64 * cdiv n (64 * fs.length)
        (((List.range fs.length).zip fs).map (fun x => (x.2, ((List.range n).drop (x.1 * c)).take c))).filter
          (fun x => x.2 ≠ [])
    some (parts.map (fun x => (x.1, s.gsWindows p x.1 did x.2)))
  | _, _ => none

/-! ### Table product (R119) -/

/-- Layout of a TPROD over its folds. -/
structure TLayout where
  k     : Nat
  t     : Nat
  n     : Nat
  m     : Nat
  q     : Nat
  kf    : Nat
  folds : List Nat
  deriving DecidableEq, Repr

/-- Sheaves of K codes. -/
def sheavesOf (k : Nat) : Nat := cdiv k 1024

/-- Layout of a TPROD by R119 and R144; `none` is REFUSED_SHAPE. DESIGN CHOICE (log 67): the SHEAVES form keeps the stride
conditions that R119 states for ROWS. -/
def State.tLayout (s : State) (p : Parsed) : Option TLayout :=
  match p.src0, p.src1 with
  | some x, some w =>
    let a := TParams.ofAux p.aux
    let aff := s.resolve p
    let m := if p.spill then aff.length else w.sz 2
    let f0 := (w.addr / slice)
    let folds := if p.spill then aff else rangeFrom f0 m
    let k := x.sz 0
    let q := if m = 0 then 0 else cdiv a.nrows m
    let strideOk := w.sz 0 = 1 || w.st 0 = 1
    let st1 := w.sz 1 ≤ 1 || (w.st 1 * (w.w : Int)) % 512 = 0
    let st2 := w.sz 2 ≤ 1 || w.st 2 * (w.w : Int) = (2 ^ 23 : Int)
    let affOk := p.spill || aff.all (fun f => folds.contains f)
    let common := m ≠ 0 && w.sz 2 = m && strideOk && st1 && st2 && affOk
    if a.sheaves then
      let kf := w.sz 0
      if common && w.rank = 3 && kf % 1024 = 0 && w.sz 1 = a.nrows && kf * (m - 1) < k && k ≤ kf * m then
        some { k := k, t := x.sz 1, n := a.nrows, m := m, q := q, kf := kf, folds := folds }
      else none
    else if common && (w.rank = 2 || w.rank = 3) && w.sz 0 = k && w.sz 1 = q then
      some { k := k, t := x.sz 1, n := a.nrows, m := m, q := q, kf := 0, folds := folds }
    else none
  | _, _ => none

/-- Rows [lo, hi) that executing fold number `i` collects. -/
def TLayout.rows (t : TLayout) (i : Nat) : Nat × Nat := (i * t.q, Nat.min t.n ((i + 1) * t.q))

/-- Number of rows that executing fold number `i` collects. -/
def TLayout.nrows (t : TLayout) (i : Nat) : Nat := Nat.min t.n ((i + 1) * t.q) - i * t.q

/-- Sheaves [lo, hi) whose leaves fold number `i` computes in the SHEAVES form. -/
def TLayout.sheaves (t : TLayout) (i : Nat) : Nat × Nat :=
  (i * t.kf / 1024, cdiv (Nat.min t.k ((i + 1) * t.kf)) 1024)

/-- The folds of a TPROD that have work: in the ROWS form without ROTATE those that hold rows (R26). -/
def TLayout.working (t : TLayout) (a : TParams) : List Share :=
  (((List.range t.m).zip t.folds).filter (fun x => a.sheaves || a.rotate || decide (0 < t.nrows x.1))).map
    (fun x => (x.2, []))

/-! ### Executing folds -/

/-- The single fold of the class of DELIVER, COLLECT, REQUANT and VMOVE. -/
def State.singleFold (s : State) (p : Parsed) : Option Nat :=
  if p.ordered then s.orderedFold p else oneFold (s.resolve p) s.fold0

/-- The folds of the named-folds class. -/
def State.namedFolds (s : State) (p : Parsed) : Option (List Nat) :=
  if p.ordered then (s.orderedFold p).map (fun f => [f])
  else some (if (s.resolve p).isEmpty then [s.fold0] else s.resolve p)

/-- Units of the single-fold element opcodes. -/
def Parsed.singleUnits (p : Parsed) : List (List Nat) :=
  match p.opc, p.src0, p.dst with
  | some .deliver, _, some g => tileUnits g
  | some .collect, some g, some h => if g.lin then cutUnits h (List.range h.count) else tileUnits g
  | some .requant, _, some g => windows 64 (List.range g.count)
  | some .vmove, some _, some g => cutUnits g (List.range g.count)
  | _, _, _ => [[]]

/-- The share of every executing fold; `none` is REFUSED_SHAPE. Commit units of TPROD and the one-unit opcodes are
counted elsewhere. -/
def State.shares (s : State) (p : Parsed) (did : Nat) : Option (List Share) :=
  match p.opc with
  | none => none
  | some o =>
    match o with
    | .copy | .transpose | .permute | .convert | .pack | .unpack | .digest => s.divide p
    | .shuffle => s.divideShuffle p
    | .gather | .scatter => s.divideGS p did
    | .deliver | .collect | .requant | .vmove => (s.singleFold p).map (fun f => [(f, p.singleUnits)])
    | .vload | .vstore | .release | .route | .cbload => (s.namedFolds p).map (fun fs => fs.map (fun f => (f, [[]])))
    | .tprod => (s.tLayout p).map (fun t => t.working (TParams.ofAux p.aux))
    | .fence | .gate | .tally | .cancel | .planload | .seedset | .nop => some []

/-- Folds that take part: the executing folds and VMOVE's destination. -/
def State.folds_ (s : State) (p : Parsed) (did : Nat) : List Nat :=
  let fs := ((s.shares p did).getD []).map Prod.fst
  if p.opc = some .vmove then fs ++ (if fs.contains (VParams.ofAux p.aux).dfold then [] else [(VParams.ofAux p.aux).dfold])
  else fs

end Sys2Proof.Machine
end

