-- ==== Sys2Proof/Machine/Checks.lean ====
section
/-!
DEFINITION. The stile's checks of a descriptor in the order of R200: the encoding checks with the bit that R201 names,
then affinity under STRICT, shape, range and alias.
-/
namespace Sys2Proof.Machine

/-! ### Encoding checks: the failing bit within its cell, the cell and the step -/

/-- What an ENCODING record names (Table 13-9). -/
structure BadBit where
  bit  : Nat
  cell : Nat
  step : Nat
  deriving DecidableEq, Repr

/-- INFO of an ENCODING record. -/
def BadBit.info (b : BadBit) : Nat := place b.bit 0 9 + place b.cell 9 4 + place b.step 13 3

/-- Lowest set bit of `x` among reserved ranges given as (lowest bit, width) in rising order. -/
def lowReserved (x : Nat) : List (Nat × Nat) → Option Nat
  | [] => none
  | (lo, w) :: r =>
    match lowBitFrom x lo w with
    | some b => some b
    | none => lowReserved x r

/-- First failure of a list of (holds, bit) conditions: the bit of the first that does not hold. -/
def firstBad : List (Bool × Nat) → Option Nat
  | [] => none
  | (ok, b) :: r => if ok then firstBad r else some b

/-- Reserved fields of the legend (Table 07-2). -/
def legendReserved : List (Nat × Nat) := [(13, 3), (24, 8), (83, 5), (89, 7), (101, 27), (137, 23), (224, 288)]

/-- Legend flags not permitted on the opcode (Table 07-3). -/
def flagChecks (p : Parsed) (o : Opc) : List (Bool × Nat) :=
  [(!p.ordered || o.orderable, 97), (!p.assured || !o.noFold, 99), (!p.spill || o = .tprod, 100)]

/-- The V check (R110, R118, R176). -/
def vOk (p : Parsed) (o : Opc) : Bool :=
  match o with
  | .scatter => p.v != p.ordered
  | .copy => true
  | .tprod => p.v = (bit p.aux 88 && bit p.aux 90)
  | _ => !p.v

/-- The legend's checks in the order of R200, step 2. -/
def legendBad (p : Parsed) (pen : Nat) : Option Nat :=
  match lowReserved p.leg legendReserved with
  | some b => some b
  | none =>
    match p.opc with
    | none => some 0
    | some o =>
      if p.tag = nullTag then some 32
      else firstBad
        ([(decide (fld p.leg 52 12 = pen), 52), (decide (fld p.leg 9 4 = cellCount p.leg), 9),
          (decide (o = .gate) || (if pen = 0 then o.control else !o.controlOnly), 0)]
          ++ flagChecks p o
          ++ [(vOk p o, 8), (if o.noFold then !p.fmode else (p.fmode || decide (o ≠ .tprod)), 88),
              (!o.noFold || decide (p.affinity = 0), 160)])

/-- Cell number of a slot. -/
def slotIndex (p : Parsed) (i : Nat) : Nat := 1 + popN p.pres i

/-- Slot presence (R184, R191) and the GATE's control-pen check, R200 step 3: (bit, cell). -/
def presenceBad (p : Parsed) (o : Opc) (pen : Nat) : Option (Nat × Nat) :=
  let ro := o.slots
  let pair := o = .vmove && (bit p.pres 0 != bit p.pres 3)
  let bad := fun i =>
    if bit ro.1 i then !bit p.pres i
    else if bit ro.2 i then (pair && (i = 0 || i = 3) && !bit p.pres i)
    else bit p.pres i
  match (List.range 8).find? bad with
  | some i => some (16 + i, 0)
  | none =>
    if (o = .gather || o = .scatter) && bit p.pres 2 && p.aux ≠ 0 then
      (lowBitFrom p.aux 0 512).map (fun b => (b, slotIndex p 7))
    else if o = .gate && (p.arms != decide (pen = 0)) then some (0, slotIndex p 7)
    else none

/-- Types that a projection takes (Table 03-1). -/
def projTypeOk (proj : Nat) (t : ETy) : Bool :=
  match proj with
  | 1 | 2 => t.width = 8
  | 3 => t.width = 4
  | 4 => t.width = 8 || t.width = 16 || t.width = 32
  | _ => true

/-- Index element types (Table 04-2). -/
def idxTypeOk (code : Nat) : Bool := [3, 4, 5, 6, 15].contains code

/-- Encoding checks of one graticule cell in slot `i` (R200, step 4). -/
def gratBad (c i : Nat) (o : Opc) : Option Nat :=
  let g := Grat.ofCell c
  if g.rank = 0 ∨ g.rank = 7 then some 68
  else
    match lowReserved c ([(71, 1), (82, 14), (98, 30)] ++
        ((List.range 6).filter (fun d => g.rank ≤ d)).map (fun d => (128 + 32 * d, 32)) ++
        ((List.range 6).filter (fun d => g.rank ≤ d)).map (fun d => (320 + 32 * d, 32))) with
    | some b => some b
    | none =>
      match ETy.ofCode g.ety with
      | none => some 64
      | some t =>
        firstBad
          [(decide (t.width ≠ 48) || (g.space && ((o = .tprod && i = 3) || (o = .requant && i = 0))), 64),
           (if t.width = 4 then g.suboff ≤ 1 else if t.width = 2 then true else g.suboff = 0, 80),
           (decide (g.proj ≤ 4), 72), (g.space || !g.loc, 97), (projTypeOk g.proj t, 64),
           (g.proj != 4 || g.space, 63), (g.lin || g.suboff = 0, 80), (i != 2 || idxTypeOk g.ety, 64)]

/-- A list that holds each number below its length once. -/
def isPerm (l : List Nat) : Bool := (List.range l.length).all (fun i => l.contains i)

/-- Encoding checks of the PROJ slot (R178, R79, R82, R83). DEDUCED: an entry of AXES or BETA, or a bit of KMASK, beyond
the rank or m that is not zero is a value of that field that is not allowed, named by the field's lowest bit (R201; log 13). -/
def projBad (p : Parsed) (c : Nat) (o : Opc) : Option Nat :=
  let kind := fld c 0 4
  let e := p.eBytes
  let rank := (p.src0.map (fun g => g.rank)).getD 1
  if o = .permute then
    if kind ≠ 1 then some 0
    else
      match lowReserved c [(4, 12), (34, 478)] with
      | some b => some b
      | none =>
        if isPerm ((List.range rank).map (axis c)) && ((List.range 6).drop rank).all (fun d => axis c d = 0)
        then none else some 16
  else
    match kind with
    | 2 =>
      let m := fld c 8 4
      if m < 6 ∨ 12 < m then some 8
      else
        match lowReserved c [(4, 4), (12, 84), (156, 356)] with
        | some b => some b
        | none =>
          let le := Nat.log2 e
          firstBad [(isPerm ((List.range m).map (beta c)), 96), (((List.range 12).drop m).all (fun j => beta c j = 0), 96),
                    ((List.range le).all (fun j => beta c j = j), 96),
                    (fld c (144 + m) (12 - m) = 0, 144), ((List.range le).all (fun j => !bit c (144 + j)), 144)]
    | 3 =>
      let m := fld c 8 4
      match lowReserved c [(4, 4), (12, 52), (76, 4), (92, 420)] with
      | some b => some b
      | none =>
        let pp := fld c 64 12
        let q := fld c 80 12
        firstBad [(decide (6 ≤ m ∧ m ≤ 12), 8), (decide (pp < 2 ^ m ∧ pp % 2 = 1 ∧ pp % e = 1 % e), 64),
                  (decide (q < 2 ^ m ∧ q % e = 0), 80)]
    | 4 => lowReserved c [(4, 156), (168, 24), (256, 256)]
    | _ => some 0

/-- Encoding checks of DEP (R179): (bit, cell). -/
def depBad (p : Parsed) : Option (Nat × Nat) :=
  match p.dep with
  | none => if fld p.relmask 1 8 = 0 then none else some (128, 0)
  | some _ =>
    ((List.range 8).find? (fun i => bit p.relmask (1 + i) = decide (p.rel i = nullTag))).map
      (fun i => (256 + 32 * i, slotIndex p 6))

/-- ZO within the range of DST's type (Table 05-2), read as that type reads it; a floating-point type has no range of
integers. -/
def zoOk (p : Parsed) (zo : Int) : Bool :=
  match p.dst with
  | some g =>
    let v : Int := if g.ty.signed then zo else (toBits zo 16 : Nat)
    g.ty.fmt.isSome || decide (g.ty.range.1 ≤ v ∧ v ≤ g.ty.range.2)
  | none => true

/-- Whether DST holds unrequantised accumulators. -/
def Parsed.accDst (p : Parsed) : Bool := (p.dst.map (fun g => g.ty = .s48 || g.ty = .fp32)).getD false

/-- Checks shared by TPROD and REQUANT (Table 05-2), fields in rising order. -/
def outParamsBad (p : Parsed) (a : TParams) (fp : Bool) : List (Bool × Nat) :=
  let sh := fld a.oscale 16 6
  let scaleOk := if fp then decide (fld a.oscale 23 8 ≠ 255 ∧ fld a.oscale 0 31 ≠ 0)
    else decide (fld a.oscale 0 16 ≠ 0 ∧ fld a.oscale 22 10 = 0)
  [(decide (a.nrows ≠ 0), 0), (scaleOk, 32), (zoOk p a.zo, 64),
   (decide (a.floor ≤ a.ceil) && (fp || decide (0 ≤ (sh : Int) + a.floor)), 128),
   (fp || decide ((sh : Int) + a.ceil ≤ 63), 136), (!a.adapt || a.stats % 32 = 0, 144)]

/-- Encoding checks of AUX (R117, R118, R188 to R192). -/
def auxBad (p : Parsed) (c : Nat) (o : Opc) : Option Nat :=
  let chk := fun (res : List (Nat × Nat)) (l : List (Bool × Nat)) =>
    match lowReserved c res with
    | some b => some b
    | none => firstBad l
  match o with
  | .tprod =>
    let a := TParams.ofAux c
    chk [(94, 2), (204, 308)]
      (outParamsBad p a a.fp ++
       [(a.worksz = 0 || a.work % 64 = 0, 164), (!a.relaxed || a.fp, 90),
        (decide (b2n a.sheaves + b2n a.rotate + b2n p.spill ≤ 1), if a.sheaves then 89 else 91),
        (!(p.accDst && a.rnd), 92), (!(p.accDst && a.adapt), 93)])
  | .requant =>
    let a := TParams.ofAux c
    chk [(80, 12), (94, 2), (164, 348)]
      (outParamsBad p a ((p.src0.map (fun g => decide (g.ty = .fp32))).getD false) ++
       [(!(p.accDst && a.rnd), 92), (!(p.accDst && a.adapt), 93)])
  | .cbload =>
    let a := CbParams.ofAux c
    chk [(100, 412)]
      [(decide (a.nrows ≠ 0), 0), (decide (a.k % 64 = 0 ∧ 64 ≤ a.k ∧ a.k ≤ 65536), 32),
       (if a.sheaves then decide (a.kf ≠ 0 ∧ a.kf % 1024 = 0) else a.kf = 0, 64), (decide (a.code ≤ 1), 96)]
  | .vload => chk [(16, 496)] [(decide (fld c 11 4 ≠ 0 ∧ fld c 11 4 ≠ 14), 11)]
  | .vstore => chk [(17, 495)] [(decide (fld c 11 4 ≠ 0 ∧ fld c 11 4 ≠ 14), 11)]
  | .vmove => chk [(11, 5), (28, 484)] []
  | .release => chk [(0, 32), (64, 448)] []
  | .gather | .scatter =>
    let r := match p.streamData with
      | some (_, a) => a.rank
      | none => 6
    chk [(192, 320)]
      (if bit p.pres 2 then [] else ((List.range 6).filter (fun d => r ≤ d)).map (fun d => (decide (origin c d = 0), 32 * d)))
  | .pack => chk [(16, 496)] [(decide (fld c 0 16 ≠ 0), 0)]
  | .unpack => chk [(17, 495)] [(decide (fld c 0 16 ≠ 0), 0)]
  | .deliver => chk [(2, 510)] []
  | .collect => chk [(1, 511)] []
  | .route => chk [(10, 502)] [(decide (fld c 8 2 ≠ 3), 8)]
  | .gate => chk [(1, 511)] []
  | .digest => chk [(17, 495)] []
  | .cancel => chk [(13, 19), (64, 448)] [(decide (fld c 0 12 ≠ 0), 0)]
  | .planload => chk [(11, 21), (44, 468)] [(decide (fld c 32 12 ≠ 0), 32)]
  | .seedset => chk [(12, 52), (128, 384)] []
  | _ => none

/-- The slots in order (R200, step 4): (bit, cell). -/
def slotsBad (p : Parsed) (cells : List Cell) (o : Opc) : Option (Nat × Nat) :=
  let at_ := fun i (f : Nat → Option Nat) =>
    match slotCell cells i with
    | none => none
    | some c => (f c).map (fun b => (b, slotIndex p i))
  let grat := fun i => at_ i (fun c => gratBad c i o)
  (grat 0).or ((grat 1).or ((grat 2).or ((grat 3).or ((grat 4).or
    ((at_ 5 (fun c => projBad p c o)).or ((depBad p).or (at_ 7 (fun c => auxBad p c o))))))))

/-- Steps 2 to 4 of R200. -/
def encodingBad (cells : List Cell) (pen : Nat) : Option BadBit :=
  let p := parse cells
  match legendBad p pen with
  | some b => some { bit := b, cell := 0, step := 2 }
  | none =>
    match p.opc with
    | none => none
    | some o =>
      match presenceBad p o pen with
      | some x => some { bit := x.1, cell := x.2, step := 3 }
      | none => (slotsBad p cells o).map (fun x => { bit := x.1, cell := x.2, step := 4 })

/-! ### Shape -/

/-- Shape rules of one graticule (R29, R38, R63, R64). -/
def gratShape (g : Grat) : Bool :=
  g.size.all (fun z => z ≠ 0) && decide (g.count ≤ 2 ^ 48) &&
  (if g.lin then g.w ≥ 8 || g.sz 0 ≤ 1 || g.st 0 = 1
   else decide (2 ≤ g.rank) && g.addr % 64 = 0 &&
     ((List.range g.rank).all (fun d => ((g.blocks[d]?).getD 1) ≤ 1 || g.st d % (g.block.elems : Int) = 0)))

/-- A sub-byte LIN destination in host memory (R39). -/
def hostSubShape (g : Grat) : Bool :=
  g.space || !g.lin || g.w ≥ 8 ||
  (g.suboff = 0 && g.sz 0 * g.w % 8 = 0 &&
    ((List.range g.rank).all (fun d => d = 0 || g.sz d ≤ 1 || (g.st d * (g.w : Int)) % 8 = 0)))

/-- Same ETYPE, RANK and sizes. -/
def sameShape (a b : Grat) : Bool := a.ety = b.ety && a.size = b.size

/-- Whether every tile of `n` elements is one stretch from a multiple of 64 (R81). -/
def tilesOk (g : Grat) (n : Nat) : Bool :=
  (windows n (List.range g.count)).all (fun u => match g.spans u with
    | [x] => x.1 % 64 = 0
    | _ => false)

/-- Anchored graticules of a descriptor that executes on named folds: one fold, and inside its slice (R55, R155). -/
def State.namedShape (s : State) (p : Parsed) (did : Nat) : Bool :=
  let fs := ((s.shares p did).getD []).map Prod.fst
  p.anchors.all (fun g => match fs with
    | [f] => g.slices = [f]
    | _ => false)

/-- The register view (R152, R153). -/
def viewOk (g : Grat) (v : VParams) : Bool :=
  let wr := ((ETy.ofCode v.rtype).map ETy.width).getD 8
  g.lin && g.rank ≤ 2 &&
  (if v.trans then decide (g.sz 0 ≤ v.nreg ∧ g.sz 1 ≤ 64 ∧ g.sz 1 * wr ≤ 512) && g.w ≠ 2 && g.w ≠ 48
   else decide (g.sz 1 ≤ v.nreg ∧ g.sz 0 * wr ≤ 512))

/-- Register numbers of a view (Table 06-3). -/
def regsOk (first nreg : Nat) (acc : Bool) : Bool :=
  decide (1 ≤ nreg ∧ nreg ≤ 32 ∧ first + nreg ≤ (if acc then 16 else 32))

/-- Codebook bytes of an entry set: 16 or 4. -/
def cbEntries (code : Nat) : Nat := if code = 1 then 4 else 16

/-- Offset of the scale area (R121). -/
def scoff (ident : Bool) (ng e : Nat) : Nat := if ident then 64 else 64 + 64 * cdiv (ng * e) 64

/-- Size of a table image (R121). -/
def imageSize (ident : Bool) (ng e rows : Nat) : Nat := scoff ident ng e + 256 * ng * cdiv rows 64

/-- Rows and groups of the image of fold number `i` of `m` (R122): (row0, rows, g0, ng). DESIGN CHOICE (log 68): a fold that
the division leaves with no rows or no sheaves builds an image of none, with ROWS or NG zero; the condition of R119 on
K / Kf is a TPROD's and is not asked of a CBLOAD. -/
def cbPart (a : CbParams) (m i : Nat) : Nat × Nat × Nat × Nat :=
  let q := cdiv a.nrows m
  if a.sheaves then
    let g0 := i * a.kf / 64
    (0, a.nrows, g0, (Nat.min a.k ((i + 1) * a.kf) - i * a.kf) / 64)
  else (i * q, Nat.min q (a.nrows - i * q), 0, a.k / 64)

/-- IDENT as the image header stands on a fold. DESIGN CHOICE (log 78): where a price or the size of a work area turns on
IDENT, the stile reads it at admission from the first executing fold's header, for every fold of the descriptor. -/
def State.identOf (s : State) (p : Parsed) (f : Nat) : Bool :=
  match p.tbl with
  | some g =>
    match s.loc g f (g.addr + 20) with
    | .past k => bit (s.pastByte k).1.toNat 3
    | _ => false
  | none => false

/-- Bytes of one row of codes. -/
def rowBytes (k w : Nat) : Nat := cdiv (k * w) 8

/-- Element bytes of a leaf (R131). -/
def leafBytes (fp : Bool) : Nat := if fp then 4 else 6

/-- The work area is large enough (R131, R143, R144). -/
def workOk (s : State) (p : Parsed) (a : TParams) (t : TLayout) : Bool :=
  let w := (p.src1.map (fun g => g.w)).getD 4
  if a.sheaves then
    decide (leafBytes a.fp * 64 * sheavesOf t.k * t.t * cdiv t.q 64 ≤ a.worksz)
  else if a.rotate then
    let f0 := (t.folds[0]?).getD 0
    decide (t.q * rowBytes t.k w + imageSize (s.identOf p f0) (t.k / 64) (if w = 2 then 4 else 16) t.q ≤ a.worksz)
  else if p.spill then decide (1 ≤ a.worksz / (64 * rowBytes t.k w))
  else true

/-- Shape rules of TPROD (Table 05-1, R118, R119). -/
def tprodShape (s : State) (p : Parsed) : Bool :=
  match p.src0, p.src1, p.dst, p.tbl with
  | some x, some w, some y, some b =>
    let a := TParams.ofAux p.aux
    let k := x.sz 0
    x.lin && (x.ty = .s8 || x.ty = .u8) && x.rank = 2 && (x.sz 0 = 1 || x.st 0 = 1) && x.space && x.loc &&
    w.lin && (w.w = 4 || w.w = 2) && !w.loc && (w.space != p.spill) &&
    y.lin && (if a.rotate then decide (y.size = [a.nrows, x.sz 1, w.sz 2]) else decide (y.size = [a.nrows, x.sz 1])) &&
    (y.ty = .s8 || y.ty = .s16 || (y.ty = .s48 && !a.fp) || (y.ty = .fp32 && a.fp)) && (!y.space || y.loc) &&
    b.lin && b.ty = .u8 && b.rank = 1 && b.space && b.loc && b.beatAligned &&
    decide (k % 64 = 0 ∧ 64 ≤ k ∧ k ≤ 65536) &&
    (match s.tLayout p with
     | none => false
     | some t => workOk s p a t)
  | _, _, _, _ => false

/-- Shape rules of CBLOAD (R122). -/
def cbloadShape (s : State) (p : Parsed) (did : Nat) : Bool :=
  match p.src1, p.dst with
  | some sc, some d =>
    let a := CbParams.ofAux p.aux
    let e := cbEntries a.code
    let ident := p.src0.isNone
    let fs := ((s.shares p did).getD []).map Prod.fst
    (match p.src0 with
     | none => true
     | some c => c.lin && c.ty = .s8 && c.size = [e, a.k / 64]) &&
    sc.lin && sc.ty = .s32 && sc.size = [a.k / 64, a.nrows] &&
    d.lin && d.ty = .u8 && d.rank = 1 && d.space && d.loc && d.beatAligned &&
    ((List.range fs.length).all (fun i =>
      let c := cbPart a fs.length i
      decide (imageSize ident c.2.2.2 e c.2.1 ≤ d.count)))
  | _, _ => false

/-- Shape rules of each opcode. -/
def opShape (s : State) (p : Parsed) (o : Opc) (did : Nat) : Bool :=
  match o, p.src0, p.dst with
  | .copy, some a, some b => decide (a.count = b.count) && a.w = b.w
  | .transpose, some a, some b =>
    a.lin && b.lin && a.ety = b.ety && a.rank = b.rank && decide (2 ≤ a.rank) && b.sz 0 = a.sz 1 && b.sz 1 = a.sz 0 &&
      a.size.drop 2 = b.size.drop 2
  | .permute, some a, some b =>
    a.ety = b.ety && a.rank = b.rank && ((List.range b.rank).all (fun d => b.sz d = a.sz (axis p.pj d)))
  | .shuffle, some a, some b =>
    a.space && b.space && a.lin && b.lin && a.ety = b.ety && (a.w = 8 || a.w = 16 || a.w = 32) && a.count = b.count &&
      (p.bodyClass || (let n := s.shuffleN p
        decide (a.count % n = 0) && tilesOk a n && tilesOk b n))
  | .gather, some a, some b | .scatter, some a, some b =>
    a.ety = b.ety && p.form.isSome &&
      (match p.streamData, p.idx with
       | some (_, d), some x => !d.space || x.space
       | _, _ => true)
  | .convert, some a, some b => a.lin && b.lin && a.size = b.size
  | .pack, some a, some b =>
    (match p.src1 with
     | some c =>
       a.lin && b.lin && c.lin && a.ety = b.ety && c.ety = a.ety && a.size = c.size && a.rank = b.rank &&
         a.sz 0 % fld p.aux 0 16 = 0 && b.sz 0 = 2 * a.sz 0 && a.size.drop 1 = b.size.drop 1
     | none => false)
  | .unpack, some a, some b =>
    a.lin && b.lin && a.ety = b.ety && a.rank = b.rank && a.sz 0 = 2 * b.sz 0 && b.sz 0 % fld p.aux 0 16 = 0 &&
      a.size.drop 1 = b.size.drop 1
  | .tprod, _, _ => tprodShape s p
  | .cbload, _, _ => cbloadShape s p did && s.namedShape p did
  | .requant, some a, some b =>
    a.lin && b.lin && a.space && (a.ty = .s48 || a.ty = .fp32) && (b.ty = .s8 || b.ty = .s16) && a.rank = 2 &&
      a.size = b.size && a.sz 0 = (TParams.ofAux p.aux).nrows && s.namedShape p did &&
      (!(TParams.ofAux p.aux).adapt || decide ((TParams.ofAux p.aux).stats + 32 * a.sz 0 ≤ slice))
  | .deliver, some a, some b => a.lin && decide (1 ≤ b.proj ∧ b.proj ≤ 3) && sameShape a b && s.namedShape p did
  | .collect, some a, some b => decide (a.proj ≤ 3) && b.lin && sameShape a b && s.namedShape p did
  | .vload, some a, _ =>
    let v := VParams.ofAux p.aux
    regsOk v.vr v.nreg p.fmode && viewOk a v && s.namedShape p did
  | .vstore, _, some b =>
    let v := VParams.ofAux p.aux
    let fs := ((s.shares p did).getD []).map Prod.fst
    regsOk v.vr v.nreg p.fmode && viewOk b v && s.namedShape p did && (decide (fs.length ≤ 1) || b.space)
  | .vmove, some a, some b =>
    let v := VParams.ofAux p.aux
    regsOk v.vr v.nreg p.fmode && regsOk v.vrd v.nreg p.fmode &&
      a.lin && b.lin && a.space && b.space && !a.loc && !b.loc && sameShape a b &&
      (match s.singleFold p with
       | some f => a.slices = [f] && b.slices = [v.dfold] && v.dfold ≠ f
       | none => false)
  | .vmove, _, _ =>
    let v := VParams.ofAux p.aux
    regsOk v.vr v.nreg p.fmode && regsOk v.vrd v.nreg p.fmode
  | .release, _, _ => !p.fmode || fld (VParams.ofAux p.aux).rmask 16 16 = 0
  | .route, _, some b =>
    (match p.idx with
     | some x =>
       let e := 2 ^ fld p.aux 8 2
       let r := cdiv (x.count * e) 64
       x.space && decide (x.count * e ≤ 4096) && b.space && b.loc && b.ty = .u8 && b.lin && b.beatAligned &&
         b.count = cdiv (136 * r) 64 * 64 && s.namedShape p did
     | none => false)
  | .digest, some _, _ => true
  | .tally, some a, _ => a.lin && a.ty = .u8 && a.size = [96]
  | .planload, some a, _ => !a.space && a.ty = .u8 && a.rank = 1 && a.lin && a.sz 0 % 64 = 0
  | _, _, _ => o.noFold

/-- The shape rules of R81 that turn on the N of a route slot, made when the scoreboard releases a SHUFFLE of class BODY
and its slots have passed the check of R84. -/
def State.bodyShapeOk (s : State) (p : Parsed) : Bool :=
  !p.bodyClass ||
  (match p.src0, p.dst with
   | some a, some b =>
     let n := s.shuffleN p
     decide (n ≠ 0) && tilesOk a n && tilesOk b n && (s.divideTiles p n).isSome
   | _, _ => false)

/-- The shape checks (R60, step 2; R186, R297). -/
def State.shapeOk (s : State) (p : Parsed) (o : Opc) (did : Nat) : Bool :=
  p.grats.all gratShape && (match p.dst with | some g => hostSubShape g | none => true) &&
  opShape s p o did && (s.shares p did).isSome &&
  !(onesOf p.affinity).any s.shadow &&
  (!p.assured || (s.folds_ p did).all (fun f => (s.pairOf f).isSome))

/-! ### Range -/

/-- Range of one graticule (R41, R42, R43, R46, R297, R341). -/
def State.gratRange (s : State) (g : Grat) : Bool :=
  let f := g.foot
  if !g.space then decide (g.addr < 2 ^ 48 ∧ 0 ≤ f.1 ∧ f.2 < 2 ^ 48)
  else if g.loc then decide (g.addr < slice ∧ 0 ≤ f.1 ∧ f.2 < slice)
  else decide (g.addr < 2 ^ 26 ∧ 0 ≤ f.1 ∧ f.2 < ((s.n * slice : Nat) : Int)) &&
    g.slices.all (fun x => s.present x && !s.shadow x)

/-- LOCAL areas that Polter writes beside DST, as byte intervals (R118, R136). -/
def State.areas (s : State) (p : Parsed) : List (Int × Int) :=
  let a := TParams.ofAux p.aux
  match p.opc with
  | some .tprod =>
    (if a.worksz = 0 then [] else [((a.work : Int), (a.work : Int) + a.worksz - 1)]) ++
    (if a.adapt then [((a.stats : Int), (a.stats : Int) + 32 * ((s.tLayout p).map (fun t => t.q)).getD 0 - 1)] else [])
  | some .requant => if a.adapt then [((a.stats : Int), (a.stats : Int) + 32 * a.nrows - 1)] else []
  | _ => []

/-- A window that reaches outside the data tensor under STRICT (R50, R100). -/
def strictWindow (p : Parsed) : Bool :=
  match p.opc with
  | some .gather | some .scatter =>
    (match p.form, p.streamData with
     | some .window, some (q, a) =>
       p.strict && (List.range a.rank).any (fun d =>
         decide (origin p.aux d < 0 ∨ (a.sz d : Int) < (q.sz d : Int) + origin p.aux d))
     | _, _ => false)
  | _ => false

/-- The range checks (R60, step 3). DESIGN CHOICE (log 77): a VMOVE whose DFOLD names an absent logical fold completes
REFUSED_RANGE, as one at or past n does (R158). -/
def State.rangeOk (s : State) (p : Parsed) (o : Opc) : Bool :=
  p.slotGrats.all (fun x => if portSlot o x.1 then !x.2.space && decide (x.2.addr < 2 ^ 32) else s.gratRange x.2) &&
  (s.areas p).all (fun x => decide (x.2 < slice)) &&
  (o != .vmove || (decide ((VParams.ofAux p.aux).dfold < s.n) && s.present (VParams.ofAux p.aux).dfold &&
    !s.shadow (VParams.ofAux p.aux).dfold)) &&
  !strictWindow p

/-! ### Alias -/

/-- Insert a (stride, size) pair before the first of a larger stride. -/
def insertDim (x : Nat × Nat) : List (Nat × Nat) → List (Nat × Nat)
  | [] => [x]
  | y :: r => if x.1 ≤ y.1 then x :: y :: r else y :: insertDim x r

/-- The walk of the nesting test (R53). -/
def nestWalk : Nat → List (Nat × Nat) → Bool
  | _, [] => true
  | reach, (st, z) :: r => if st < reach + 1 then false else nestWalk (reach + st * (z - 1)) r

/-- The nesting test (R53, R69): true when the destination cannot overlap itself. -/
def Grat.nests (g : Grat) : Bool :=
  let e := if g.lin then 1 else g.block.elems
  let dims := (g.blocks.zip g.stride).filter (fun x => 1 < x.1)
  nestWalk 0 ((dims.map (fun x => (x.2.natAbs / e, x.1))).foldr insertDim [])

/-- Intersection of two intervals [lo, hi]. -/
def meets (x y : Int × Int) : Bool := decide (x.1 ≤ y.2 ∧ y.1 ≤ x.2)

/-- Intersection of two pasture footprints, LOCAL ones standing in every enabled slice (R57). -/
def State.pastMeets (s : State) (a : Int × Int) (aLoc : Bool) (b : Int × Int) (bLoc : Bool) : Bool :=
  if aLoc = bLoc then meets a b
  else
    let l := if aLoc then a else b
    let g := if aLoc then b else a
    (List.range s.n).any (fun f => meets (l.1 + (f * slice : Nat), l.2 + (f * slice : Nat)) g)

/-- Intersection of the footprints of two graticules of one space (R57, R58). -/
def State.gratMeets (s : State) (a b : Grat) : Bool :=
  a.space = b.space && (if a.space then s.pastMeets a.foot a.loc b.foot b.loc else meets a.foot b.foot)

/-- The alias checks (R60, step 4). DESIGN CHOICE (log 64): the DST of a DELIVER is a port offset and no host destination,
so no alias check looks at it; R95 says so of R41 and R46 only. -/
def State.aliasOk (s : State) (p : Parsed) (o : Opc) : Bool :=
  (match p.dst with
   | none => true
   | some d =>
     o = .deliver ||
     ((d.nests || p.ordered || (!d.space && p.v)) &&
      (p.slotGrats.filter (fun x => x.1 ≠ 3 && !portSlot o x.1)).all (fun x => !s.gratMeets d x.2))) &&
  (let ar := s.areas p
   ar.all (fun x => (p.grats.filter (fun g => g.space)).all (fun g => !s.pastMeets x true g.foot g.loc)) &&
   (match ar with
    | [x, y] => !meets x y
    | _ => true))

/-! ### All of them -/

/-- The verdict of the checks of R200 after the brand. -/
inductive Verdict where
  | pass
  | bad (b : BadBit)
  | refuse (st : Status)
  deriving DecidableEq, Repr

/-- Steps 2 to 6 of R200. -/
def State.verdict (s : State) (cells : List Cell) (pen did : Nat) : Verdict :=
  match encodingBad cells pen with
  | some b => .bad b
  | none =>
    let p := parse cells
    match p.opc with
    | none => .bad { bit := 0, cell := 0, step := 2 }
    | some o =>
      if p.strict && !(s.remaps p).isEmpty then .refuse .refusedGrade
      else if !s.shapeOk p o did then .refuse .refusedShape
      else if !s.rangeOk p o then .refuse .refusedRange
      else if !s.aliasOk p o then .refuse .refusedAlias
      else .pass

end Sys2Proof.Machine
end

