-- ==== Sys2Proof/Machine/Price.lean ====
section
/-!
DEFINITION. What a descriptor costs each fold and the outside: fold cycles (Table 03-5, R108, R142, R156, R160, R252 to
R254), external lines, ports and ring links, and the cycles of the units between two points of suspension (R225).
-/
namespace Sys2Proof.Machine

/-- Cost of one executing fold: cycles, host lines read and written, cycles of its units, and the fixed cycles before
the first unit (R225). -/
structure FoldCost where
  fold  : Nat
  cyc   : Nat
  rd    : Nat
  wr    : Nat
  units : List Nat
  fixed : Nat
  deriving DecidableEq, Repr

/-- A ring transfer to be asked for: source fold, destination fold, beats (R250, R252, R253). -/
structure Hop where
  src   : Nat
  dst   : Nat
  beats : Nat
  deriving DecidableEq, Repr

/-! ### Reordering paths -/

/-- Beats of `step` bytes of a block's rows that do not start on a multiple of `step`, on one side (Table 03-5). The
beats of a projected side are those of its aligned blocks. -/
def unalignedBeats (g : Grat) (ls : List Nat) (step : Nat) : Nat :=
  if !g.lin then 0 else
  sumN ((stretches (g.sz 0) (sortN ls)).map (fun x =>
    let lo := (g.spanOf x.1).1
    let hi := (g.spanOf x.2).2
    if lo % step = 0 then 0 else cdiv (hi - lo) step))

/-- Cycles of one shear block. -/
def shearBlock (p : Parsed) (a b : Grat) (u : List Nat) : Nat :=
  let src := u.map (fun l => (p.srcIndex l).2)
  if a.w = 2 then 128
  else
    let st := if a.w = 4 then 32 else 64
    64 + unalignedBeats a src st + unalignedBeats b u st

/-- Beats of a tile's destination, pads included (Table 03-5). -/
def tileBeats (b : Grat) (u : List Nat) : Nat := sumN ((b.spans (sortN u)).map beatsOf)

/-- Cost of a window's source side: bank rows (R106) or lines (R109). -/
def windowCost (g : Grat) (ls : List Nat) : Nat :=
  let spans := ls.map g.spanOf
  if g.space then windowCycles spans else (windowLines spans).length

/-- Host lines of a window's source side. -/
def windowExt (g : Grat) (ls : List Nat) : Nat := if g.space then 0 else (windowLines (ls.map g.spanOf)).length

/-- Source sides of a descriptor. -/
def Parsed.sources (p : Parsed) : List (Nat × Grat) :=
  (match p.src0 with | some g => [(0, g)] | none => []) ++ (match p.src1 with | some g => [(1, g)] | none => [])

/-- The gather-path windows of some elements: those of a DELIVER or COLLECT are cut from its tiles in logical order, the units of
the others are windows (R107). -/
def Parsed.pathWindows (p : Parsed) (u : List Nat) : List (List Nat) :=
  match p.opc, p.dst with
  | some .deliver, some g | some .collect, some g => windows (windowSize g.w) (sortN u)
  | _, _ => [u]

/-- Cost of an element-wise share on the descriptor's path. A COLLECT costs what the mirror DELIVER costs: its drain stands as the
destination and its DST as the source (R195). DESIGN CHOICE (log 65): a window of a PACK on the gather path
costs the sum of what it costs on each of its two sources, at least one cycle for a pasture source; R107 speaks of SRC0
alone. -/
def pathCost (p : Parsed) (f : Nat) (us : List (List Nat)) : FoldCost :=
  let all := us.flatten
  let mirror := decide (p.opc = some .collect)
  let srcs := if mirror then (p.dst.map (fun g => (0, g))).toList else p.sources
  let dst := if mirror then p.src0 else p.dst
  let dside := fun (ls : List Nat) => match p.opc, dst with
    | some .digest, _ => 0
    | _, some g => g.side (sortN ls)
    | _, none => 0
  let sside := fun (ls : List Nat) => sumN (p.sources.map (fun x =>
    if p.opc = some .digest then x.2.side ls else x.2.side (p.srcAt x.1 ls)))
  let rdRuns := sumN (p.sources.map (fun x => if p.opc = some .digest then x.2.ext all else x.2.ext (p.srcAt x.1 all)))
  let wr := match p.opc, p.dst with
    | some .digest, _ => 0
    | some .deliver, _ => 0
    | _, some g => g.ext (sortN all)
    | _, none => 0
  let base : FoldCost := { fold := f, cyc := 0, rd := rdRuns, wr := wr, units := [], fixed := 0 }
  match p.path with
  | .run =>
    { base with cyc := Nat.max (sside all) (dside all), units := us.map (fun u => Nat.max (sside u) (dside u)) }
  | .shear =>
    match p.src0, p.dst with
    | some a, some b =>
      let c := us.map (shearBlock p a b)
      let fill := if a.w = 2 then 8 else 72
      let perUnit := fun (g : Grat) (h : List Nat → List Nat) => sumN (us.map (fun u => g.ext (sortN (h u))))
      { base with cyc := sumN c + fill, units := c, fixed := fill,
                  rd := perUnit a (fun u => u.map (fun l => (p.srcIndex l).2)), wr := perUnit b id }
    | _, _ => base
  | .tile =>
    match p.src0, p.dst with
    | some a, some b =>
      let r := us.map (tileBeats (dst.getD b))
      let fill := match r with | [] => 0 | x :: _ => x + 8
      { base with cyc := fill + sumN r, units := r, fixed := fill,
                  rd := if mirror then 0 else sumN (us.map (fun u => a.ext (sortN u))),
                  wr := if p.opc = some .deliver then 0 else sumN (us.map (fun u => b.ext (sortN u))) }
    | _, _ => base
  | .gather =>
    let at_ := fun (k : Nat) (u : List Nat) => (u.map p.srcIndex).filterMap (fun y => if y.1 = k then some y.2 else none)
    let g := fun u => sumN ((p.pathWindows u).map (fun v => sumN (srcs.map (fun x => windowCost x.2 (at_ x.1 v)))))
    let ws := if p.opc = some .deliver || mirror then p.pathWindows all else us
    let ext := sumN (ws.map (fun v => sumN (srcs.map (fun x => windowExt x.2 (at_ x.1 v)))))
    { base with cyc := Nat.max (sumN (ws.map g)) (dside all) + 8, units := us.map (fun u => Nat.max (g u) (dside u)),
                fixed := 8, rd := if mirror then 0 else ext, wr := if mirror then ext else wr }

/-- Beats of a route body read (Table 03-5). -/
def routeLoad (r : Nat) : Nat := cdiv (136 * r) 64

/-- Cost of a SHUFFLE share. -/
def shuffleCost (p : Parsed) (n f : Nat) (us : List (List Nat)) : FoldCost :=
  let r := cdiv (n * p.eBytes) 64
  let load := if fld p.pj 0 4 = 4 then routeLoad r else 0
  { fold := f, cyc := r + 8 + r * us.length + load, rd := 0, wr := 0, units := us.map (fun _ => r),
    fixed := r + 8 + load }

/-! ### GATHER and SCATTER (R108) -/

/-- Lines of the transactions of an ORDERED window on a host data side (R55, R109): a position, given by its bits [lo, hi),
shares the line of the one before it only where the two are consecutive in order and in address; `e` is the end of the
position before. A position that is dropped (`none`) stands between its neighbours. -/
def orderedLines : Option Nat → List (Option (Nat × Nat)) → List Nat
  | _, [] => []
  | _, none :: r => orderedLines none r
  | e, some x :: r =>
    let ls := linesOf (x.1 / 8, (x.2 - 1) / 8 + 1)
    (if e = some x.1 ∧ x.1 % 512 ≠ 0 then ls.drop 1 else ls) ++ orderedLines (some x.2) r

/-- Bits [lo, hi) of an element. -/
def Grat.bitsAt (g : Grat) (l : Nat) : Nat × Nat := ((g.bitAt l).toNat, (g.bitAt l).toNat + g.w)

/-- Cost of a window's data side and its host lines: (cycles, lines). A dropped position is `none`. -/
def dataCost (p : Parsed) (a : Grat) (hits : List (Option Nat)) : Nat × Nat :=
  let spans := hits.reduceOption.map a.spanOf
  if a.space then (windowCycles spans, 0)
  else
    let n := if p.ordered && p.opc = some .scatter then (orderedLines none (hits.map (fun h => h.map a.bitsAt))).length
      else (windowLines spans).length
    let k := if p.opc = some .scatter && a.w < 8 then n + (windowLines spans).length else n
    (k, k)

/-- Cost of a GATHER or SCATTER share. -/
def State.gsCost (s : State) (p : Parsed) (did f : Nat) (us : List (List Nat)) : FoldCost :=
  match p.streamData with
  | none => { fold := f, cyc := 0, rd := 0, wr := 0, units := [], fixed := 0 }
  | some (q, a) =>
    let all := us.flatten
    let sc := p.opc = some .scatter
    let ixs := fun ls => sortN (ls.flatMap p.idxAt)
    let iside := fun ls => match p.idx with | some x => x.side (ixs ls) | none => 0
    let iext := fun ls => match p.idx with | some x => x.ext (ixs ls) | none => 0
    let dat := fun u =>
      let hs := u.map (s.hit p f did)
      dataCost p a (hs.map (fun h => if sc && h.bad then none else some h.at_))
    let g := sumN (us.map (fun u => (dat u).1))
    let gl := sumN (us.map (fun u => (dat u).2))
    let i := iside all
    let chk := if p.strict then 2 else 1
    let qs := q.side all
    let sub := if sc && a.w < 8 then sumN (us.map (fun u =>
      (windowLines (((u.map (s.hit p f did)).filter (fun h => !h.bad)).map (fun h => a.spanOf h.at_))).length)) else 0
    let cyc := if sc then Nat.max (i + qs) g + 8 else Nat.max (i + g) qs + 8
    { fold := f, cyc := cyc + (if p.strict then i else 0),
      rd := chk * iext all + (if sc then q.ext all + (if a.space then 0 else sub) else gl),
      wr := if sc then gl - (if a.space then 0 else sub) else q.ext all,
      units := us.map (fun u =>
        if sc then Nat.max (iside u + q.side u) (dat u).1 else Nat.max (iside u + (dat u).1) (q.side u)),
      fixed := 8 }

/-! ### Table product (R142, R144, R252 to R254) -/

/-- Codes of sheaf `sh` of K. -/
def sheafCodes (k sh : Nat) : Nat := Nat.min k (1024 * (sh + 1)) - 1024 * sh

/-- unit(b, s) of R142. -/
def unitCycles (w ecb b k sh : Nat) : Nat :=
  let ks := sheafCodes k sh
  let gs := ks / 64
  let c := if w = 2 then 4 else 2
  let kappa := if w = 2 then 256 else 128
  Nat.max (b * ks / c) (64 * cdiv ks kappa + 4 * gs + b * gs + cdiv (gs * ecb) 64)

/-- Columns of each batch. -/
def batchCols (t : Nat) : List Nat := (List.range (cdiv t 4)).map (fun u => Nat.min 4 (t - 4 * u))

/-- Cycles of one commit unit over sheaves [lo, hi). -/
def commitCycles (w ecb b k lo hi : Nat) : Nat := sumN ((rangeFrom lo (hi - lo)).map (unitCycles w ecb b k))

/-- DST elements that fold number `i` writes, in rising logical order. -/
def tElems (y : Grat) (t : TLayout) (rotate : Bool) (i : Nat) : List Nat :=
  if rotate then (List.range (t.n * t.t)).map (fun l => l + t.n * t.t * i)
  else (List.range t.t).flatMap (fun c => (rangeFrom (i * t.q) (t.nrows i)).map (fun r => r + y.sz 0 * c))

/-- SRC1 elements of rows [lo, hi) of a row-major share. -/
def codeElems (k q f lo hi : Nat) : List Nat :=
  (rangeFrom lo (hi - lo)).flatMap (fun r => (List.range k).map (fun c => c + k * (r + q * f)))

/-- Rows of one SPILL chunk (R144). -/
def chunkRows (a : TParams) (k w : Nat) : Nat := 64 * (a.worksz / (64 * rowBytes k w))

/-- Costs of every executing fold of a TPROD. DESIGN CHOICE (log 78): E_cb of R142 is that of the first executing fold's
header as it stands at admission. -/
def State.tprodCost (s : State) (p : Parsed) (t : TLayout) : List FoldCost :=
  match p.src1, p.dst with
  | some w, some y =>
    let a := TParams.ofAux p.aux
    let ident := s.identOf p ((t.folds[0]?).getD 0)
    let ecb := if ident then 0 else if w.w = 2 then 4 else 16
    let one := fun (i : Nat) =>
      let f := (t.folds[i]?).getD 0
      let els := tElems y t a.rotate i
      let h := y.ext els
      let spillLines := if p.spill then
          (let c := Nat.max 1 (chunkRows a t.k w.w)
           sumN ((List.range (cdiv (t.nrows i) c)).map (fun j =>
             w.lines (codeElems t.k t.q i (j * c) (Nat.min (t.nrows i) ((j + 1) * c))))))
        else 0
      if a.sheaves then
        let sh := t.sheaves i
        let us := (batchCols t.t).flatMap (fun b => (List.range (cdiv t.n 64)).map (fun _ =>
          commitCycles w.w ecb b t.k sh.1 sh.2))
        { fold := f, cyc := sumN us + leafBytes a.fp * sheavesOf t.k * t.t * cdiv t.q 64 + h, rd := 0, wr := h,
          units := us, fixed := 80 : FoldCost }
      else
        let rows := if a.rotate then t.q else t.nrows i
        let us := (batchCols t.t).flatMap (fun b => (List.range (cdiv rows 64)).map (fun _ =>
          commitCycles w.w ecb b t.k 0 (sheavesOf t.k)))
        { fold := f, cyc := sumN us + h + spillLines, rd := spillLines, wr := h, units := us, fixed := 80 }
    let raw := (List.range t.m).map one
    if a.sheaves then
      let lw := leafBytes a.fp
      let pairs := (List.range t.m).flatMap (fun i => ((List.range t.m).filter (fun j => j ≠ i)).map (fun j => (i, j)))
      let rg := sumN (pairs.map (fun x =>
        let sh := t.sheaves x.1
        let d := (((t.folds[x.2]?).getD 0) + s.n - ((t.folds[x.1]?).getD 0)) % s.n
        cdiv (lw * (sh.2 - sh.1) * t.t * t.nrows x.2) 64 + 8 * Nat.min d (s.n - d)))
      let top := maxN (raw.map (fun c => c.cyc)) + rg
      raw.map (fun c => { c with cyc := top })
    else if a.rotate then
      let bmax := cdiv (t.q * rowBytes t.k w.w + 256 * (t.k / 64) * cdiv t.q 64) 64
      let hw := if t.m = s.n then 1 else Nat.min (t.m - 1) (s.n - t.m + 1)
      let top := maxN (raw.map (fun c => t.m * (c.cyc - c.wr) + (t.m - 1) * (bmax + 8 * hw) + c.wr))
      raw.map (fun c => { c with cyc := top })
    else raw
  | _, _ => []

/-! ### The other opcodes -/

/-- Ring distance and direction of a move (R159): hops, and whether it goes upward. -/
def ringHops (n a b : Nat) : Nat × Bool :=
  let d := (b + n - a) % n
  if d ≤ n - d then (d, true) else (n - d, false)

/-- Link directions of a path: 2f upward from f, 2f + 1 downward from f. -/
def ringLinks (n a b : Nat) : List Nat :=
  let h := ringHops n a b
  (List.range h.1).map (fun i => if h.2 then 2 * ((a + i) % n) else 2 * ((a + n - i % n) % n) + 1)

/-- Cost of a memory-side view of VLOAD and VSTORE (R156). -/
def viewCost (g : Grat) (v : VParams) (load : Bool) : Nat :=
  let c := g.side (List.range g.count) * (if g.w = 4 && v.trans then 2 else 1)
  if v.trans then c + v.nreg + 8 else if load then Nat.max c v.nreg + 8 else Nat.max v.nreg c + 8

/-- Costs of every fold that takes part, the twins' 8 cycles of R298 included. Folds that run in step take the largest
(R254). -/
def State.costs (s : State) (p : Parsed) (did : Nat) : List FoldCost :=
  let sh : List Share := (s.shares p did).getD []
  let whole := fun (f c rd wr : Nat) => ({ fold := f, cyc := c, rd := rd, wr := wr, units := [c], fixed := 0 } : FoldCost)
  let raw : List FoldCost := match p.opc with
    | none => []
    | some o =>
      match o, p.src0, p.dst with
      | .copy, _, _ | .transpose, _, _ | .permute, _, _ | .convert, _, _ | .pack, _, _ | .unpack, _, _ | .digest, _, _
      | .deliver, _, _ => sh.map (fun x => pathCost p x.1 x.2)
      | .requant, some a, some b =>
        sh.map (fun x => ({ fold := x.1, cyc := Nat.max (a.side (List.range a.count)) (b.side (List.range b.count)),
                            rd := a.ext (List.range a.count), wr := b.ext (List.range b.count),
                            units := x.2.map (fun u => Nat.max (a.side u) (b.side u)), fixed := 0 } : FoldCost))
      | .collect, some a, some b =>
        sh.map (fun x =>
          if a.lin then
            let c := Nat.max (a.side (List.range a.count)) (b.side (List.range b.count))
            { fold := x.1, cyc := c, rd := 0, wr := b.ext (List.range b.count),
              units := x.2.map (fun u => b.side u), fixed := 0 }
          else pathCost p x.1 x.2)
      | .shuffle, _, _ => sh.map (fun x => shuffleCost p (Nat.max 1 (s.shuffleN p)) x.1 x.2)
      | .gather, _, _ | .scatter, _, _ => sh.map (fun x => s.gsCost p did x.1 x.2)
      | .tprod, _, _ => (match s.tLayout p with
        | some t => (s.tprodCost p t).filter (fun c => sh.any (fun x => x.1 = c.fold))
        | none => [])
      | .cbload, _, some d =>
        let a := CbParams.ofAux p.aux
        let m := sh.length
        ((List.range m).zip sh).map (fun x =>
          let c := cbPart a m x.1
          let e := cbEntries a.code
          let scEls := (List.range c.2.1).flatMap (fun r => (List.range c.2.2.2).map (fun g =>
            c.2.2.1 + g + (a.k / 64) * (c.1 + r)))
          let cbEls := (List.range (c.2.2.2 * e)).map (fun i => i + e * c.2.2.1)
          let src := (match p.src1 with | some g => (g.side (sortN scEls), g.ext (sortN scEls)) | none => (0, 0))
          let cb := (match p.src0 with | some g => (g.side cbEls, g.ext cbEls) | none => (0, 0))
          let size := imageSize p.src0.isNone c.2.2.2 e c.2.1
          let dst := cdiv (size - 64) 64
          { fold := x.2.1, cyc := Nat.max (src.1 + cb.1) dst + 64, rd := src.2 + cb.2, wr := 0,
            units := (cutUnits d (rangeFrom 64 (size - 64))).map (fun u => Nat.max 64 u.length), fixed := 0 })
      | .vload, some a, _ =>
        let v := VParams.ofAux p.aux
        let c := viewCost a v true
        sh.map (fun x =>
          { fold := x.1, cyc := c, rd := a.ext (List.range a.count), wr := 0,
            units := if v.trans then [c] else (List.range (a.sz 1)).map (fun r => a.side (rangeFrom (r * a.sz 0) (a.sz 0))),
            fixed := if v.trans then 0 else 8 })
      | .vstore, _, some b =>
        sh.map (fun x => whole x.1 (viewCost b (VParams.ofAux p.aux) false) 0 (b.ext (List.range b.count)))
      | .vmove, some a, some b =>
        let v := VParams.ofAux p.aux
        (match sh with
         | x :: _ =>
           let c := Nat.max (a.side (List.range a.count)) (b.side (List.range b.count)) + 8 * (ringHops s.n x.1 v.dfold).1
           let us := x.2.map (fun u => Nat.max (a.side u) (b.side u))
           [x.1, v.dfold].map (fun f => { fold := f, cyc := c, rd := 0, wr := 0, units := us, fixed := 0 })
         | [] => [])
      | .vmove, _, _ =>
        let v := VParams.ofAux p.aux
        (match sh with
         | x :: _ =>
           let c := v.nreg + 8 * (ringHops s.n x.1 v.dfold).1
           if v.dfold = x.1 then [whole x.1 c 0 0] else [whole x.1 c 0 0, whole v.dfold c 0 0]
         | [] => [])
      | .release, _, _ => sh.map (fun x => whole x.1 1 0 0)
      | .route, _, some _ =>
        (match p.idx with
         | some g =>
           let r := cdiv (g.count * 2 ^ fld p.aux 8 2) 64
           let c := tileBeats g (List.range g.count) + 384 * r + 64 + routeLoad r
           sh.map (fun x => whole x.1 c 0 0)
         | none => [])
      | _, _, _ => []
  let paired := raw.map (fun c => if (s.pairOf c.fold).isSome then { c with cyc := c.cyc + 8 } else c)
  let a := TParams.ofAux p.aux
  if p.opc = some .tprod && (a.sheaves || a.rotate) then
    paired.map (fun c => { c with cyc := maxN (paired.map (fun x => x.cyc)) })
  else paired

/-- Ring transfers of a descriptor in the order it numbers them (R160, R250, R252, R253). -/
def State.hops (s : State) (p : Parsed) (did : Nat) : List Hop :=
  match p.opc with
  | some .vmove =>
    (match (s.shares p did).getD [] with
     | x :: _ =>
       let v := VParams.ofAux p.aux
       let beats := match p.src0, p.dst with
         | some a, some b => Nat.max (a.side (List.range a.count)) (b.side (List.range b.count))
         | _, _ => v.nreg
       if v.dfold = x.1 then [] else [{ src := x.1, dst := v.dfold, beats := beats }]
     | [] => [])
  | some .tprod =>
    (match s.tLayout p, p.src1 with
     | some t, some w =>
       let a := TParams.ofAux p.aux
       let lw := leafBytes a.fp
       let fo := fun i => (t.folds[i]?).getD 0
       if a.sheaves then
         (List.range t.m).flatMap (fun i => ((List.range t.m).filter (fun j => j ≠ i)).map (fun j =>
           { src := fo i, dst := fo j, beats := cdiv (lw * ((t.sheaves i).2 - (t.sheaves i).1) * t.t * t.nrows j) 64 }))
       else if a.rotate then
         let b := cdiv (t.q * rowBytes t.k w.w + 256 * (t.k / 64) * cdiv t.q 64) 64
         (List.range t.m).flatMap (fun i => (List.range (t.m - 1)).map (fun _ =>
           { src := fo i, dst := fo ((i + t.m - 1) % t.m), beats := b }))
       else []
     | _, _ => [])
  | _ => []

/-- Link directions that a descriptor's transfers use (R251). -/
def State.links (s : State) (p : Parsed) (did : Nat) : List Nat :=
  sortN ((s.hops p did).flatMap (fun h => ringLinks s.n h.src h.dst))

/-- NE and NR ports a descriptor uses: 0 to 3 and 4 to 5. -/
def Parsed.ports (p : Parsed) : List Nat :=
  match p.opc with
  | some .deliver => [fld p.aux 0 2]
  | some .collect => [4 + fld p.aux 0 1]
  | _ => []

/-- The cycles between two points of suspension that R225 bounds: the longest unit, the first with what precedes it. -/
def FoldCost.longest (c : FoldCost) : Nat :=
  match c.units with
  | [] => 0
  | u :: r => Nat.max (u + c.fixed) (maxN r)

end Sys2Proof.Machine
end

