-- ==== Sys2Proof/Machine/Ops.lean ====
section
/-!
DEFINITION. The operations that the commands share: time, event records, descriptors by serial number, which of them a
fold may start, voided bounds, SN transactions and Polter's own accesses, and how a descriptor ends.
-/
namespace Sys2Proof.Machine

/-! ### Time -/

/-- One tick passes on an empty queue (assumption log 1). -/
def idleTick (s : State) : State := { s with tick := s.tick + 1 }

/-- Out of block reset (R371). -/
def State.up (s : State) : Bool := !s.pins.rstLow

/-- Out of block reset and not stopped by a fatal fault (R335). -/
def State.live (s : State) : Bool := s.up && s.pins.fatalN

/-! ### Event records (R343, R344) -/

/-- Places taken in the internal queue of events: records not yet written, those whose write met a fault included. -/
def State.evtUsed (s : State) : Nat :=
  s.evt.queue.length + (s.own.filter (fun o => o.kind = .event && o.waiting)).length

/-- Records that the event ring can still take: none before ENABLE or while a write of a record meets a fault. -/
def State.evtFree (s : State) : Nat :=
  if s.cfg.enable && !s.evt.faulted then 2 ^ fld s.cfg.evtBase.toNat 0 5 - (s.evt.issue - s.cfg.evtCons).toNat else 0

/-- Queue an event record, or drop it where 64 already wait beyond those that the ring can take. -/
def State.event (s : State) (code : Nat) (fold : Option Nat) (tag brand pen info : Nat) : State :=
  if s.evtUsed < s.evtFree + 64 then
    { s with evt := { s.evt with queue := s.evt.queue ++
        [{ code := BitVec.ofNat 16 code, fold := fold, tag := BitVec.ofNat 32 tag, brand := BitVec.ofNat 16 brand,
           pen := BitVec.ofNat 12 pen, tick := s.tick, info := BitVec.ofNat 64 info }] } }
  else
    (({ s with evt := { s.evt with dropped := s.evt.dropped + 1 } } : State).bumpFault 11 1).count 12 1

/-- An event that concerns no descriptor, fold or pen. -/
def State.note (s : State) (code info : Nat) : State := s.event code none nullTag 0 0 info

/-- An event that concerns a pen alone. -/
def State.noteP (s : State) (code pen info : Nat) : State := s.event code none nullTag 0 pen info

/-- An event that concerns a logical fold alone. -/
def State.noteF (s : State) (code f info : Nat) : State := s.event code (some f) nullTag 0 0 info

/-- An event that concerns a descriptor and perhaps a fold. -/
def State.noteD (s : State) (code : Nat) (f : Option Nat) (d : Desc) (info : Nat) : State :=
  s.event code f d.p.tag d.p.brand d.pen info

/-! ### Descriptors by serial number -/

/-- The descriptor of a serial number. -/
def State.desc? (s : State) (did : Nat) : Option Desc := s.descs.find? (fun d => d.did = did)

/-- Change one descriptor. -/
def State.modDesc (s : State) (did : Nat) (f : Desc → Desc) : State :=
  { s with descs := s.descs.map (fun d => if d.did = did then f d else d) }

/-- Forget one descriptor. -/
def State.dropDesc (s : State) (did : Nat) : State :=
  { s with descs := s.descs.filter (fun d => d.did ≠ did) }

/-- Admitted and not yet ended. -/
def Desc.active (d : Desc) : Bool := d.stage = .admitted

/-- It has a bound that stands: no event has voided it (R223, R228). -/
def Desc.bounded (d : Desc) : Bool := d.bound.isSome && !d.void

/-- Among the bounded descriptors that a fold starts in admission order: it has a bound, and no page fault has made it run as
background (R224, R226). -/
def Desc.ranked (d : Desc) : Bool := d.bound.isSome && !d.backgr

/-- Preemptible (R225). -/
def Desc.preemptible (d : Desc) : Bool := d.bound.isNone || !d.p.pinned

/-- Every releaser it waits on has completed (R181, R388). -/
def State.waitsMet (s : State) (d : Desc) : Bool := d.waitOn.all (fun w => (s.desc? w).isNone)

/-- Units committed on fold `f`. -/
def Desc.at_ (d : Desc) (f : Nat) : Nat := ((d.prog.find? (fun x => x.1 = f)).map Prod.snd).getD 0

/-- Set a progress entry. -/
def setProg : Progress → Nat → Nat → Progress
  | [], f, n => [(f, n)]
  | (g, m) :: r, f, n => if g = f then (f, n) :: r else (g, m) :: setProg r f n

/-- The entry of a progress list. -/
def progAt (pts : Progress) (f : Nat) : Nat := ((pts.find? (fun x => x.1 = f)).map Prod.snd).getD 0

/-- Whether the descriptor has ended on fold `f` (R241): its share there is committed and no line waits to be written again.
A fold without a share of its own, VMOVE's DFOLD, is done with the others. -/
def Desc.doneOn (d : Desc) (f : Nat) : Bool :=
  let through := fun (x : Nat × List (List Nat)) => decide (x.2.length ≤ d.at_ x.1)
  let mine := d.work.filter (fun x => decide (x.1 = f))
  d.begun && d.stalled.all (fun x => decide (x.fold ≠ f)) && (if mine.isEmpty then d.work else mine).all through

/-- Units of fold `f`'s share. -/
def Desc.unitsOn (d : Desc) (f : Nat) : Nat := ((d.work.find? (fun x => x.1 = f)).map (fun x => x.2.length)).getD 0

/-! ### Bounds (R226, R228) -/

/-- Admitted and not completed: its record has not been issued (R388). -/
def Desc.open_ (d : Desc) : Bool := d.admitted

/-- Void a descriptor's bound. -/
def State.voidBound (s : State) (did : Nat) : State :=
  s.modDesc did (fun d => if d.open_ && d.bound.isSome then { d with void := true } else d)

/-- Void the bounds of the descriptors queued behind step `st` on some folds: those that are not PINNED, which run as
background from then on (R226), or all (R276). -/
def State.voidBehind (s : State) (st : Nat) (fs : List Nat) (all : Bool) : State :=
  { s with descs := s.descs.map (fun d =>
      if d.active && d.bound.isSome && decide (st < d.step) && d.folds.any (fun f => fs.contains f) &&
        (all || !d.p.pinned) then { d with void := true, backgr := d.backgr || !all } else d) }

/-! ### Starting (R163, R181, R224) -/

/-- Whether a bounded descriptor admitted earlier has not ended on fold `f` (R224). -/
def State.heldBack (s : State) (d : Desc) (f : Nat) : Bool :=
  s.descs.any (fun e => e.active && e.ranked && e.folds.contains f && !e.doneOn f && decide (e.step < d.step))

/-- Whether a bounded descriptor is ready on fold `f` (Table 08-11). -/
def State.boundedReady (s : State) (f : Nat) : Bool :=
  s.descs.any (fun e => e.active && e.ranked && e.folds.contains f && !e.doneOn f && s.waitsMet e && !s.heldBack e f)

/-- Vector registers that a descriptor names on fold `f`. -/
def Desc.regs (d : Desc) (f : Nat) : List Nat :=
  let p := d.p
  let v := VParams.ofAux p.aux
  match p.opc with
  | some .vload | some .vstore => rangeFrom v.vr v.nreg
  | some .vmove => if p.pres.testBit 0 then [] else
      (if v.dfold = f then rangeFrom v.vrd v.nreg else []) ++ rangeFrom v.vr v.nreg
  | some .release => (List.range 32).filter (fun i => bit v.rmask i)
  | some .tprod => rangeFrom 16 16
  | _ => []

/-- Registers that are LOADING on a fold. -/
def Fold.loading (fo : Fold) : List Nat :=
  (List.range 32).filter (fun i => (sget VReg.blank fo.vregs i).st = .loading)

/-- Whether a suspended descriptor may resume: its fault is serviced, or its preemptor has completed (R163). -/
def State.suspReady (s : State) (u : Susp) : Bool :=
  u.ready || (match u.why with
    | .preempt e => (s.desc? e).isNone
    | _ => false)

/-- Whether a descriptor may join a suspended one on a fold: it names the fold's file mode and none of its LOADING registers
(R163). -/
def Fold.joins (fo : Fold) (d : Desc) (f : Nat) : Bool :=
  (d.p.fmode == fo.acc) && (d.regs f).all (fun r => !(fo.loading.contains r))

/-- Whether a fold that holds a suspended descriptor may start `d` beside it (R163). -/
def State.admits (s : State) (fo : Fold) (d : Desc) (f : Nat) : Bool :=
  match fo.susp with
  | none => true
  | some u => !s.suspReady u && fo.joins d f

/-- Whether fold `f` has taken the descriptor up: it runs it, holds it suspended, or has done its share. -/
def State.on (s : State) (d : Desc) (f : Nat) : Bool :=
  let mine := fun (u : Susp) => decide (u.did = d.did)
  d.begun && (d.doneOn f || decide ((s.lfold f).running = some d.did) || (s.lfold f).susp.any mine)

/-- Whether fold `f` holds `d` back beside a suspended descriptor that it may not join (R228). -/
def State.barred (s : State) (d : Desc) (f : Nat) : Bool :=
  d.active && d.bounded && !s.on d f && s.waitsMet d && !s.heldBack d f && (s.lfold f).susp.isSome && !(s.lfold f).joins d f

/-- Void the bounds of what is held back so. -/
def State.voidBarred (s : State) : State :=
  { s with descs := s.descs.map (fun d => if d.folds.any (s.barred d) then { d with void := true } else d) }

/-- Whether some fold holds the descriptor suspended. -/
def State.suspends (s : State) (d : Desc) : Bool :=
  d.folds.any (fun f => (s.lfold f).susp.any (fun u => decide (u.did = d.did)))

/-- Whether fold `f` may start the descriptor now (R224). -/
def State.foldStart (s : State) (d : Desc) (f : Nat) : Bool :=
  let fo := s.lfold f
  s.present f && bit s.ready.fold.toNat f && fo.running.isNone && s.admits fo d f && !s.on d f &&
  (if d.ranked then !s.heldBack d f else !s.boundedReady f)

/-- Whether a descriptor starts on all its folds at once: a move between two folds, and a descriptor whose start checks read
the vector file, which are collected before any fold begins (R151). DESIGN CHOICE (log 71): one that names ACC counts among
them. -/
def Desc.together (d : Desc) : Bool := d.p.fmode || d.isOpc .vstore || d.isOpc .vmove

/-- Whether the descriptor may start now, on all its folds or on one of them (R181, R224, R241). -/
def State.canStart (s : State) (d : Desc) : Bool :=
  s.live && !s.pause.req && d.active && !d.begun && s.waitsMet d &&
  (d.folds.isEmpty || (if d.together then d.folds.all (s.foldStart d) else d.folds.any (s.foldStart d)))

/-- A descriptor that a pause suspends: preemptible, and on no fold that holds a suspended one already, beside which it runs
to its end first (R163, R289). -/
def State.pausable (s : State) (d : Desc) : Bool := d.preemptible && d.folds.all (fun f => (s.lfold f).susp.isNone)

/-- Whether fold `f` runs the descriptor now. -/
def State.runsOn (s : State) (d : Desc) (f : Nat) : Bool :=
  s.live && !s.pause.paused && d.active && d.begun && s.present f && decide ((s.lfold f).running = some d.did) &&
  (s.lfold f).inPlace.isNone && !(s.pause.req && s.pausable d)

/-- Whether some fold runs the descriptor now, or may start it. -/
def State.canRun (s : State) (d : Desc) : Bool :=
  s.live && (if d.begun then d.folds.isEmpty || d.folds.any (fun f => s.runsOn d f || s.foldStart d f) else s.canStart d)

/-! ### SN transactions (R247, R258, R259, R268) -/

/-- Port of a line (R247). -/
def snPort (line : Nat) : Nat := (line % 8) ^^^ (line / 8 % 8) ^^^ (line / 64 % 8)

/-- Transaction IDs of a port that may be assigned. -/
def State.freeIds (s : State) (port : Nat) : List Nat :=
  (List.range 1024).filter (fun i =>
    !(s.ports.txns.any (fun t => decide (t.port = port ∧ t.id = i))) && !(s.ports.quar.contains (port, i)) &&
    !(s.descs.any (fun d => decide (d.ordPort = some port ∧ d.ordId = some i))))

/-- Assign an ID of a ready port, chosen freely among the free ones (R258). -/
def State.takeId (s : State) (port : Nat) : Option (Nat × State) :=
  let l := s.freeIds port
  if !(bit s.ready.sn.toNat port) || l.isEmpty then none
  else
    let c := s.choose l.length
    some (l.getD c.1 0, c.2)

/-- The transaction that a response with this ID answers: of the writes that share one, the first that does not wait to be sent
again (R258, R266). -/
def State.txn? (s : State) (port id : Nat) : Option Txn :=
  s.ports.txns.find? (fun t => decide (t.port = port ∧ t.id = id) && t.retryAt.isNone)

/-- A request leaves on its port, whose clock gate opens (R262, R264). -/
def State.emit (s : State) (r : SnReq) : State :=
  { s with snOut := s.snOut ++ [r]
           ports := { s.ports with gateSn := s.ports.gateSn &&& ~~~(BitVec.ofNat 8 (2 ^ r.port)),
                                   last := sset 0 s.ports.last r.port s.tick } }

/-- Issue a transaction. -/
def State.issueTxn (s : State) (owner : Owner) (unit : Nat) (r : SnReq) : State :=
  let t := s.emit r
  { t with ports := { t.ports with
      txns := t.ports.txns ++ [{ port := r.port, id := r.id, write := r.write, line := r.line, owner := owner, unit := unit,
                                 req := r, qos := r.qos, aged := 0, arrival := s.tick,
                                 limit := s.tick + s.cfg.snTmo.toNat, retryAt := none }] } }

/-- A byte of a line with its strobe. -/
def beatByte (x : BitVec 512 × BitVec 64) (k : Nat) (b : Byte) : BitVec 512 × BitVec 64 :=
  ((x.1 &&& ~~~(BitVec.ofNat 512 (0xFF <<< (8 * k)))) ||| (b.setWidth 512 <<< (8 * k)), x.2 ||| BitVec.ofNat 64 (2 ^ k))

/-- WD_DATA and WD_STRB of the bytes that go into a line (Table 10-3). -/
def lineBeat (line : Nat) (w : List (Nat × Byte)) : BitVec 512 × BitVec 64 :=
  (w.filter (fun x => decide (x.1 / 64 = line))).foldl (fun acc x => beatByte acc (x.1 % 64) x.2) (0, 0)

/-- One of Polter's own requests: QoS 15 (Table 09-2), no hint, never poisoned (R267). -/
def State.ownReq (s : State) (port id : Nat) (write msg : Bool) (line : Nat) (w : List (Nat × Byte)) : SnReq :=
  let b := if write then lineBeat line w else (0, 0)
  { port := port, write := write, id := id, line := line, sid := s.cfg.smmuSid, qos := 15, noalloc := false, msg := msg,
    data := b.1, strb := b.2, poison := false }

/-- A response or a timeout takes a transaction. -/
def State.dropTxn (s : State) (t : Txn) : State :=
  { s with ports := { s.ports with txns := s.ports.txns.erase t, last := sset 0 s.ports.last t.port s.tick } }

/-! ### Polter's own accesses (R242, R277) -/

/-- Issue one transaction a line for the access `key`, with the bytes `w` where it writes; `none` where a port has no ID to
give. -/
def State.issueLines (s : State) (key : Nat) (write msg : Bool) (w : List (Nat × Byte)) : List Nat → Option State
  | [] => some s
  | l :: r =>
    let port := if msg then 0 else snPort l
    match s.takeId port with
    | none => none
    | some x => (x.2.issueTxn (.own key) 0 (s.ownReq port x.1 write msg l w)).issueLines key write msg w r

/-- Lines that Polter reads or writes on its own account inside one step: each is issued and answered there, and none keeps an
ID. A line whose port has no ID to give is taken once it has. -/
def State.passOwn (s : State) (write : Bool) (w : List (Nat × Byte)) (lines : List Nat) : State :=
  lines.foldl (fun t l => match t.takeId (snPort l) with
    | none => t
    | some x => x.2.emit (t.ownReq (snPort l) x.1 write false l w)) s

/-- Lines of some bytes, each once. -/
def linesOfBytes (w : List (Nat × Byte)) : List Nat := sortN (w.map (fun x => x.1 / 64))

/-- Start an access of Polter's own; `none` where it must wait for an ID. -/
def State.issueOwn (s : State) (kind : OwnKind) (write : Bool) (lines : List Nat) (writes : List (Nat × Byte)) :
    Option State :=
  let key := s.nextKey
  let msg := match kind with
    | .message _ _ => true
    | _ => false
  (({ s with nextKey := key + 1, own := s.own ++ [{ key := key, kind := kind, writes := writes, waiting := false }] }
    : State).issueLines key write msg writes lines)

/-- Forget an access and its transactions. -/
def State.dropOwn (s : State) (key : Nat) : State :=
  { s with own := s.own.filter (fun o => o.key ≠ key),
           ports := { s.ports with txns := s.ports.txns.filter (fun t => t.owner ≠ .own key) } }

/-- The bytes `l` from address `a`. -/
def bytesAt (a : Nat) (l : List Byte) : List (Nat × Byte) := ((List.range l.length).zip l).map (fun x => (a + x.1, x.2))

/-- Store bytes in host memory; a line written whole loses its poison (R267). -/
def State.storeBytes (s : State) (w : List (Nat × Byte)) : State :=
  s.putAll (w.map (fun x => { host := true, key := x.1, mask := 0xFF, val := x.2.toNat, rad := false }))

/-! ### Covered sequence (R282, R283, R337) -/

/-- Place of an element in the covered sequence. -/
def Cov.before (a b : Cov) : Bool := decide (a.part < b.part ∨ (a.part = b.part ∧ a.key ≤ b.key))

/-- Insert an element into a sorted sequence, after its equals. -/
def insertCov (a : Cov) : List Cov → List Cov
  | [] => [a]
  | b :: r => if b.before a then b :: insertCov a r else a :: b :: r

/-- The covered sequence in order. -/
def sortCov (l : List Cov) : List Cov := l.foldl (fun acc a => insertCov a acc) []

/-- Bytes of one part: elements packed from the first (R31, R283). -/
def packBytes (l : List Cov) : List Byte :=
  let w := (l.head?.map (fun c => c.w)).getD 8
  if 8 ≤ w then l.flatMap (fun c => leBytes c.val (w / 8))
  else
    let per := 8 / w
    (windows per l).map (fun g => BitVec.ofNat 8 (sumN (((List.range g.length).zip g).map (fun x =>
      place x.2.val (x.1 * w) w))))

/-- Bytes of a sorted covered sequence, part by part. -/
def covBytes (l : List Cov) : List Byte :=
  (dedup (l.map (fun c => c.part))).flatMap (fun k => packBytes (l.filter (fun c => c.part = k)))

/-- What fold `f` has counted. -/
def Desc.acc (d : Desc) (f : Nat) : FoldAcc := (d.accs.find? (fun a => decide (a.fold = f))).getD (FoldAcc.fresh f)

/-- Change what a fold has counted. -/
def Desc.modAcc (d : Desc) (f : Nat) (g : FoldAcc → FoldAcc) : Desc :=
  { d with accs := d.accs.filter (fun a => decide (a.fold ≠ f)) ++ [g (d.acc f)] }

/-- Clamped accesses of the descriptor (R49). -/
def Desc.clamps (d : Desc) : Nat := sumN (d.accs.map (fun a => a.clamps))

/-- Positions that a raddled index dropped (R114). -/
def Desc.dropped (d : Desc) : List Nat := d.accs.flatMap (fun a => a.drops)

/-- SAT (R154). -/
def Desc.sat (d : Desc) : Bool := d.accs.any (fun a => a.sat)

/-- A constant channel was used (R139). -/
def Desc.constCh (d : Desc) : Bool := d.accs.any (fun a => a.constCh)

/-- Raddled elements and dropped positions of one fold: RADDLES of its SROW (R164). -/
def Desc.raddlesOn (d : Desc) (f : Nat) : Nat :=
  (((d.cov.filter (fun c => c.rad && decide (c.fold = f))).length : Int) + ((d.acc f).drops.length : Int) + (d.acc f).xrad).toNat

/-- Elements and dropped positions that hold a raddle (R337). -/
def Desc.raddles (d : Desc) : Nat :=
  (((d.cov.filter (fun c => c.rad)).length : Int) + (d.dropped.length : Int) + (d.accs.foldl (fun n a => n + a.xrad) 0)).toNat

/-- The DIGEST of the covered sequence (R283), with what context images changed in the folds' partials (R290). -/
def Desc.pd (d : Desc) : BitVec 64 :=
  pd64With (d.accs.foldl (fun n a => n ^^^ a.xdig.toNat) 0) (covBytes (sortCov d.cov))

/-! ### Ending -/

/-- Whether the descriptor arms the gate. -/
def Desc.armsGate (d : Desc) : Bool := d.isOpc .gate && d.p.arms

/-- GATE_ARM_OUT follows the arming GATEs that have not ended (R293, R294). -/
def State.setArm (s : State) : State :=
  { s with pins := { s.pins with gateArm := s.descs.any (fun d => d.active && d.armsGate) } }

/-- A fold lets go of a descriptor: running or suspended, with its landing lines and read batches (R256). A write batch
stays until its last response. -/
def Fold.leave (did tick : Nat) (fo : Fold) : Fold :=
  let mine : Option Susp → Bool := fun x => match x with
    | some u => decide (u.did = did)
    | none => false
  { fo with running := if fo.running = some did then none else fo.running,
            susp := if mine fo.susp then none else fo.susp,
            inPlace := if mine fo.inPlace then none else fo.inPlace,
            srow := if mine fo.susp then Srow.blank else fo.srow,
            latches := if fo.running = some did then Latches.clear else fo.latches,
            landing := fo.landing.filter (fun l => l.did ≠ did),
            batches := fo.batches.filter (fun b => b.did ≠ did || (b.write && decide (0 < b.open_))),
            egress := fo.egress.filter (fun x => x.1 ≠ did),
            strikes := fo.strikes.filter (fun x => x.1 ≠ did),
            lastTick := if fo.running = some did || mine fo.susp then tick else fo.lastTick }

/-- Some registers become EMPTY. -/
def Fold.empty (rs : List Nat) (fo : Fold) : Fold :=
  { fo with vregs := sfilter (fun i => !(rs.contains i)) fo.vregs }

/-- Every fold lets go of a descriptor. -/
def State.leaveAll (s : State) (did : Nat) : State :=
  { s with folds := smap Fold.blank (Fold.leave did s.tick) s.folds }

/-- Change the record of a logical fold and, where it is the primary of an active pair, of its shadow (R297). -/
def State.modPair (s : State) (f : Nat) (g : Fold → Fold) : State :=
  let t := s.modL f g
  match s.pairOf f with
  | some x => t.modL x.2.shd.toNat g
  | none => t

/-- Wake the folds that a descriptor runs on or moves over the ring (R376). -/
def State.wake (s : State) (fs : List Nat) : State :=
  fs.foldl (fun t f => t.modPair f (fun fo => { fo with logicOn := true, lastTick := t.tick })) s

/-- What a VLOAD that ends before it commits leaves: its LOADING registers EMPTY (R166). -/
def State.dropLoads (s : State) (d : Desc) : State :=
  if d.isOpc .vload && d.begun then
    let v := VParams.ofAux d.p.aux
    d.folds.foldl (fun t f => t.modPair f (fun fo =>
      fo.empty ((rangeFrom v.vr v.nreg).filter (fun r => fo.loading.contains r)))) s
  else s

/-- What a ROUTE that ends after it wrote its body on a fold, or RADDLED by another fold's input, leaves: its slot invalid
there (R91). -/
def State.dropRoutes (s : State) (d : Desc) : State :=
  d.install.foldl (fun t x => t.modPair x.1 (fun fo =>
    { fo with route := sset RouteEntry.blank fo.route (fld d.p.aux 0 8) RouteEntry.blank })) s

/-- Units that the descriptor has committed where fold `f` works for it: on the fold itself, or, for VMOVE's DFOLD, on the source
fold. -/
def Desc.cameTo (d : Desc) (f : Nat) : Nat :=
  if d.work.any (fun x => decide (x.1 = f)) then d.at_ f else maxN (d.work.map (fun x => d.at_ x.1))

/-- Whether a unit rerun or a twin retry came out clean: the unit that was struck has been committed (R333, R338), on a fold that
holds the descriptor or on one that has done with it. -/
def State.cleanRerun (s : State) (d : Desc) : Bool :=
  d.folds.any (fun f => (s.lfold f).strikes.any (fun x => decide (x.1 = d.did ∧ x.2 < d.cameTo f)))

/-- What the egress buffers of a descriptor's folds hold for it (R127). -/
def State.heldOf (s : State) (d : Desc) : List Piece :=
  d.folds.flatMap (fun f => ((s.lfold f).egress.filter (fun x => decide (x.1 = d.did))).map Prod.snd)

/-- The lines that the folds of a descriptor still hold are written when it stops (R127). -/
def State.flushHeld (s : State) (d : Desc) : State := s.putAll (mergePieces (keepPieces d.derr (s.heldOf d)))

/-- Place of an ending status among events that reach a descriptor together (R338). -/
def Status.rank : Status → Nat
  | .foldLost => 0
  | .twinMismatch => 1
  | .xlatFault => 2
  | .portTimeout => 3
  | .cancelled => 4
  | _ => 5

/-- An ending event reaches a descriptor that has ended and whose record is not yet made. One that ended by an event of the same
tick takes the status that stands first in R338. DESIGN CHOICE (log 74): the events of one tick count as those of one SCLK
cycle. -/
def State.endAgain (s : State) (d : Desc) (st : Status) : State :=
  if d.stage = .ended && d.admitted && !d.tried && decide (d.tDone = s.tick ∧ st.rank < d.status.rank ∧ d.status.rank < 5) then
    s.modDesc d.did (fun e => { e with status := st })
  else s

/-- A descriptor ends with a status that it does not reach by finishing (R231, R256, R338). -/
def State.endEarly (s : State) (did : Nat) (st : Status) : State :=
  match s.desc? did with
  | none => s
  | some d =>
    if !d.active then s.endAgain d st
    else
      let s0 := if s.suspends d then s.voidBarred else s
      let s1 := (((s0.flushHeld d).dropLoads d).dropRoutes d).leaveAll did
      let s2 := s1.modDesc did (fun e =>
        { e with stage := .ended, status := st, digest := 0, noted := s.cleanRerun d, tDone := s.tick, sent := [], stalled := [] })
      ({ s2 with xfers := s2.xfers.filter (fun x => x.did ≠ did || x.until_.isSome),
                 waiting := s2.waiting.filter (fun w => w.did ≠ did) } : State).setArm

/-- A descriptor that has done all its work (R283, R338). -/
def State.finish (s : State) (did : Nat) : State :=
  match s.desc? did with
  | none => s
  | some d =>
    let dg := match d.p.opc with
      | some o => if o.noDigest then 0#64 else d.pd
      | none => 0#64
    let st := endStatus (d.raddles + b2n d.marked) (s.cleanRerun d)
    let s0 := if st = .raddled then s.dropRoutes d else s
    let s1 := s0.leaveAll did
    let s2 := s1.modDesc did (fun e =>
      { e with stage := .ended, status := st, noted := s.cleanRerun d,
               digest := dg, tDone := s.tick })
    ({ s2 with xfers := s2.xfers.filter (fun x => x.did ≠ did || x.until_.any (fun u => decide (s.tick < u))),
               waiting := s2.waiting.filter (fun w => w.did ≠ did) } : State).setArm

end Sys2Proof.Machine
end

