-- ==== Sys2Proof/Machine/Ledger.lean ====
section
/-!
DEFINITION. The tally book's operations (chapter 12): the MRAM arrays, epoch records, seals, counter slots, the checks of
the late mount, and the frames of an export.
-/
namespace Sys2Proof.Machine

/-! ### MRAM (R260, R300, R301) -/

/-- Bytes of an array. -/
def Mram.read (m : Mram) (perm : Bool) (off n : Nat) : List Byte :=
  (List.range n).map (fun i => sget 0 (if perm then m.seals else m.ring) (off + i))

/-- Whether a 32-byte word of an area holds an uncorrectable error. -/
def Mram.bad (m : Mram) (perm : Bool) (off n : Nat) : Bool :=
  (rangeFrom (off / 32) (cdiv (off % 32 + n) 32)).any (fun w => (if perm then m.badSeals else m.badRing).contains w)

/-- Write bytes; a word that is written is sound again. -/
def Mram.write (m : Mram) (perm : Bool) (off : Nat) (l : List Byte) : Mram :=
  let ws := rangeFrom (off / 32) (cdiv (off % 32 + l.length) 32)
  if perm then
    { m with seals := ssetAll 0 m.seals (bytesAt off l), badSeals := m.badSeals.filter (fun w => !(ws.contains w)) }
  else { m with ring := ssetAll 0 m.ring (bytesAt off l), badRing := m.badRing.filter (fun w => !(ws.contains w)) }

/-- A locked sequence of the Shepherd: one beat a word, at most 16 (R260). A longer one loses its lock after the 16th
beat, and its event says so. -/
def State.lockedWrite (s : State) (perm : Bool) (off : Nat) (l : List Byte) : State :=
  let t : State := { s with mram := s.mram.write perm off l }
  if 16 < cdiv l.length 32 then t.note 0x020E 1 else t

/-! ### Markers and slots -/

/-- A commit marker (Tables 12-3 and 12-8). -/
def marker (seq magic : Nat) (body : List Byte) : List Byte :=
  leBytes seq 4 ++ leBytes (crc32 body) 4 ++ leBytes magic 4 ++ List.replicate 20 0

/-- Magic of an epoch record. -/
def epochMagic : Nat := 0x7A11E90C

/-- Magic of a seal. -/
def sealMagic : Nat := 0x7A115EA1

/-- Slots of the epoch ring. -/
def ringSlots : Nat := 262144

/-- Slots of the permanent region. -/
def sealSlots : Nat := 2730

/-- Body bytes of a slot. -/
def bodyLen (perm : Bool) : Nat := if perm then 352 else 224

/-- Slot bytes. -/
def slotLen (perm : Bool) : Nat := if perm then 384 else 256

/-- Body of a slot as stored. -/
def Mram.body (m : Mram) (perm : Bool) (i : Nat) : List Byte := m.read perm (slotLen perm * i) (bodyLen perm)

/-- The validity test of R304, in its epoch and its seal form. -/
def Mram.valid (m : Mram) (perm : Bool) (i : Nat) : Bool :=
  let off := slotLen perm * i
  let mk := off + bodyLen perm
  leNat (m.read perm (mk + 8) 4) = (if perm then sealMagic else epochMagic) &&
  m.read perm mk 4 = m.read perm off 4 &&
  leNat (m.read perm (mk + 4) 4) = crc32 (m.body perm i) && !m.bad perm off (slotLen perm)

/-- A number at byte `o` of a slot. -/
def Mram.field (m : Mram) (perm : Bool) (i o n : Nat) : Nat := leNat (m.read perm (slotLen perm * i + o) n)

/-- Ring slot of an epoch (R302). -/
def epochSlot (seq : Nat) : Nat := seq % ringSlots

/-- Whether the ring holds the record of epoch `k`, valid. -/
def Mram.holds (m : Mram) (k : Nat) : Bool := m.valid false (epochSlot k) && m.field false (epochSlot k) 0 8 = k

/-- Chain hash of the record of epoch `k` (R308). -/
def Mram.chain (m : Mram) (k : Nat) : BitVec 256 := sha256n (m.body false (epochSlot k))

/-- Leaf of the record of epoch `k`, as a seal uses it (R308). -/
def Mram.leaf (m : Mram) (k : Nat) : BitVec 256 := sha256n (0x00#8 :: m.body false (epochSlot k))

/-- A counter slot (Table 12-9). -/
def counterSlot (gen seq resv mount : Nat) : List Byte :=
  let b := leBytes gen 8 ++ leBytes seq 8 ++ leBytes resv 8 ++ leBytes mount 4 ++ List.replicate 28 0 ++
    leBytes 0x7A11C0DE 4
  b ++ leBytes (crc32 b) 4

/-- Offset of counter slot `j`. -/
def counterOff (j : Nat) : Nat := 0x100000 + 64 * j

/-- A 64-byte record of the seal array with its magic and CRC-32 of bytes 0 to 59. -/
def Mram.sound (m : Mram) (off magicAt magic : Nat) : Bool :=
  leNat (m.read true (off + magicAt) 4) = magic &&
  leNat (m.read true (off + 60) 4) = crc32 (m.read true off 60) && !m.bad true off 64

/-- Valid counter slots (R314). -/
def Mram.counters (m : Mram) : List Nat := (List.range 64).filter (fun j => m.sound (counterOff j) 56 0x7A11C0DE)

/-- GEN of a counter slot. -/
def Mram.gen (m : Mram) (j : Nat) : Nat := leNat (m.read true (counterOff j) 8)

/-- The current slot: the valid one with the largest GEN (R314). -/
def Mram.current (m : Mram) : Option Nat :=
  let g := maxN (m.counters.map m.gen)
  m.counters.find? (fun j => m.gen j = g)

/-- The format record is valid (R301). -/
def Mram.formatOk (m : Mram) : Bool := m.sound 0x101000 0 0x7A110F0A && leNat (m.read true 0x101004 4) = 1

/-- Seal slots that have been written, up to the highest (R313). -/
def Mram.usedSeals (m : Mram) : Nat := maxN ((m.seals.filter (fun x => decide (x.1 < 384 * sealSlots))).map (fun x => x.1 / 384 + 1))

/-- SEALFULL as a mount finds it: as the record of the last epoch says, or, where it is lost, whether any slot is left (R313). -/
def Mram.wasFull (m : Mram) (last : Nat) : Bool :=
  if m.holds last then bit (m.field false (epochSlot last) 52 4) 8 else decide (sealSlots ≤ m.usedSeals)

/-- The latest valid seal, 0 where there is none. -/
def Mram.lastSeal (m : Mram) : Nat := maxN (((List.range sealSlots).filter (fun k => m.valid true k)).map (· + 1))

/-! ### Counter slots and the reservation (R314, R315) -/

/-- Write the next counter slot with RESV 2^20 above STEP. The reservation takes effect as the write completes. -/
def State.putSlot (s : State) (seqOpen resv mount : Nat) : State :=
  let g := s.tally.gen + 1
  let t := s.lockedWrite true (counterOff (g % 64)) (counterSlot g seqOpen resv mount)
  { t with tally := { t.tally with gen := g, resv := resv } }

/-- The epoch that a slot names as open. -/
def State.seqOpen (s : State) : Nat := (s.tally.epoch.map (fun e => e.seq)).getD s.tally.seq

/-- A refresh under way finishes (R315). -/
def State.finishRefresh (s : State) : State :=
  match s.tally.refresh with
  | none => s
  | some r =>
    let t := s.putSlot s.seqOpen r s.tally.mount.toNat
    { t with tally := { t.tally with refresh := none } }

/-! ### Epochs (R302, R303, R310) -/

/-- Open an epoch at tick `t`. -/
def State.openEpoch (s : State) (t seq : Nat) (prev : BitVec 256) (mounted lost brk warn : Bool) (breakSeq : Nat) : State :=
  let e : Epoch :=
    { seq := seq, stepLo := s.stile.step.toNat, opened := t, epochS := s.cfg.epochS.toNat, prev := prev,
      mountedF := mounted, lost := lost, brk := brk, therm3 := decide (s.therm.lvl = 3),
      pause := s.pause.req || s.pause.paused || s.pause.busy, unverified := false, warnrec := warn,
      faults := List.replicate 12 0, bounds := 0, snaps := 0, nmv := 0, leaves := [],
      breakSeq := BitVec.ofNat 64 breakSeq }
  { s with tally := { s.tally with seq := seq, epoch := some e } }

/-- Change the open epoch. -/
def State.modEpoch (s : State) (f : Epoch → Epoch) : State :=
  { s with tally := { s.tally with epoch := s.tally.epoch.map f } }

/-- Bytes 0 to 191 of the record of an epoch that closes at tick `t` (Table 12-3). -/
def State.epochHead (s : State) (e : Epoch) (t : Nat) (cut : Bool) : List Byte :=
  let flags := b2n cut + 2 * b2n e.mountedF + 4 * b2n e.lost + 8 * b2n e.brk + 16 * b2n e.therm3 + 32 * b2n e.pause +
    64 * b2n e.unverified + 128 * b2n e.warnrec + 256 * b2n s.tally.sealFull
  leBytes e.seq 8 ++ leBytes e.stepLo 8 ++ leBytes s.stile.step.toNat 8 ++ leBytes s.tally.resv 8 ++
  leBytes (t - e.opened) 5 ++ List.replicate 3 0 ++ leBytes s.tally.mount.toNat 4 ++ leBytes e.leaves.length 4 ++
  leBytes e.nmv 4 ++ leBytes flags 4 ++ leBytes (treeRoot e.leaves).toNat 32 ++ leBytes e.prev.toNat 32 ++
  e.faults.flatMap (fun n => leBytes n 4) ++ leBytes e.bounds 4 ++ leBytes e.snaps 4 ++ leBytes s.period.inForce 4 ++
  leBytes s.period.misses 1 ++ leBytes (b2n s.period.freeRun + 2 * b2n s.cfg.bellEn) 1 ++ List.replicate 2 0 ++
  leBytes e.breakSeq.toNat 8

/-- Body of an epoch record (R303, R311). -/
def State.epochBody (s : State) (e : Epoch) (t : Nat) (cut : Bool) : List Byte :=
  let h := s.epochHead e t cut
  h ++ hmac (s.tally.key.getD 0) h

/-- STATE becomes CUT, and PLT_READY.TALLY falls with it (R319, R350). -/
def State.enterCut (s : State) : State :=
  { s with tally := { s.tally with st := .cut }, ready := { s.ready with tally := false } }

/-- A commit under way writes its marker, then its counter slot where it has one (R316), and its ticks add to the seal's
(R312). -/
def State.finishCommit (s : State) : State :=
  match s.tally.commit with
  | none => s
  | some c =>
    let s1 := s.lockedWrite false (256 * epochSlot c.seq + 224) c.marker
    let s2 : State := { s1 with tally := { s1.tally with commit := none, sealTicks := s1.tally.sealTicks + c.tlen } }
    if c.slot then s2.finishRefresh.putSlot s.seqOpen (s.stile.step.toNat + 2 ^ 20) s.tally.mount.toNat
    else if s2.tally.stop = .cut ∨ s2.tally.stop = .fatal then s2.enterCut
    else s2

/-- Close the open epoch at tick `t`: its record's body is written, its marker not yet (R316). -/
def State.closeEpoch (s : State) (t : Nat) (cut : Bool) : State :=
  let s0 := s.finishCommit
  match s0.tally.epoch with
  | none => s0
  | some e0 =>
    let e := { e0 with unverified := e0.unverified || (cut && decide (s0.tally.st = .verifying)) }
    let b := s0.epochBody e t cut
    let s1 := s0.lockedWrite false (256 * epochSlot e.seq) b
    let s2 : State := { s1 with tally := { s1.tally with
      epoch := none, commit := some { seq := e.seq, marker := marker e.seq epochMagic b, tlen := t - e.opened, slot := !cut, closed := e0 } } }
    if cut then s2 else s2.openEpoch t (e.seq + 1) (sha256n b) false false false false 0

/-- Whether the open epoch closes at the boundary at tick `t` (R302). -/
def State.epochDue (s : State) (t : Nat) : Bool :=
  match s.tally.epoch with
  | none => false
  | some e => decide (e.opened + e.epochS * 93750000 ≤ t) && decide (s.tally.stop = .no)

/-- Close the epoch where it is due at the boundary at tick `t`. -/
def State.closeIfDue (s : State) (t : Nat) : State := if s.epochDue t then s.closeEpoch t false else s

/-! ### Abandoned runs and cuts (R307, R317 to R319, R323) -/

/-- Two sorted lists of layers: the second's value stands where a layer is in both. -/
def mergeLayers (old new : List Layer) : List Layer :=
  old.filter (fun l => !(new.any (fun n => n.layer = l.layer))) ++ new

/-- The run that a record had closed is open again, with every layer recorded. -/
def State.reopenRun (s : State) (r : RunRec) : State :=
  let pn := sget Pen.blank s.pens r.pen
  let back := { pn with layers := mergeLayers r.layers pn.layers, stepOpen := r.stepOpen, stoch := r.stoch ++ pn.stoch,
                        mv := r.mvs ++ pn.mv }
  { s with pens := sset Pen.blank s.pens r.pen back }

/-- A cut abandons every TALLY that has not completed (R307): their records go, and their runs stay
open. -/
def State.abandonLeaves (s : State) : State :=
  let s1 := s.tally.waiting.reverse.foldl State.reopenRun s
  { s1 with tally := { s1.tally with waiting := [] } }

/-- The bytes of one export frame (R323, R324). -/
def State.exportFrame (s : State) (region : Bool) (i : Nat) : List Byte :=
  let m := s.mram
  let b := m.body region i
  let macAt := if region then 320 else 192
  let mac := m.read region (slotLen region * i + macAt) 32
  let link :=
    if region then
      decide (0 < i) && m.valid true (i - 1) && m.read true (slotLen true * i + 128) 32 = sha256 (m.body true (i - 1))
    else
      let j := (i + ringSlots - 1) % ringSlots
      m.valid false j && m.read false (slotLen false * i + 88) 32 = sha256 (m.body false j)
  let ok := m.valid region i
  let macOk := s.tally.key.isSome && mac = hmac (s.tally.key.getD 0) (b.take macAt)
  let v := b2n ok + 2 * b2n macOk + 4 * b2n link + 8 * b2n (m.bad region (slotLen region * i) (slotLen region))
  m.read region (slotLen region * i) (slotLen region) ++ (BitVec.ofNat 8 v :: List.replicate 31 0) ++ sha256 b

/-- Slot of frame `j` of an export. -/
def Export.slotAt (x : Export) (j : Nat) : Nat := if x.region then x.first + j else (x.first + j) % ringSlots

/-- Store bytes in host memory by writes of the Shepherd's, of QoS 15 (Table 09-2). -/
def State.sendBytes (s : State) (a : Nat) (l : List Byte) : State :=
  (s.passOwn true (bytesAt a l) (linesOfBytes (bytesAt a l))).putHost a l

/-- Write the first `n` frames of an export. -/
def State.putFrames (s : State) (x : Export) (n : Nat) : State :=
  (List.range n).foldl (fun t j =>
    t.sendBytes (x.addr + (slotLen x.region + 64) * j) (s.exportFrame x.region (x.slotAt j))) s

/-- A cut stops an export where it stands: some first frames have been written. -/
def State.stopExport (s : State) : State :=
  match s.tally.export_ with
  | none => s
  | some x =>
    let c := s.choose (x.count + 1)
    let t := c.2.putFrames x c.1
    { t with tally := { t.tally with export_ := none } }

/-- A close in the tick of a warning is undone: the closing epoch is the one that is cut, and none opens (Table 12-16). -/
def State.undoClose (s : State) : State :=
  match s.tally.commit, s.tally.epoch with
  | some c, some e =>
    if c.slot && decide (e.opened = s.tick) then
      { s with tally := { s.tally with epoch := some c.closed, commit := none, seq := c.seq } }
    else s
  | _, _ => s

/-- A cut (R317): admission and folding stop, the export stops, a commit or refresh under way finishes, and the open
epoch closes with CUT = 1. During the early mount there is no epoch to cut (R326). -/
def State.cutNow (s : State) (why : StopWhy) : State :=
  let s1 : State := { s with tally := { s.tally with stop := why } }
  let s2 := s1.abandonLeaves.stopExport
  let s3 := if why = .warn then s2.undoClose else s2
  (s3.finishCommit.finishRefresh).closeEpoch s.tick true

/-! ### Seals (R312, R313) -/

/-- Sum of a field over the records of epochs `a` to `b`. -/
def Mram.sumField (m : Mram) (a b o n : Nat) : Nat :=
  sumN ((rangeFrom a (b + 1 - a)).map (fun k => m.field false (epochSlot k) o n))

/-- Bytes 0 to 319 of a seal (Table 12-8). -/
def State.sealHead (s : State) (sseq a b : Nat) : List Byte :=
  let m := s.mram
  let ks := rangeFrom a (b + 1 - a)
  leBytes sseq 8 ++ leBytes a 8 ++ leBytes b 8 ++ leBytes (m.field false (epochSlot a) 8 8) 8 ++
  leBytes (m.field false (epochSlot b) 16 8) 8 ++ leBytes (m.sumField a b 32 5) 8 ++ leBytes s.tally.mount.toNat 4 ++
  leBytes (sumN (ks.map (fun k => fld (m.field false (epochSlot k) 52 4) 1 1))) 4 ++ leBytes (m.sumField a b 44 4) 4 ++
  leBytes (m.sumField a b 48 4) 4 ++ leBytes (treeRoot (ks.map m.leaf)).toNat 32 ++ leBytes (m.chain b).toNat 32 ++
  (if sseq = 1 ∨ !m.valid true (sseq - 2) then List.replicate 32 0 else sha256 (m.body true (sseq - 2))) ++
  (List.range 12).flatMap (fun i => leBytes (Nat.min 0xFFFFFFFF (m.sumField a b (120 + 4 * i) 4)) 4) ++
  List.replicate 112 0

/-- Commit the seal that covers epochs up to `b` in the first slot never written, or set SEALFULL where none is left. -/
def State.putSeal (s : State) (b : Nat) : State :=
  let last := s.mram.usedSeals
  if sealSlots ≤ last then
    let t : State := { s with tally := { s.tally with sealTicks := 0, sealFull := true } }
    if s.tally.sealFull then t else t.note 0x0407 0
  else
    let h := s.sealHead (last + 1) s.tally.sealFirst b
    let body := h ++ hmac (s.tally.key.getD 0) h
    let s1 := s.lockedWrite true (384 * last) body
    let s2 := s1.lockedWrite true (384 * last + 352) (marker (last + 1) sealMagic body)
    { s2 with tally := { s2.tally with sealTicks := 0, sealFirst := b + 1 } }

/-! ### Mount (R320, R321) -/

/-- The epoch chain (R321, step 1): first failure going down from `k`, `n` records. -/
def Mram.chainBreak (m : Mram) : Nat → Nat → Option Nat
  | _, 0 => none
  | k, n + 1 =>
    if m.holds k && BitVec.ofNat 256 (m.field false (epochSlot k) 88 32) = m.chain (k - 1) then m.chainBreak (k - 1) n
    else some k

/-- The epoch MACs (R321, step 2): first failure going down from `k`, `n` records. -/
def Mram.macBreak (m : Mram) (key : BitVec 256) : Nat → Nat → Option Nat
  | _, 0 => none
  | k, n + 1 =>
    let b := m.body false (epochSlot k)
    if b.drop 192 = hmac key (b.take 192) then m.macBreak key (k - 1) n else some k

/-- The seal chain (R321, step 3): first failure going down from seal `k`. -/
def Mram.sealBreak (m : Mram) (key : BitVec 256) : Nat → Option Nat
  | 0 => none
  | k + 1 =>
    let b := m.body true k
    let prev := if k = 0 then List.replicate 32 0#8 else sha256 (m.body true (k - 1))
    if m.valid true k && m.read true (384 * k + 128) 32 = prev && b.drop 320 = hmac key (b.take 320) then
      m.sealBreak key k
    else some (k + 1)

/-- BREAKSEQ of the late mount's first failing check, `none` where every check passes; `new` is the epoch that the mount
opened. -/
def Mram.lateBreak (m : Mram) (key : BitVec 256) (new : Nat) : Option Nat :=
  let lo := Nat.max 2 (new - (ringSlots - 1))
  match m.chainBreak (new - 1) (new - lo) with
  | some k => some k
  | none =>
    let last := m.lastSeal
    let e := if last = 0 then 0 else m.field true (last - 1) 16 8
    let from_ := Nat.max (Nat.max (e + 1) (new - 8640)) (Nat.max 1 (new - ringSlots))
    match m.macBreak key (new - 1) (new - from_) with
    | some k => some k
    | none => (m.sealBreak key last).map (fun k => 2 ^ 63 + k)

/-- What the late mount rebuilds (R321): the first epoch after the latest seal and the ticks since. -/
def State.rebuildSeal (s : State) (new : Nat) : State :=
  let last := s.mram.lastSeal
  let a := if last = 0 then 1 else s.mram.field true (last - 1) 16 8 + 1
  { s with tally := { s.tally with
      sealFirst := a, sealTicks := sumN (((rangeFrom a (new - a)).filter s.mram.holds).map (fun k =>
        s.mram.field false (epochSlot k) 32 5)) } }

end Sys2Proof.Machine
end

