-- ==== Sys2Proof/Machine/Route.lean ====
section
/-!
DEFINITION. Route bodies: the Beneš network of the beat permuter (R74, R75), the colouring and the route words of ROUTE
(R88, R89), the layout of a body (R90) and the permutation that a stored body performs (R85).
-/
namespace Sys2Proof.Machine

/-! ### The network (R74) -/

/-- Lane bit on which stage `st` acts. -/
def stageBit (st : Nat) : Nat := if st ≤ 5 then 5 - st else st - 5

/-- Switch of a stage on lane bit `b` that holds lane `x`. -/
def switchOf (b x : Nat) : Nat := (x >>> (b + 1)) <<< b + x % 2 ^ b

/-- Lane that holds, before the stages `n − 1` down to 0, the byte that leaves them on lane `x`. -/
def netBack (word : Nat) : Nat → Nat → Nat
  | 0, x => x
  | n + 1, x =>
    let b := stageBit n
    netBack word n (if bit word (32 * n + switchOf b x) then x ^^^ 2 ^ b else x)

/-- Input lane of the byte that a network with route word `word` puts on output lane `x`. -/
def netSource (word x : Nat) : Nat := netBack word 11 x

/-! ### Route words (R89) -/

/-- First lane below 64 that holds `v` in a list. -/
def laneOf (cur : List Nat) (v : Nat) : Nat := cur.idxOf v

/-- The loop of R89 from lane `i`. -/
def sideLoop (cur : List Nat) (b : Nat) : Nat → Nat → List (Option Nat) → List (Option Nat)
  | 0, _, side => side
  | n + 1, i, side =>
    let j := i ^^^ 2 ^ b
    let s1 := setNth (setNth side i (some 0)) j (some 1)
    let k := laneOf cur ((cur.getD j 0) ^^^ 2 ^ b)
    if (s1.getD k none).isSome then s1 else sideLoop cur b n k s1

/-- The sides of one level. -/
def sides (cur : List Nat) (b : Nat) : List (Option Nat) :=
  (List.range 64).foldl (fun side i => if (side.getD i none).isNone then sideLoop cur b 64 i side else side)
    (List.replicate 64 none)

/-- `x` with its bit `b` set to `v`. -/
def withBit (x b v : Nat) : Nat := (x - place (fld x b 1) b 1) + place v b 1

/-- Bits and next permutation of one level of R89. -/
def routeLevel (cur : List Nat) (level : Nat) : Nat × List Nat :=
  let b := 5 - level
  let sd := (sides cur b).map (fun x => x.getD 0)
  let bits := (List.range 64).map (fun i =>
    let c := cur.getD i 0
    let one := sd.getD i 0 = 1
    (if !bit i b && one then 2 ^ (32 * level + switchOf b i) else 0) +
      (if !bit c b && one then 2 ^ (32 * (10 - level) + switchOf b c) else 0))
  let next := (List.range 64).foldl (fun nx i =>
    let v := sd.getD i 0
    setNth nx (withBit i b v) (withBit (cur.getD i 0) b v)) (List.replicate 64 0)
  (sumN bits, next)

/-- Levels 0 to 4. -/
def routeLevels : Nat → Nat → List Nat → Nat × List Nat
  | 0, _, cur => (0, cur)
  | n + 1, level, cur =>
    let x := routeLevel cur level
    let y := routeLevels n (level + 1) x.2
    (x.1 + y.1, y.2)

/-- Route word of a permutation: `perm[i]` is the lane to which lane `i` goes (R89). -/
def routeWord (perm : List Nat) : Nat :=
  let x := routeLevels 5 0 perm
  x.1 + sumN ((List.range 32).map (fun h => if x.2.getD (2 * h) 0 ≠ 2 * h then 2 ^ (32 * 5 + switchOf 0 (2 * h)) else 0))

/-! ### Colouring (R88) -/

/-- What the colouring of one level holds. -/
structure Walk where
  used : List Bool
  half : List Nat
  deriving DecidableEq, Repr

/-- Mark a byte. -/
def Walk.mark (w : Walk) (x h : Nat) : Walk := { used := setNth w.used x true, half := setNth w.half x h }

/-- The while loop of R88 from input beat `r`. -/
def colourWalk (dst grp : List Nat) (g : Nat) : Nat → Nat → Walk → Walk
  | 0, _, w => w
  | n + 1, r, w =>
    let free := fun (w : Walk) (x : Nat) => grp.getD x 0 = g && !(w.used.getD x true)
    match (rangeFrom (64 * r) 64).find? (fun x => free w x) with
    | none => w
    | some x =>
      let w1 := w.mark x 0
      let t := dst.getD x 0 / 64
      match (List.range dst.length).find? (fun y => free w1 y && decide (dst.getD y 0 / 64 = t)) with
      | none => w1
      | some y => colourWalk dst grp g n (y / 64) (w1.mark y 1)

/-- One level of R88. -/
def colourLevel (dst : List Nat) (grp : List Nat) (level : Nat) : List Nat :=
  let n := dst.length
  let w := (List.range (n / 64)).foldl (fun w r0 =>
    (List.range (2 ^ level)).foldl (fun w g => colourWalk dst grp g n r0 w) w)
    ({ used := List.replicate n false, half := List.replicate n 0 } : Walk)
  (grp.zip w.half).map (fun x => 2 * x.1 + x.2)

/-- Colours of the bytes of a tile, `dst` giving each byte's destination. -/
def colours (dst : List Nat) : List Nat :=
  (List.range 6).foldl (colourLevel dst) (List.replicate dst.length 0)

/-! ### Bodies (R88 to R90) -/

/-- Source byte of each destination byte of a tile of `r` beats, from the source elements. -/
def expandTile (idx : List Nat) (e r : Nat) : List Nat :=
  (List.range (64 * r)).map (fun y => if y < idx.length * e then e * idx.getD (y / e) 0 + y % e else y)

/-- The inverse of a permutation given as a list. -/
def invert (src : List Nat) : List Nat :=
  ((List.range src.length).zip src).foldl (fun d x => setNth d x.2 x.1) (List.replicate src.length 0)

/-- Position `x` of a list of 64, by its value. -/
def permFrom (pairs : List (Nat × Nat)) : List Nat :=
  pairs.foldl (fun p x => setNth p x.1 x.2) (List.replicate 64 0)

/-- A route body as a number, bit 0 of its first byte lowest (R90). -/
def routeBody (idx : List Nat) (e : Nat) : Nat :=
  let r := cdiv (idx.length * e) 64
  let src := expandTile idx e r
  let dst := invert src
  let col := colours dst
  let beats := List.range r
  let ins := beats.map (fun i => (routeWord ((List.range 64).map (fun l => col.getD (64 * i + l) 0))) <<< (352 * i))
  let outs := beats.map (fun t =>
    let xs := (List.range 64).map (fun l => src.getD (64 * t + l) 0)
    let word := routeWord (permFrom (xs.map (fun x => (col.getD x 0, dst.getD x 0 % 64))))
    let sad := sumN (xs.map (fun x => place (x / 64) (6 * col.getD x 0) 6))
    (sad <<< (352 * r + 384 * t)) + (word <<< (736 * r + 352 * t)))
  sumN ins + sumN outs

/-- Bytes of a body of `r` beats, padded to whole beats. -/
def bodyBytes (r : Nat) : Nat := 64 * cdiv (136 * r) 64

/-- Source byte of destination byte `y` of a tile that a stored body moves (R75, R85). -/
def bodySource (body r y : Nat) : Nat :=
  let t := y / 64
  let c := netSource (fld body (736 * r + 352 * t) 352) (y % 64)
  let i := fld body (352 * r + 384 * t + 6 * c) 6
  64 * i + netSource (fld body (352 * i) 352) c

/-! ### ROUTE (R86, R87, R91) -/

/-- What a ROUTE finds in IDX on a fold: the source element of each destination element, whether each was clamped,
and whether any byte is raddled. -/
structure RouteIn where
  idx    : List Nat
  clamps : Nat
  bad    : Bool
  bytes  : List Byte
  deriving DecidableEq, Repr

/-- Read IDX on fold `f`. -/
def State.routeIn (s : State) (d : Desc) (f : Nat) : RouteIn :=
  match d.p.idx with
  | none => { idx := [], clamps := 0, bad := false, bytes := [] }
  | some g =>
    let n := g.count
    let es := (List.range n).map (s.rdElt f d.did g)
    let vs := es.map (fun e => g.idxVal e.val)
    { idx := vs.map (fun v => (clampI v 0 ((n : Int) - 1)).toNat),
      clamps := (vs.filter (fun v => decide (v < 0 ∨ (n : Int) ≤ v))).length,
      bad := es.any Elt.bad, bytes := es.flatMap (fun e => leBytes e.val (g.w / 8)) }

/-- How a ROUTE ends before it writes anything: STRICT with a clamp, or two equal clamped values (R86). -/
def State.routeStop (s : State) (d : Desc) : Option Status :=
  let ins := d.folds.map (s.routeIn d)
  if ins.any (fun r => r.bad) then none
  else if d.p.strict && ins.any (fun r => r.clamps != 0) then some .refusedRange
  else if ins.any (fun r => (dedup r.idx).length != r.idx.length) then some .refusedShape
  else none

/-- The entry that a ROUTE installs on fold `f` (Table 03-8). -/
def Desc.routeEntry (d : Desc) (r : RouteIn) : RouteEntry :=
  let ew := fld d.p.aux 8 2
  let n := r.idx.length
  { key := pd64 r.bytes, body := BitVec.ofNat 26 ((d.p.dst.map (fun g => g.addr)).getD 0),
    rm1 := BitVec.ofNat 6 (cdiv (n * 2 ^ ew) 64 - 1), ew := BitVec.ofNat 2 ew, n := BitVec.ofNat 13 n, valid := true }

end Sys2Proof.Machine
end

