-- ==== Sys2Proof/Machine/Reorder.lean ====
section
/-!
DEFINITION. What one unit of a descriptor reads and writes, how a unit commits, and the units of the reordering opcodes:
COPY, TRANSPOSE, PERMUTE, CONVERT, PACK, UNPACK, SHUFFLE, ROUTE and DIGEST (chapters 03 and 07).
-/
namespace Sys2Proof.Machine

/-! ### Units -/

/-- What a unit does: the bytes it writes, in order; its part of the covered sequence; the pasture words with errors
that it read; clamped accesses; SCATTER positions dropped; saturation; a constant channel; beats sent on an NE port;
free choices used; route entries to install; a raddled input that marks the descriptor; vector registers written as
(fold, register, value); events as (code, fold, INFO). -/
structure Out where
  pieces  : List Piece
  cov     : List Cov
  words   : List Nat
  clamps  : Nat
  dropped : List Nat
  sat     : Bool
  constCh : Bool
  beats   : List NeOut
  free    : Nat
  install : List (Nat × RouteEntry)
  marked  : Bool
  regs    : List (Nat × Nat × VReg)
  events  : List (Nat × Nat × Nat)
  deriving DecidableEq, Repr

/-- A unit that does nothing. -/
def Out.none : Out :=
  { pieces := [], cov := [], words := [], clamps := 0, dropped := [], sat := false, constCh := false, beats := [],
    free := 0, install := [], marked := false, regs := [], events := [] }

/-- The pieces that active shadows write beside their primaries (R297). -/
def State.mirror (s : State) (ps : List Piece) : List Piece :=
  (s.twins.filter (fun t => t.active)).flatMap (fun t =>
    match s.phys t.pri.toNat, s.phys t.shd.toNat with
    | some a, some b => (ps.filter (fun p => !p.host && p.key / slice = a)).map (fun p =>
        { p with key := b * slice + p.key % slice })
    | _, _ => [])

/-- The state as the shadow of an active pair sees it: the primary's logical fold is backed by the shadow's slice and registers,
and what the primary has read from outside stands in its landing buffer (R297). -/
def State.asShadow (s : State) (f q : Nat) : State :=
  let l := (s.lfold f).landing
  ({ s with fmap := { s.fmap with phys := setNth s.fmap.phys f (some q) } } : State).modFold q (fun fo => { fo with landing := l })

/-- A piece of the primary's slice as its shadow writes it. -/
def Piece.shift (p q : Nat) (x : Piece) : Piece :=
  if !x.host && decide (x.key / slice = p) then { x with key := q * slice + x.key % slice } else x

/-- Whether every beat that the shadow is about to perform equals the primary's, with its address and raddle bits (R298). -/
def Out.agrees (p q : Nat) (a b : Out) : Bool :=
  decide (b.pieces = a.pieces.map (Piece.shift p q) ∧ b.regs = a.regs ∧ b.beats = a.beats ∧ b.cov = a.cov ∧ b.install = a.install)

/-- What a unit of fold `f` leaves in the descriptor. -/
def Desc.take (d : Desc) (f : Nat) (o : Out) : Desc :=
  { d.modAcc f (fun a => { a with clamps := a.clamps + o.clamps, drops := a.drops ++ o.dropped, sat := a.sat || o.sat,
                                  constCh := a.constCh || o.constCh }) with
    cov := d.cov ++ o.cov, marked := d.marked || o.marked, install := d.install ++ o.install }

/-- The host lines of unit `u` of fold `f` whose bytes write transactions carry. -/
def Desc.onWire (d : Desc) (f u : Nat) : List Nat :=
  (d.wire.filter (fun x => decide (x.1 = f ∧ x.2.1 = u))).map (fun x => x.2.2)

/-- What a commit settles: nothing of the unit is left to issue. -/
def Desc.settled (d : Desc) (f u : Nat) : Desc :=
  { d with sent := d.sent.filter (fun x => !(decide (x.fold = f ∧ x.unit = u))),
           wire := d.wire.filter (fun x => !(decide (x.1 = f ∧ x.2.1 = u))),
           redo := d.redo.filter (fun x => !(decide (x.1 = f ∧ x.2 = u))) }

/-- Commit unit `u` of fold `f`: its reads are noted, its bytes written together but for the lines that write transactions
carry, its counts kept (R165). -/
def State.commit (s : State) (d : Desc) (f u : Nat) (o : Out) : State :=
  let s1 := s.noteReads o.words
  let ps := (mergePieces (keepPieces d.derr o.pieces)).filter (fun p => !(p.host && (d.onWire f u).contains (p.key / 64)))
  let s2 := s1.putAll (ps ++ s1.mirror ps)
  let s3 := o.regs.foldl (fun t x => t.modPair x.1 (fun fo => { fo with vregs := sset VReg.blank fo.vregs x.2.1 x.2.2 })) s2
  let s4 := o.events.foldl (fun t x => t.noteD x.1 (some x.2.1) d x.2.2) s3
  ({ s4 with neOut := s4.neOut ++ o.beats, freeCtr := s4.freeCtr + o.free } : State).modDesc d.did
    (fun e => (e.take f o).settled f u)

/-! ### Elements -/

/-- Bit addresses of the pads that go with element `i` of a projected graticule: those of its block, when it is the
block's first element (R68). -/
def Grat.pads (g : Grat) (i : List Nat) : List Int :=
  if g.lin then []
  else
    let b := g.block
    let i0 := (i[0]?).getD 0
    let i1 := (i[1]?).getD 0
    if i0 % b.b0 ≠ 0 ∨ i1 % b.b1 ≠ 0 ∨ (i0 + b.b0 ≤ g.sz 0 ∧ i1 + b.b1 ≤ g.sz 1) then []
    else
      let o := g.org i
      (List.range b.b1).flatMap (fun r1 => ((List.range b.b0).filter (fun r0 => g.sz 0 ≤ i0 + r0 ∨ g.sz 1 ≤ i1 + r1)).map
        (fun r0 => 8 * (o + (blockByte g.proj g.ty.bytes r0 r1 : Nat)) + (blockPos g.proj r0 : Nat)))

/-- The pieces of writing element `l` of a graticule, with the pads that go with it. -/
def State.eltPieces (s : State) (f : Nat) (g : Grat) (l : Nat) (e : Elt) : List Piece :=
  s.pieces f g (g.bitAt l) e ++
    (g.pads (decomp g.size l)).flatMap (fun b => s.pieces f g b { val := 0, rad := 0 })

/-- Whether a line of host element `l` had its write answered DERR. -/
def Desc.lost (d : Desc) (g : Grat) (l : Nat) : Bool :=
  !g.space && !d.derr.isEmpty && (linesOf (g.spanOf l)).any (fun x => d.derr.contains x)

/-- Part of the covered sequence that fold `f` contributes to: its own where every fold processes its copy (R283). -/
def Parsed.partOf (p : Parsed) (f : Nat) : Nat :=
  let every := match p.opc with
    | some .tprod | some .requant | some .cbload | some .deliver | some .collect | some .vstore => false
    | _ => p.anyLocal && p.anchors.isEmpty
  if (p.dst.map (fun g => g.space && g.loc)).getD false || every then f else 0

/-- The covered element of DST element `l`. -/
def Desc.covOf (d : Desc) (f : Nat) (g : Grat) (l : Nat) (e : Elt) : Cov :=
  { fold := f, part := d.p.partOf f, key := l, w := g.w, val := e.val, rad := e.bad || d.lost g l }

/-- An element as an opcode writes it: moved, or converted by Table 06-5 (R32, R193, R336). -/
def moveElt (conv : Bool) (a b : Grat) (e : Elt) : Elt × Bool :=
  if conv then
    let c := convertElem a.ty b.ty e.val
    ({ val := c.1, rad := radAll b.w e.bad }, c.2)
  else (e, false)

/-- A unit of COPY, TRANSPOSE, PERMUTE, CONVERT, PACK or UNPACK over the DST elements `ls`. -/
def State.moveUnit (s : State) (d : Desc) (f : Nat) (conv : Bool) (ls : List Nat) : Out :=
  let p := d.p
  match p.src0, p.dst with
  | some a, some b =>
    let es := ls.map (fun l =>
      let x := p.srcIndex l
      let g := if x.1 = 0 then a else p.src1.getD a
      (l, moveElt conv a b (s.rdElt f d.did g x.2), s.errWords f g x.2))
    { Out.none with
      pieces := es.flatMap (fun x => s.eltPieces f b x.1 x.2.1.1)
      cov := es.map (fun x => d.covOf f b x.1 x.2.1.1)
      words := es.flatMap (fun x => x.2.2)
      sat := es.any (fun x => x.2.1.2) }
  | _, _ => Out.none

/-- A unit of DIGEST over the SRC0 elements `ls` (R197). -/
def State.digestUnit (s : State) (d : Desc) (f : Nat) (ls : List Nat) : Out :=
  match d.p.src0 with
  | some a =>
    { Out.none with
      cov := ls.map (fun l =>
        let e := s.rdElt f d.did a l
        { fold := f, part := d.p.partOf f, key := l, w := a.w, val := e.val, rad := e.bad })
      words := ls.flatMap (s.errWords f a) }
  | none => Out.none

/-! ### SHUFFLE (R80 to R85) -/

/-- Source byte of destination byte `y` under class BPC (R82). -/
def bpcSource (pj m y : Nat) : Nat :=
  sumN ((List.range m).map (fun j => place (b2n (bit y j != bit pj (144 + j))) (beta pj j) 1))

/-- Inverse of an odd number modulo 2^m, m ≤ 12. -/
def oddInverse (p m : Nat) : Nat :=
  let step := fun x => x * (2 ^ m + 2 - p * x % 2 ^ m) % 2 ^ m
  step (step (step (p % 2 ^ m)))

/-- Source byte of destination byte `y` under class AFFINE (R83). -/
def affineSource (pj m y : Nat) : Nat :=
  oddInverse (fld pj 64 12) m * (y + 2 ^ m - fld pj 80 12) % 2 ^ m

/-- The route cache entry that fold `f` read when it started the SHUFFLE (R85), or that it would read now. -/
def State.slotOf (s : State) (d : Desc) (f : Nat) : RouteEntry :=
  ((d.slots.find? (fun x => decide (x.1 = f))).map Prod.snd).getD
    (sget RouteEntry.blank (s.lfold f).route (fld d.p.pj 160 8))

/-- The bytes of an area of a fold's own slice. -/
def State.ownBytes (s : State) (f a n : Nat) : List (Byte × Bool) :=
  match s.phys f with
  | none => List.replicate n (0, true)
  | some q => (List.range n).map (fun i => s.pastByte (q * slice + (a + i) % slice))

/-- Pasture words with errors in an area of a fold's own slice. -/
def State.ownWords (s : State) (f a n : Nat) : List Nat :=
  match s.phys f with
  | none => []
  | some q =>
    if s.ecc.isEmpty then []
    else (rangeFrom ((q * slice + a) / 8) (cdiv (a % 8 + n) 8)).filter (fun w => sget .none s.ecc w ≠ .none)

/-- The route body that fold `f` loads for a SHUFFLE (R85). -/
def State.routeBytes (s : State) (d : Desc) (f : Nat) : List (Byte × Bool) :=
  let e := s.slotOf d f
  s.ownBytes f e.body.toNat (bodyBytes (e.rm1.toNat + 1))

/-- A fold that starts or resumes a SHUFFLE of class BODY loads the body into its route latch; the read corrects or hands on
the words with errors that it meets (R85, R162). -/
def State.loadRoute (s : State) (d : Desc) (f : Nat) : State :=
  if d.isOpc .shuffle && d.p.bodyClass then
    let e := s.slotOf d f
    let load := fun (t : State) (v : State) (g : Nat) =>
      (t.noteReads (v.ownWords f e.body.toNat (bodyBytes (e.rm1.toNat + 1)))).modL g (fun fo =>
        { fo with latches := { fo.latches with route := some (v.routeBytes d f) } })
    let t := load s s f
    match s.pairOf f with
    | some x => (match s.phys x.2.shd.toNat with
      | some q => load t (s.asShadow f q) x.2.shd.toNat
      | none => t)
    | none => t
  else s

/-- The last route word that a tile or shear path applied stays in the permute latch (Table 06-5a). -/
def State.latchPermute (s : State) (d : Desc) (f : Nat) : State :=
  if d.p.path = .tile ∨ d.p.path = .shear then
    let w := match (s.lfold f).latches.route with
      | some body => body.drop (136 * ((s.slotOf d f).rm1.toNat))
      | none => (List.range 136).map (fun i => (Config.routeWord (136 * d.did + i), false))
    s.modPair f (fun fo => { fo with latches := { fo.latches with permute := some w } })
  else s

/-- A unit of SHUFFLE: the tile whose DST elements are `ls`. -/
def State.shuffleUnit (s : State) (d : Desc) (f : Nat) (ls : List Nat) : Out :=
  let p := d.p
  match p.src0, p.dst with
  | some a, some b =>
    let e := p.eBytes
    let n := ls.length
    let base := ls.head?.getD 0
    let kind := fld p.pj 0 4
    let m := fld p.pj 8 4
    let r := cdiv (n * e) 64
    let raw := if kind = 4 then (s.lfold f).latches.route.getD (s.routeBytes d f) else []
    let body := leNat (raw.map Prod.fst)
    let badBody := raw.any Prod.snd
    let src := fun (j : Nat) =>
      if kind = 2 then bpcSource p.pj m (j * e) / e
      else if kind = 3 then affineSource p.pj m (j * e) / e
      else 0
    let es := ls.map (fun l =>
      let j := l - base
      if kind = 4 then
        -- byte by byte through the stored route; a byte beyond the tile is one that no beat of the tile holds (log 80)
        let bs := (List.range e).map (fun i =>
          let x := bodySource body r (j * e + i)
          if x / e < n then
            let v := s.rdElt f d.did a (base + x / e)
            (fld v.val (8 * (x % e)) 8, bit v.rad (x % e))
          else (Config.freeChoice (s.freeCtr + j * e + i) % 256, true))
        (l, ({ val := leNat (bs.map (fun x => BitVec.ofNat 8 x.1)), rad := bitsOf (bs.map Prod.snd) } : Elt))
      else (l, s.rdElt f d.did a (base + src j)))
    let fin := es.map (fun x => (x.1, ({ x.2 with rad := if badBody then radAll b.w true else x.2.rad } : Elt)))
    { Out.none with
      pieces := fin.flatMap (fun x => s.eltPieces f b x.1 x.2)
      cov := fin.map (fun x => d.covOf f b x.1 x.2)
      words := ls.flatMap (s.errWords f a)
      free := if kind = 4 then n * e else 0 }
  | _, _ => Out.none

/-- The slot check of a SHUFFLE of class BODY on every executing fold (R84). -/
def State.slotOk (s : State) (p : Parsed) (fs : List Nat) : Bool :=
  fld p.pj 0 4 != 4 || fs.all (fun f =>
    let e := sget RouteEntry.blank (s.lfold f).route (fld p.pj 160 8)
    e.valid && decide (e.key.toNat = fld p.pj 192 64) && decide (2 ^ e.ew.toNat = p.eBytes) &&
    decide (e.n.toNat ≠ 0 ∧ ((p.src0.map Grat.count).getD 0) % e.n.toNat = 0))

/-! ### ROUTE -/

/-- The unit of a ROUTE on fold `f` (R86 to R91). A raddled index byte on any of them leaves every body
unwritten (R91). DESIGN CHOICE (log 79):
each fold reads an index tensor of its own, so a clamped index counts in CLAMPS once for each fold that clamps it. -/
def State.routeUnit (s : State) (d : Desc) (f : Nat) : Out :=
  match d.p.dst, d.p.idx with
  | some b, some x =>
    let r := s.routeIn d f
    let words := (List.range x.count).flatMap (s.errWords f x)
    if d.folds.any (fun g => (s.routeIn d g).bad) then { Out.none with clamps := r.clamps, words := words, marked := true }
    else
      let body := leBytes (routeBody r.idx (2 ^ fld d.p.aux 8 2)) b.count
      let es := ((List.range b.count).zip body).map (fun y => (y.1, ({ val := y.2.toNat, rad := 0 } : Elt)))
      { Out.none with
        pieces := es.flatMap (fun y => s.eltPieces f b y.1 y.2)
        cov := es.map (fun y => d.covOf f b y.1 y.2)
        words := words, clamps := r.clamps, install := [(f, d.routeEntry r)] }
  | _, _ => Out.none

/-! ### Registers as a read finds them (R147, Table 13-1) -/

/-- A register of a logical fold. -/
def State.vreg (s : State) (f i : Nat) : VReg := sget VReg.blank (s.lfold f).vregs i

/-- A register with its uncorrectable words read: their byte lanes raddled (Table 13-1). -/
def VReg.read (v : VReg) : VReg :=
  { v with err := 0, rad := v.rad ||| BitVec.ofNat 64 (sumN ((List.range 8).map (fun k =>
      if bit v.err.toNat k then 0xFF <<< (8 * k) else 0))) }

/-- The VFILE_UE events of reading registers on a fold: register, then word. -/
def State.vfileUe (s : State) (f : Nat) (rs : List Nat) : List (Nat × Nat × Nat) :=
  rs.flatMap (fun r => ((List.range 8).filter (fun k => bit (s.vreg f r).err.toNat k)).map (fun k =>
    (0x0303, f, r + 32 * k)))

/-- The registers whose read found errors, as the read leaves them. -/
def State.vfileFix (s : State) (f : Nat) (rs : List Nat) : List (Nat × Nat × VReg) :=
  (rs.filter (fun r => (s.vreg f r).err ≠ 0)).map (fun r => (f, r, (s.vreg f r).read))

/-! ### Destinations that overlap themselves (R56, R112) -/

/-- Group pieces by the bits they write, each group in the order given. -/
def groupPieces : List Piece → List (List Piece)
  | [] => []
  | p :: r =>
    let rest := groupPieces r
    match findIdx1 (fun g => g.any (fun q => decide (q.host = p.host ∧ q.key = p.key ∧ q.mask = p.mask))) rest 0 with
    | some i => setNth rest i (p :: rest.getD i [])
    | none => [p] :: rest

/-- Of each group that several elements write, one piece chosen without a defined order. -/
def State.pickPieces (s : State) : List (List Piece) → State × List Piece
  | [] => (s, [])
  | [] :: r => s.pickPieces r
  | (p :: q) :: r =>
    if q.isEmpty then
      let x := s.pickPieces r
      (x.1, p :: x.2)
    else
      let c := s.choose (q.length + 1)
      let x := c.2.pickPieces r
      (x.1, (p :: q).getD c.1 p :: x.2)

/-- Of the host bytes that a unit writes, those that elements committed before it have written too: whether each takes the
new value is chosen without a defined order (R56). -/
def State.settleBytes (s : State) (old : Nat → Bool) : List Piece → State × List Piece
  | [] => (s, [])
  | p :: r =>
    if p.host && old p.key then
      let c := s.choose 2
      let x := c.2.settleBytes old r
      (x.1, if c.1 = 0 then x.2 else p :: x.2)
    else
      let x := s.settleBytes old r
      (x.1, p :: x.2)

/-- Whether a descriptor has written host byte `a` of its DST. -/
def Desc.wroteByte (d : Desc) (g : Grat) (a : Nat) : Bool :=
  d.cov.any (fun c => decide ((g.spanOf c.key).1 ≤ a ∧ a < (g.spanOf c.key).2))

/-- Write pieces of which several may write the same bits. -/
def State.putFree (s : State) (ps : List Piece) : State :=
  let x := s.pickPieces (groupPieces ps)
  let m := mergePieces x.2
  x.1.putAll (m ++ x.1.mirror m)

end Sys2Proof.Machine
end

