-- ==== Sys2Proof/Machine/Gather.lean ====
section
/-!
DEFINITION. The units of GATHER and SCATTER (chapter 04): one window of stream positions each.
-/
namespace Sys2Proof.Machine

/-- Whether every executing fold processes every stream position (R103). -/
def Parsed.everyFold (p : Parsed) : Bool := p.anyLocal && p.anchors.isEmpty

/-- Whether a lower executing fold sees the same at position `l`: a position counts once (R100, R114). -/
def State.seenBelow (s : State) (d : Desc) (f l : Nat) (q : Hit → Bool) : Bool :=
  d.p.everyFold && (d.folds.filter (fun g => decide (g < f))).any (fun g => q (s.hit d.p g d.did l))

/-- A hit whose access was clamped (R49, R114). -/
def Hit.clamped (h : Hit) : Bool := h.clamp && !h.bad

/-- Positions of a window that count in CLAMPS for fold `f`. -/
def State.clampCount (s : State) (d : Desc) (f : Nat) (ls : List Nat) : Nat :=
  (ls.filter (fun l => (s.hit d.p f d.did l).clamped && !s.seenBelow d f l Hit.clamped)).length

/-- Words with errors among the index elements of a window. -/
def State.idxWords (s : State) (d : Desc) (f : Nat) (ls : List Nat) : List Nat :=
  match d.p.idx with
  | some x => (ls.flatMap d.p.idxAt).flatMap (s.errWords f x)
  | none => []

/-- A GATHER window (R97, R114). -/
def State.gatherUnit (s : State) (d : Desc) (f : Nat) (ls : List Nat) : Out :=
  match d.p.src0, d.p.dst with
  | some a, some b =>
    let es := ls.map (fun l =>
      let h := s.hit d.p f d.did l
      let e := s.rdElt f d.did a h.at_
      (l, ({ e with rad := if h.bad then radAll b.w true else e.rad } : Elt), s.errWords f a h.at_))
    { Out.none with
      pieces := es.flatMap (fun x => s.eltPieces f b x.1 x.2.1)
      cov := es.map (fun x => d.covOf f b x.1 x.2.1)
      words := es.flatMap (fun x => x.2.2) ++ s.idxWords d f ls
      clamps := s.clampCount d f ls }
  | _, _ => Out.none

/-- Bytes written whole: each takes the element places that no piece writes from the line as the read returned it (R386). -/
def State.fillBytes (s : State) (f did : Nat) (ps : List Piece) : List Piece :=
  (mergePieces ps).map (fun p =>
    let r := p.apply (s.droverByte f did p.key)
    { p with mask := 0xFF, val := r.1.toNat, rad := r.2 })

/-- A SCATTER window (R111, R114): positions with a raddled index write nothing. -/
def State.scatterUnit (s : State) (d : Desc) (f : Nat) (ls : List Nat) : Out :=
  match d.p.src0, d.p.dst with
  | some q, some b =>
    let hs := ls.map (fun l => (l, s.hit d.p f d.did l))
    let run := hs.filter (fun x => !x.2.bad)
    let es := run.map (fun x => (x.1, x.2.at_, s.rdElt f d.did q x.1))
    let ps := es.flatMap (fun x => s.pieces f b (b.bitAt x.2.1) x.2.2)
    { Out.none with
      pieces := if d.p.hostSub && d.p.ordered then s.fillBytes f d.did ps else ps
      cov := es.map (fun x =>
        { fold := f, part := d.p.partOf f, key := x.1, w := q.w, val := x.2.2.val,
          rad := x.2.2.bad || d.lost b x.2.1 })
      words := ls.flatMap (s.errWords f q) ++ s.idxWords d f ls
      clamps := s.clampCount d f ls
      dropped := ((hs.filter (fun x => x.2.bad)).map Prod.fst).filter (fun l => !s.seenBelow d f l Hit.bad) }
  | _, _ => Out.none

/-- Whether the check pass of STRICT finds a clamped position (R50, R108). -/
def State.strictHit (s : State) (d : Desc) : Bool :=
  d.p.strict && d.work.any (fun x => x.2.flatten.any (fun l => (s.hit d.p x.1 d.did l).clamped))

/-! ### Windows that write one host byte of sub-byte elements (R386) -/

/-- The byte that some windows leave: each merges its elements into the byte as its own read returned it or as another
window left it, in an order without definition. Each piece stands beside the byte that its fold read. -/
def State.raceByte : Nat → State → List (Piece × (Byte × Bool)) → Byte × Bool → State × (Byte × Bool)
  | 0, s, _, cur => (s, cur)
  | n + 1, s, ps, cur =>
    match ps with
    | [] => (s, cur)
    | p :: q =>
      let c := s.choose (q.length + 1)
      let b := c.2.choose 2
      let w := (p :: q).getD c.1 p
      State.raceByte n b.2 ((p :: q).eraseIdx c.1) (w.1.apply (if b.1 = 0 then w.2 else cur))

/-- Choose, byte by byte, what the windows of a V = 1 SCATTER leave. -/
def State.raceBytes (s : State) (wins : List Win) : List Nat → State × List Piece
  | [] => (s, [])
  | k :: r =>
    let mine := (wins.map (fun w => w.bytes.filter (fun x => x.1.key = k))).filter (fun w => !w.isEmpty)
    -- collisions on one element inside a window are settled first
    let one := mine.foldl (fun (acc : State × List (Piece × (Byte × Bool))) w =>
      let was := (w.head?.map Prod.snd).getD (s.hostByte k)
      let x := acc.1.pickPieces (groupPieces (w.map Prod.fst))
      (x.1, acc.2 ++ (mergePieces x.2).map (fun p => (p, was)))) (s, [])
    let x := State.raceByte one.2.length one.1 one.2 ((one.2.head?.map Prod.snd).getD (s.hostByte k))
    let y := x.1.raceBytes wins r
    (y.1, { host := true, key := k, mask := 0xFF, val := x.2.1.toNat, rad := x.2.2 } :: y.2)

/-! ### Units of a destination that overlaps itself (R56, R103, R112, R386) -/

/-- Destinations that several units may write in an order without definition: COPY with V to an overlapping host
destination (R56), a mode-ANY SCATTER (R112), a GATHER of every fold into one DST (R103). -/
def Desc.racy (d : Desc) : Bool :=
  let p := d.p
  match p.opc with
  | some .copy => p.v && !p.ordered
  | some .scatter => p.v
  | some .gather => p.everyFold && !((p.dst.map (fun g => g.space && g.loc)).getD false)
  | _ => false

/-- What a unit writes, each byte beside the one that its fold read there. -/
def State.winOf (s : State) (d : Desc) (f : Nat) (ps : List Piece) : Win :=
  { fold := f, bytes := (keepPieces d.derr ps).map (fun p => (p, if p.host then s.droverByte f d.did p.key else s.pastByte p.key)) }

/-- Choose afresh what the units leave in some bytes. A byte of a GATHER is one fold's whole (R103). -/
def State.settleWins (s : State) (d : Desc) (wins : List Win) (keys : List (Bool × Nat)) : State :=
  let here := wins.map (fun w => { w with bytes := w.bytes.filter (fun x => keys.contains (x.1.host, x.1.key)) })
  if d.p.hostSub then
    let x := s.raceBytes here (sortN (keys.map Prod.snd))
    x.1.putAll x.2
  else if d.isOpc .gather then
    s.putFree (d.folds.flatMap (fun f => mergePieces ((here.filter (fun w => decide (w.fold = f))).flatMap (fun w => w.bytes.map Prod.fst))))
  else s.putFree (here.flatMap (fun w => w.bytes.map Prod.fst))

end Sys2Proof.Machine
end

