-- ==== Sys2Proof/Machine/TableProduct.lean ====
section
/-!
DEFINITION. The table product (chapter 05): table images, group sums, leaves, the tree, requantisation with its
statistics records, and the units of TPROD, REQUANT and CBLOAD.
-/
namespace Sys2Proof.Machine

/-! ### Table images (R120, R121, R123) -/

/-- What a fold takes from an image header. -/
structure Image where
  row0  : Nat
  rows  : Nat
  g0    : Nat
  ng    : Nat
  ident : Bool
  cboff : Nat
  scoff : Nat
  bad   : Bool
  deriving DecidableEq, Repr

/-- The part of the image that fold number `i` of a layout holds (R119, R122): ROW0, ROWS, G0, NG. -/
def TLayout.part (t : TLayout) (sheaves : Bool) (i : Nat) : Nat × Nat × Nat × Nat :=
  if sheaves then (0, t.n, i * t.kf / 64, (Nat.min t.k ((i + 1) * t.kf) - i * t.kf) / 64)
  else (i * t.q, t.nrows i, 0, t.k / 64)

/-- Bytes of TBL on fold `h`, from offset `o`. -/
def State.tblBytes (s : State) (p : Parsed) (h o n : Nat) : List (Byte × Bool) :=
  match p.tbl with
  | some g => s.ownBytes h (g.addr + o) n
  | none => []

/-- Entries of a codebook: 16 or 4. -/
def codeEntries (w : Nat) : Nat := if w = 2 then 4 else 16

/-- Code width of a TPROD. -/
def Parsed.codeW (p : Parsed) : Nat := (p.src1.map Grat.w).getD 4

/-- The image header on fold `h`: its bits, and whether any byte is raddled. -/
def State.header (s : State) (p : Parsed) (h : Nat) : BitVec 512 × Bool :=
  let raw := s.tblBytes p h 0 64
  (BitVec.ofNat 512 (leNat (raw.map Prod.fst)), raw.any Prod.snd)

/-- The image of fold number `i` as a header read on that fold gives it (R123). -/
def State.image (s : State) (p : Parsed) (t : TLayout) (i : Nat) (hd : BitVec 512 × Bool) : Image :=
  let h := (t.folds[i]?).getD 0
  let x := hd.1.toNat
  let pt := t.part (TParams.ofAux p.aux).sheaves i
  let ident := bit x 163
  let cboff := fld x 192 32
  let hb := hd.2
  let cb := if ident then false
    else (s.tblBytes p h cboff (codeEntries p.codeW * pt.2.2.2)).any Prod.snd
  { row0 := pt.1, rows := pt.2.1, g0 := pt.2.2.1, ng := pt.2.2.2, ident := ident, cboff := cboff,
    scoff := fld x 224 32, bad := hb || cb }

/-- The header check of one fold (R123). -/
def State.imageOk (s : State) (p : Parsed) (t : TLayout) (i : Nat) : Bool :=
  let h := (t.folds[i]?).getD 0
  let hd := s.header p h
  let x := hd.1.toNat
  let a := TParams.ofAux p.aux
  let im := s.image p t i hd
  let size := (p.tbl.map Grat.count).getD 0
  let fields := bit x 511 && decide (fld x 0 32 = t.k ∧ fld x 32 32 = t.n ∧ fld x 64 32 = im.row0 ∧
    fld x 96 32 = im.rows ∧ fld x 128 16 = im.g0 ∧ fld x 144 16 = im.ng ∧
    fld x 160 2 = (if p.codeW = 2 then 1 else 0)) && bit x 162 == a.fp && bit x 164 == a.sheaves
  let cbEnd := if im.ident then 64 else im.cboff + codeEntries p.codeW * im.ng
  (hd.2 || fields) && decide (cbEnd ≤ size ∧ im.scoff + 256 * im.ng * cdiv im.rows 64 ≤ size ∧ 64 ≤ size)

/-- The header checks of every executing fold. -/
def State.imagesOk (s : State) (p : Parsed) (fs : List Nat) : Bool :=
  match s.tLayout p with
  | some t => (List.range t.m).all (fun i => !(fs.contains ((t.folds[i]?).getD 64)) || s.imageOk p t i)
  | none => false

/-! ### Leaves (R115, R128, R129) -/

/-- Everything a fold needs to compute leaves: the descriptor, its layout, the fold whose activations it reads, and the
number and image of the fold whose rows it computes. -/
structure TCtx where
  d    : Desc
  t    : TLayout
  a    : TParams
  x    : Grat
  w    : Grat
  f    : Nat
  i    : Nat
  im   : Image
  deriving DecidableEq, Repr

/-- The header of fold `h` as the descriptor read it when it started (R123). -/
def State.headOf (s : State) (d : Desc) (h : Nat) : BitVec 512 × Bool :=
  ((d.heads.find? (fun x => x.1 = h)).map Prod.snd).getD (s.header d.p h)

/-- The context in which fold `f` computes rows of fold number `i`. -/
def State.tctx (s : State) (d : Desc) (f i : Nat) : Option TCtx :=
  match s.tLayout d.p, d.p.src0, d.p.src1 with
  | some t, some x, some w =>
    some { d := d, t := t, a := TParams.ofAux d.p.aux, x := x, w := w, f := f, i := i,
           im := s.image d.p t i (s.headOf d ((t.folds[i]?).getD 0)) }
  | _, _, _ => none

/-- Home fold of the rows. -/
def TCtx.home (c : TCtx) : Nat := (c.t.folds[c.i]?).getD 0

/-- SRC1 element of local row `r` (all N rows in the SHEAVES form) and code `k`. -/
def TCtx.codeAt (c : TCtx) (r k : Nat) : Nat :=
  if c.a.sheaves then (k - c.i * c.t.kf) + c.t.kf * (r + c.t.n * c.i) else k + c.t.k * (r + c.t.q * c.i)

/-- ZX as SRC0's type. -/
def TCtx.zx (c : TCtx) : Int := c.x.ty.toInt c.a.zx

/-- An integer with a raddle. -/
structure Val where
  v   : Int
  rad : Bool
  deriving DecidableEq, Repr

/-- Codebook entry `e` of group `g`, by Table 05-3 and R121. -/
def State.cbEntry (s : State) (c : TCtx) (g e : Nat) : Int :=
  if c.im.ident then sext e c.w.w
  else
    let b := s.tblBytes c.d.p c.home (c.im.cboff + codeEntries c.w.w * (g - c.im.g0) + e) 1
    sext ((b.head?.map (fun x => x.1.toNat)).getD 0) 8

/-- Scale entry of local row `r` and group `g`. -/
def State.scaleEntry (s : State) (c : TCtx) (r g : Nat) : Elt :=
  let b := s.tblBytes c.d.p c.home (c.im.scoff + 256 * (c.im.ng * (r / 64) + (g - c.im.g0)) + 4 * (r % 64)) 4
  { val := leNat (b.map Prod.fst), rad := bitsOf (b.map Prod.snd) }

/-- Register of the accumulator tile that holds a slot of a lane (Table 06-2). -/
def tileReg (slot lane : Nat) : Nat := 16 + 4 * slot + lane / 16

/-- The partial of a slot and lane in the tile of fold `f`, with its raddle (R149). -/
def State.tileWord (s : State) (f slot lane : Nat) : Val :=
  let v := (s.vreg f (tileReg slot lane)).read
  { v := sext (fld v.data.toNat (32 * (lane % 16)) 32) 32,
    rad := (List.range 4).any (fun b => bit v.rad.toNat (4 * (lane % 16) + b)) }

/-- The tile as the drain leaves it: every word zero (R150). -/
def tileClear (f : Nat) : List (Nat × Nat × VReg) :=
  (rangeFrom 16 16).map (fun i => (f, i, { VReg.blank with st := .tile }))

/-- The product table of one k: an entry for each code, which the table latch holds for the step (R115, step 1, R124). -/
def State.prodTable (s : State) (c : TCtx) (g : Nat) (x : Elt) : List Int :=
  (List.range (codeEntries c.w.w)).map (fun e => (c.x.ty.toInt x.val - c.zx) * s.cbEntry c g e)

/-- Group sum of local row `r`, group `g`, column `col` (R115, step 2): the lookups of the group's codes add into the tile
word of the column's slot and the row's lane, which the drain hands over (R126, R149, R150). -/
def State.groupSum (s : State) (c : TCtx) (r g col : Nat) : Val :=
  (rangeFrom (64 * g) 64).foldl (fun (acc : Val) k =>
    let x := s.rdElt c.f c.d.did c.x (k + c.t.k * col)
    let w := s.rdElt c.f c.d.did c.w (c.codeAt r k)
    { v := acc.v + (s.prodTable c g x).getD w.val 0, rad := acc.rad || x.bad || w.bad }) (s.tileWord c.f (col % 4) (r % 64))

/-- The FP32 bits of an FP16 value. -/
def half32 (x : Nat) : Nat := (fmt32.encode (fmt16.decode (x % 65536))).1

/-- The scaled term (R128, R129); FP terms are FP32 bits. -/
def scaledTerm (fp : Bool) (gs : Int) (entry : Nat) : Int :=
  if fp then (f32mul (f32ofInt gs) (half32 entry) : Nat)
  else rneDiv (gs * (fld entry 0 16 : Nat)) (fld entry 16 6)

/-- Sum of two terms or leaves. -/
def addAcc (fp : Bool) (a b : Int) : Int := if fp then (f32add a.toNat b.toNat : Nat) else a + b

/-- Leaf of local row `r`, sheaf `sh`, column `col` (R115, step 4). -/
def State.leaf (s : State) (c : TCtx) (r sh col : Nat) : Val :=
  let gs := rangeFrom (16 * sh) (sheafCodes c.t.k sh / 64)
  let ts := gs.map (fun g =>
    let x := s.groupSum c r g col
    let e := s.scaleEntry c r g
    ({ v := scaledTerm c.a.fp x.v e.val, rad := x.rad || e.bad } : Val))
  { v := ts.foldl (fun acc t => addAcc c.a.fp acc t.v) 0, rad := ts.any (fun t => t.rad) || c.im.bad }

/-! ### The tree (R130 to R132) -/

/-- One level of the tree. -/
def pairUp (fp : Bool) : List Int → List Int
  | a :: b :: r => addAcc fp a b :: pairUp fp r
  | l => l

/-- Levels of the tree, `n` of them. -/
def treeUp (fp : Bool) : Nat → List Int → Int
  | 0, l => l.head?.getD 0
  | n + 1, l => treeUp fp n (pairUp fp l)

/-- Levels that S leaves need. -/
def treeDepth (s : Nat) : Nat := if s ≤ 1 then 0 else Nat.log2 (s - 1) + 1

/-- A(n, t) of the leaves in sheaf order (R130). -/
def treeSum (fp : Bool) (l : List Int) : Int :=
  let n := treeDepth l.length
  treeUp fp n (l ++ List.replicate (2 ^ n - l.length) 0)

/-- A list in an order chosen freely, from choice `k` on. -/
def freeOrder {α : Type} : Nat → Nat → List α → List α
  | 0, _, l => l
  | n + 1, k, l =>
    let i := Config.freeChoice k % l.length
    (l[i]?).toList ++ freeOrder n (k + 1) (l.eraseIdx i)

/-- A(n, t): the tree, or under RELAXED a running sum of the fold's own leaves and then the others as they arrive
(R132); `k` is the first free choice it may use. -/
def accumulate (a : TParams) (own others all : List Int) (k : Nat) : Int :=
  if a.relaxed then (own ++ freeOrder others.length k others).foldl (addAcc true) 0 else treeSum a.fp all

/-! ### Statistics records (R137 to R139) -/

/-- A statistics record; `e` and `cval`, `ofs` as stored bits. -/
structure Chan where
  e      : Nat
  const  : Bool
  seen   : Bool
  diff   : Bool
  pseq   : Nat
  satcnt : Nat
  rmax   : Nat
  cval   : Nat
  ofs    : Nat
  rest   : Nat
  deriving DecidableEq, Repr

/-- Read a record; reserved bits are kept in `rest`. DESIGN CHOICE (log 66): a record is software's, which initialises it, so
an update writes its reserved bits back as it read them. -/
def Chan.of (x : Nat) : Chan :=
  { e := fld x 0 8, const := bit x 8, seen := bit x 9, diff := bit x 10, pseq := fld x 16 16, satcnt := fld x 32 32,
    rmax := fld x 64 16, cval := fld x 80 48, ofs := fld x 128 48,
    rest := place (fld x 11 5) 11 5 + place (fld x 176 80) 176 80 }

/-- The record's 256 bits. -/
def Chan.bits (c : Chan) : Nat :=
  c.rest + place c.e 0 8 + place (b2n c.const) 8 1 + place (b2n c.seen) 9 1 + place (b2n c.diff) 10 1 +
    place c.pseq 16 16 + place c.satcnt 32 32 + place c.rmax 64 16 + place c.cval 80 48 + place c.ofs 128 48

/-- The adaptive update at a channel's first use in a new period (R138). -/
def Chan.update (c : Chan) (a : TParams) (fs period : Nat) : Chan :=
  if c.pseq = period % 65536 then c
  else
    let e0 := sext c.e 8
    let k := c.seen && !c.diff
    let e1 : Int := if k then a.floor
      else if a.satLim < c.satcnt then e0 + 1
      else if c.seen && decide (8 * c.rmax < fs) then e0 - 1
      else e0
    { c with e := toBits (clampI e1 a.floor a.ceil) 8, ofs := if k then c.cval else 0, const := k, satcnt := 0,
             rmax := 0, seen := false, diff := false, pseq := period % 65536 }

/-- An unraddled output enters its record (R139). -/
def Chan.enter (c : Chan) (acc : Nat) (r : Requant) : Chan :=
  { c with
    cval := if c.seen then c.cval else acc
    seen := true
    diff := c.diff || (c.seen && c.cval ≠ acc)
    satcnt := if r.sat then Nat.min 0xFFFFFFFF (c.satcnt + 1) else c.satcnt
    rmax := Nat.min 65535 (Nat.max c.rmax r.mag) }

/-- The two's complement or FP32 bits of an accumulator, as CVAL holds it. -/
def accBits (fp : Bool) (v : Int) : Nat := if fp then v.toNat else toBits v 48

/-- Requantise one accumulator with the state of its channel (R133, R134). -/
def requantOne (fp : Bool) (ty : ETy) (a : TParams) (c : Option Chan) (v : Int) (dither : Option (BitVec 64)) : Requant :=
  let e : Int := match c with
    | some r => clampI (sext r.e 8) a.floor a.ceil
    | none => 0
  let ofs := match c with
    | some r => r.ofs
    | none => 0
  if fp then requantFp ty v.toNat (fld ofs 0 32) a.oscale e a.zo dither
  else requantInt ty v (sext ofs 48) (fld a.oscale 0 16) (((fld a.oscale 16 6 : Nat) : Int) + e).toNat a.zo dither

/-- What the outputs of one channel in one unit give: the elements, and the record as it ends. -/
structure ChanOut where
  elts  : List (Nat × Elt)
  stat  : Option Chan
  sat   : Bool
  const : Bool
  deriving DecidableEq, Repr

/-- One more output of a channel: DST index `l`, accumulator `v`. -/
def chanStep (fp : Bool) (y : Grat) (a : TParams) (d : Desc) (recBad : Bool) (o : ChanOut) (l : Nat) (v : Val) : ChanOut :=
  if y.ty = .s48 ∨ y.ty = .fp32 then
    { o with elts := o.elts ++ [(l, { val := accBits fp v.v, rad := radAll y.w v.rad })] }
  else
    let fs := if y.w = 8 then 127 else 32767
    let c := o.stat.map (fun r => r.update a fs d.period)
    let dither := if a.rnd then some (dg64 d.seed (BitVec.ofNat 64 d.step) (BitVec.ofNat 64 l)) else none
    let r := requantOne fp y.ty a c v.v dither
    let bad := v.rad || recBad
    { elts := o.elts ++ [(l, { val := toBits r.y y.w, rad := radAll y.w bad })]
      stat := c.map (fun x => if bad then x else x.enter (accBits fp v.v) r)
      sat := o.sat || r.sat
      const := o.const || (c.map (fun x => x.const)).getD false }

/-- Offset of the record of channel `r` within a slice. -/
def recOfs (a : TParams) (r : Nat) : Nat := a.stats + 32 * r

/-- The outputs of one channel with its record on fold `h`, as a unit: (DST index, accumulator) in order. -/
def State.channel (s : State) (d : Desc) (fp : Bool) (y : Grat) (a : TParams) (f h r : Nat) (vs : List (Nat × Val)) : Out :=
  let raw := if a.adapt then s.ownBytes h (recOfs a r) 32 else []
  let recBad := raw.any Prod.snd
  let c0 := if a.adapt then some (Chan.of (leNat (raw.map Prod.fst))) else none
  let o := vs.foldl (fun acc x => chanStep fp y a d recBad acc x.1 x.2)
    { elts := [], stat := c0, sat := false, const := false }
  let recPieces := match s.phys h, o.stat with
    | some q, some c => ((List.range 32).zip (leBytes c.bits 32)).map (fun x =>
        ({ host := false, key := q * slice + (recOfs a r + x.1) % slice, mask := 0xFF, val := x.2.toNat, rad := recBad }
          : Piece))
    | _, _ => []
  { Out.none with
    pieces := o.elts.flatMap (fun x => s.eltPieces f y x.1 x.2) ++ recPieces
    cov := o.elts.map (fun x => d.covOf f y x.1 x.2)
    words := if a.adapt then s.ownWords h (recOfs a r) 32 else []
    sat := o.sat, constCh := o.const }

/-- Two units' outputs joined. -/
def Out.join (a b : Out) : Out :=
  { pieces := a.pieces ++ b.pieces, cov := a.cov ++ b.cov, words := a.words ++ b.words, clamps := a.clamps + b.clamps,
    dropped := a.dropped ++ b.dropped, sat := a.sat || b.sat, constCh := a.constCh || b.constCh,
    beats := a.beats ++ b.beats, free := a.free + b.free, install := a.install ++ b.install,
    marked := a.marked || b.marked, regs := a.regs ++ b.regs, events := a.events ++ b.events }

/-- All of a list joined. -/
def joinOuts (l : List Out) : Out := l.foldl Out.join Out.none

/-! ### Units of TPROD (R127, R131, R143, R144) -/

/-- Batches, and lane groups of `rows` rows. -/
def TLayout.batches (t : TLayout) : Nat := cdiv t.t 4

/-- Columns of batch `u`. -/
def TLayout.cols (t : TLayout) (u : Nat) : List Nat := rangeFrom (4 * u) (Nat.min 4 (t.t - 4 * u))

/-- Local rows of lane group `j` among `rows`. -/
def laneRows (rows j : Nat) : List Nat := (rangeFrom (64 * j) 64).filter (fun r => r < rows)

/-- Lane groups of a SPILL chunk. -/
def spillGroups (a : TParams) (k w : Nat) : Nat := Nat.max 1 (a.worksz / (64 * rowBytes k w))

/-- Number of the fold in its layout. -/
def TLayout.index (t : TLayout) (f : Nat) : Nat := t.folds.idxOf f

/-- The (home, batch, lane group) of each unit of fold number `i` in its order, the SHEAVES form apart. -/
def TLayout.order (t : TLayout) (p : Parsed) (i : Nat) : List (Nat × Nat × Nat) :=
  let a := TParams.ofAux p.aux
  let us := List.range t.batches
  if a.rotate then
    (List.range t.m).flatMap (fun h => us.flatMap (fun u =>
      (List.range (cdiv t.q 64)).map (fun j => ((i + h) % t.m, u, j))))
  else
    let groups := List.range (cdiv (t.nrows i) 64)
    if p.spill then
      (windows (spillGroups a t.k p.codeW) groups).flatMap (fun c => us.flatMap (fun u => c.map (fun j => (i, u, j))))
    else us.flatMap (fun u => groups.map (fun j => (i, u, j)))

/-- Units of the first phase of the SHEAVES form: every fold over all N rows. -/
def TLayout.phase1 (t : TLayout) : List (Nat × Nat) :=
  (List.range t.batches).flatMap (fun u => (List.range (cdiv t.n 64)).map (fun j => (u, j)))

/-- Units of the second phase on fold number `i`. -/
def TLayout.phase2 (t : TLayout) (i : Nat) : List (Nat × Nat) :=
  (List.range t.batches).flatMap (fun u => (List.range (cdiv (t.nrows i) 64)).map (fun j => (u, j)))

/-- Number of units of fold `f`. -/
def State.tUnits (s : State) (p : Parsed) (f : Nat) : Nat :=
  match s.tLayout p with
  | none => 0
  | some t =>
    let i := t.index f
    if (TParams.ofAux p.aux).sheaves then t.phase1.length + (t.phase2 i).length else (t.order p i).length

/-- Words with errors that a unit over local rows `rs` of one lane group and columns `cs` reads: codes, activations, the
codebooks of its groups and the four scale beats of each (R142). -/
def State.tWords (s : State) (c : TCtx) (rs cs : List Nat) (ks : List Nat) : List Nat :=
  if s.ecc.isEmpty then []
  else
    let base := (c.d.p.tbl.map (fun g => g.addr)).getD 0
    let gs := dedup (ks.map (fun k => k / 64))
    let e := codeEntries c.w.w
    rs.flatMap (fun r => ks.flatMap (fun k => s.errWords c.f c.w (c.codeAt r k))) ++
    cs.flatMap (fun t => ks.flatMap (fun k => s.errWords c.f c.x (k + c.t.k * t))) ++
    gs.flatMap (fun g =>
      (if c.im.ident then [] else s.ownWords c.home (base + c.im.cboff + e * (g - c.im.g0)) e) ++
      s.ownWords c.home (base + c.im.scoff + 256 * (c.im.ng * ((rs.headD 0) / 64) + (g - c.im.g0))) 256)

/-- DST index of global row `n`, column `t`, computed by fold number `i`. -/
def tDst (y : Grat) (a : TParams) (t : TLayout) (i n col : Nat) : Nat :=
  if a.rotate then n + t.n * (col + t.t * i) else n + y.sz 0 * col

/-- The bytes that the load of a SPILL chunk puts into the work area before unit `u` of fold number `i`. DESIGN CHOICE
(log 69): the rows of the chunk lie one after the other from WORK. -/
def State.spillLoad (s : State) (c : TCtx) (u : Nat) : List Piece :=
  let k := spillGroups c.a c.t.k c.w.w
  let seq := c.t.order c.d.p c.i
  let here := seq.getD u (0, 0, 0)
  let first := u = 0 || decide ((seq.getD (u - 1) (0, 0, 0)).2.2 / k ≠ here.2.2 / k)
  if !c.d.p.spill || !first then []
  else
    let ch := here.2.2 / k
    let rs := (rangeFrom (64 * k * ch) (64 * k)).filter (fun r => r < c.t.nrows c.i)
    match s.phys c.f with
    | none => []
    | some q => rs.flatMap (fun r =>
        (List.range (rowBytes c.t.k c.w.w)).map (fun b =>
          let per := 8 / c.w.w
          let es := (List.range per).map (fun x => s.rdElt c.f c.d.did c.w (c.codeAt r (b * per + x)))
          { host := false, key := q * slice + (c.a.work + (r - 64 * k * ch) * rowBytes c.t.k c.w.w + b) % slice,
            mask := 0xFF, val := sumN (((List.range per).zip es).map (fun x => place x.2.val (x.1 * c.w.w) c.w.w)),
            rad := es.any Elt.bad }))

/-- The slice that a fold receives into its work area for a round of ROTATE: the codes and the scale entries of the slice that
it computes against, with their raddle (R143, R253, R336). DESIGN CHOICE (log 69): the rows of codes lie one after the other
from WORK, the scale area of the image behind them. -/
def State.rotateIn (s : State) (c : TCtx) : List Piece :=
  match s.phys c.f, s.phys c.home, c.d.p.tbl with
  | some q, some _, some tb =>
    let rb := rowBytes c.t.k c.w.w
    let codes := (List.range (c.t.nrows c.i)).flatMap (fun r => (List.range rb).map (fun b =>
      let per := 8 / c.w.w
      let es := (List.range per).map (fun x => s.rdElt c.f c.d.did c.w (c.codeAt r (b * per + x)))
      (r * rb + b, sumN (((List.range per).zip es).map (fun x => place x.2.val (x.1 * c.w.w) c.w.w)), es.any Elt.bad)))
    let size := 256 * c.im.ng * cdiv c.im.rows 64
    let scales := ((List.range size).zip (s.ownBytes c.home (tb.addr + c.im.scoff) size)).map (fun x =>
      (c.t.q * rb + x.1, x.2.1.toNat, x.2.2))
    (codes ++ scales).filterMap (fun x =>
      if x.1 < c.a.worksz then
        some { host := false, key := q * slice + (c.a.work + x.1) % slice, mask := 0xFF, val := x.2.1, rad := x.2.2 }
      else none)
  | _, _, _ => []

/-- A unit of TPROD outside the SHEAVES form. DESIGN CHOICE (log 70): under ROTATE with ADAPT an output uses the statistics
record of its row's home fold, and the folds' outputs of one round enter it fold by fold in ascending number. -/
def State.tprodRows (s : State) (d : Desc) (f u : Nat) : Out :=
  match s.tLayout d.p, d.p.dst with
  | some t, some y =>
    let i := t.index f
    let seq := t.order d.p i
    let un := seq.getD u (0, 0, 0)
    match s.tctx d f un.1 with
    | none => Out.none
    | some c =>
      let rows := laneRows (t.nrows un.1) un.2.2
      let cols := t.cols un.2.1
      let shs := List.range (sheavesOf t.k)
      let outs := rows.map (fun r =>
        let vs := cols.map (fun col =>
          let ls := shs.map (fun sh => s.leaf c r sh col)
          let all := ls.map (fun l => l.v)
          (tDst y c.a t i (un.1 * t.q + r) col,
            ({ v := accumulate c.a all [] all 0, rad := ls.any (fun l => l.rad) } : Val)))
        s.channel d c.a.fp y c.a f c.home r vs)
      (joinOuts outs).join { Out.none with
        pieces := s.spillLoad c u, words := s.tWords c rows cols (List.range t.k), regs := tileClear f
        events := s.vfileUe f (rangeFrom 16 16) }
  | _, _ => Out.none

/-- Address in the work area of a leaf (R131): local row `r`, column `col`, sheaf `sh`. -/
def leafOfs (a : TParams) (t : TLayout) (r col sh : Nat) : Nat :=
  a.work + leafBytes a.fp * (64 * (sheavesOf t.k * (t.t * (r / 64) + col) + sh) + r % 64)

/-- The pieces of one leaf in the work area of its collecting fold. -/
def State.leafPieces (s : State) (a : TParams) (t : TLayout) (n col sh : Nat) (v : Val) : List Piece :=
  match s.phys ((t.folds[n / t.q]?).getD 64) with
  | none => []
  | some q => ((List.range (leafBytes a.fp)).zip (leBytes (accBits a.fp v.v) (leafBytes a.fp))).map (fun x =>
      { host := false, key := q * slice + (leafOfs a t (n % t.q) col sh + x.1) % slice, mask := 0xFF, val := x.2.toNat,
        rad := v.rad })

/-- Leaves of fold number `i` for some global rows and columns, with the pieces that store them. -/
def State.leavesOf (s : State) (c : TCtx) (rows cols : List Nat) : List Piece :=
  let sh := c.t.sheaves c.i
  rows.flatMap (fun n => cols.flatMap (fun col => (rangeFrom sh.1 (sh.2 - sh.1)).flatMap (fun k =>
    s.leafPieces c.a c.t n col k (s.leaf c n k col))))

/-- A unit of the first phase: the leaves of the fold's own rows go to its work area at once (R252). -/
def State.tprodLeaves (s : State) (d : Desc) (f u : Nat) : Out :=
  match s.tLayout d.p with
  | none => Out.none
  | some t =>
    let i := t.index f
    match s.tctx d f i with
    | none => Out.none
    | some c =>
      let un := t.phase1.getD u (0, 0)
      let mine := fun n => decide (n / t.q = i)
      let rows := laneRows t.n un.2
      let cols := t.cols un.1
      { Out.none with
        pieces := s.leavesOf c (rows.filter mine) cols
        words := s.tWords c rows cols (rangeFrom (i * t.kf) (Nat.min t.k ((i + 1) * t.kf) - i * t.kf))
        regs := tileClear f, events := s.vfileUe f (rangeFrom 16 16) }

/-! ### Ring transfers of a TPROD (R250, R252, R253) -/

/-- Units of one round of ROTATE. -/
def TLayout.round (t : TLayout) : Nat := t.batches * cdiv t.q 64

/-- Sender, receiver and round (0 in the SHEAVES form) of transfer number `k`, as numbers of the layout: transfers ascend in the
sending fold, and of one fold in the order in which it sends them. -/
def TLayout.leg (t : TLayout) (rotate : Bool) (k : Nat) : Nat × Nat × Nat :=
  let i := k / (t.m - 1)
  let r := k % (t.m - 1)
  if rotate then (i, (i + t.m - 1) % t.m, r) else (i, if r < i then r else r + 1, 0)

/-- Units that the sender and the receiver of a transfer must have committed before it starts: the sender's last sheaf, or
the round on both folds. -/
def TLayout.legAfter (t : TLayout) (rotate : Bool) (k : Nat) : Nat × Nat :=
  if rotate then
    let n := ((t.leg true k).2.2 + 1) * t.round
    (n, n)
  else (t.phase1.length, 0)

/-- What transfer number `k` puts into the receiving fold's work area: the leaves of its rows, or the next slice. -/
def State.legPieces (s : State) (d : Desc) (k : Nat) : List Piece :=
  match s.tLayout d.p with
  | none => []
  | some t =>
    let a := TParams.ofAux d.p.aux
    let g := t.leg a.rotate k
    let recv := (t.folds[g.2.1]?).getD 64
    if a.rotate then
      match s.tctx d recv ((g.2.1 + g.2.2 + 1) % t.m) with
      | some c => s.rotateIn c
      | none => []
    else
      match s.tctx d ((t.folds[g.1]?).getD 64) g.1 with
      | some c => s.leavesOf c (rangeFrom (g.2.1 * t.q) (t.nrows g.2.1)) (List.range t.t)
      | none => []

/-- Transfers that must have come before fold `f` computes its unit `u`. -/
def State.legsBefore (s : State) (p : Parsed) (f u : Nat) : List Nat :=
  match s.tLayout p with
  | none => []
  | some t =>
    let a := TParams.ofAux p.aux
    let all := List.range (t.m * (t.m - 1))
    let mine := fun (k : Nat) => decide ((t.leg a.rotate k).2.1 = t.index f)
    if a.sheaves then (if t.phase1.length ≤ u then all.filter mine else [])
    else if a.rotate then all.filter (fun k => mine k && decide (((t.leg true k).2.2 + 1) * t.round ≤ u))
    else []


/-- A leaf as the collecting fold reads it back. -/
def State.readLeaf (s : State) (a : TParams) (t : TLayout) (f r col sh : Nat) : Val :=
  let b := s.ownBytes f (leafOfs a t r col sh) (leafBytes a.fp)
  let x := leNat (b.map Prod.fst)
  { v := if a.fp then (x : Int) else sext x 48, rad := b.any Prod.snd }

/-- A unit of the second phase: the tree over the collected leaves and the requantisation. -/
def State.tprodCollect (s : State) (d : Desc) (f u : Nat) : Out :=
  match s.tLayout d.p, d.p.dst with
  | some t, some y =>
    let i := t.index f
    let a := TParams.ofAux d.p.aux
    let un := (t.phase2 i).getD u (0, 0)
    let own := t.sheaves i
    let ns := sheavesOf t.k
    let rows := laneRows (t.nrows i) un.2
    let cols := t.cols un.1
    let outs := rows.map (fun r =>
      let vs := cols.map (fun col =>
        let ls := (List.range ns).map (fun sh => s.readLeaf a t f r col sh)
        let isOwn := fun (x : Nat × Val) => decide (own.1 ≤ x.1 ∧ x.1 < own.2)
        let num := (List.range ns).zip ls
        let mine := (num.filter isOwn).map (fun x => x.2.v)
        let others := (num.filter (fun x => !isOwn x)).map (fun x => x.2.v)
        (tDst y a t i (i * t.q + r) col,
          ({ v := accumulate a mine others (ls.map (fun l => l.v)) (s.freeCtr + ns * (r % 64 + 64 * (col % 4))),
             rad := ls.any (fun l => l.rad) } : Val)))
      s.channel d a.fp y a f f r vs)
    (joinOuts outs).join { Out.none with
      words := rows.flatMap (fun r => cols.flatMap (fun col => (List.range ns).flatMap (fun sh =>
        s.ownWords f (leafOfs a t r col sh) (leafBytes a.fp))))
      free := if a.relaxed then 256 * ns else 0 }
  | _, _ => Out.none

/-- Unit `u` of a TPROD on fold `f`. -/
def State.tprodUnit (s : State) (d : Desc) (f u : Nat) : Out :=
  if (TParams.ofAux d.p.aux).sheaves then
    match s.tLayout d.p with
    | none => Out.none
    | some t =>
      if u < t.phase1.length then s.tprodLeaves d f u else s.tprodCollect d f (u - t.phase1.length)
  else s.tprodRows d f u

/-- Units at which the folds of a TPROD wait for each other: the leaves of a SHEAVES product before any fold collects, each
round of a ROTATE product before the next (R131, R253, R254). -/
def State.barriers (s : State) (p : Parsed) : List Nat :=
  match s.tLayout p with
  | some t =>
    let a := TParams.ofAux p.aux
    if p.opc ≠ some .tprod then []
    else if a.sheaves then [t.phase1.length]
    else if a.rotate then (List.range t.m).map (fun h => (h + 1) * t.round)
    else []
  | none => []

/-! ### Host lines that several commit units share (R127) -/

/-- DST elements of unit `u` of a TPROD on fold `f`. -/
def State.tUnitDst (s : State) (p : Parsed) (f u : Nat) : List Nat :=
  match s.tLayout p, p.dst with
  | some t, some y =>
    let a := TParams.ofAux p.aux
    let i := t.index f
    let els := fun (home col0 j : Nat) => (laneRows (t.nrows home) j).flatMap (fun r =>
      (t.cols col0).map (fun col => tDst y a t i (home * t.q + r) col))
    if a.sheaves then
      if u < t.phase1.length then []
      else
        let un := (t.phase2 i).getD (u - t.phase1.length) (0, 0)
        els i un.1 un.2
    else
      let un := (t.order p i).getD u (0, 0, 0)
      els un.1 un.2.1 un.2.2
  | _, _ => []

/-- Whether a unit of fold `f` after unit `u` puts an output into a host line. -/
def State.lineLater (s : State) (p : Parsed) (f u line : Nat) : Bool :=
  match p.dst with
  | none => false
  | some y => (rangeFrom (u + 1) (s.tUnits p f - (u + 1))).any (fun v =>
      (s.tUnitDst p f v).any (fun l => (linesOf (y.spanOf l)).contains line))

/-- The outputs of unit `u` of fold `f` whose lines a later unit shares go to the egress buffer; those held for a line that
no later unit shares are written with it. -/
def State.holdLines (s : State) (d : Desc) (f u : Nat) (o : Out) : State × Out :=
  if !(d.isOpc .tprod && (d.p.dst.map (fun g => !g.space)).getD false) then (s, o)
  else
    let eg := (s.lfold f).egress
    let mine := (eg.filter (fun x => decide (x.1 = d.did))).map Prod.snd ++ o.pieces.filter (fun p => p.host)
    let later := fun (p : Piece) => s.lineLater d.p f u (p.key / 64)
    (s.modL f (fun fo => { fo with
       egress := eg.filter (fun x => decide (x.1 ≠ d.did)) ++ (mine.filter later).map (fun p => (d.did, p)) }),
     { o with pieces := o.pieces.filter (fun p => !p.host) ++ mine.filter (fun p => !later p) })

/-! ### REQUANT (R136) -/

/-- A unit of REQUANT over the elements `ls`. -/
def State.requantUnit (s : State) (d : Desc) (f : Nat) (ls : List Nat) : Out :=
  match d.p.src0, d.p.dst with
  | some x, some y =>
    let a := TParams.ofAux d.p.aux
    let fp := x.ty = .fp32
    let chans := sortN (ls.map (fun l => l % x.sz 0))
    let outs := chans.map (fun r =>
      let vs := (ls.filter (fun l => l % x.sz 0 = r)).map (fun l =>
        let e := s.rdElt f d.did x l
        (l, ({ v := if fp then (e.val : Int) else sext e.val 48, rad := e.bad } : Val)))
      s.channel d fp y a f f r vs)
    (joinOuts outs).join { Out.none with words := ls.flatMap (s.errWords f x) }
  | _, _ => Out.none

/-! ### CBLOAD (R122) -/

/-- Whether a scale element breaks R121. -/
def scaleBad (fp : Bool) (e : Nat) : Bool := if fp then decide (fld e 16 16 ≠ 0) else decide (fld e 22 10 ≠ 0)

/-- The bytes of the codebook and scale areas that fold number `i` of `m` builds: offset in the image and byte. -/
def State.cbAreas (s : State) (d : Desc) (f m i : Nat) : List (Nat × Byte × Bool) :=
  let p := d.p
  let a := CbParams.ofAux p.aux
  let pt := cbPart a m i
  let e := cbEntries a.code
  let ng := pt.2.2.2
  let ident := p.src0.isNone
  let so := scoff ident ng e
  let cb := match p.src0 with
    | none => []
    | some g => (List.range (so - 64)).map (fun o =>
        if o < ng * e then
          let x := s.rdElt f d.did g (o + e * pt.2.2.1)
          (64 + o, BitVec.ofNat 8 x.val, x.bad)
        else (64 + o, Config.codebookPad o, false))
  let sc := match p.src1 with
    | none => []
    | some g => (List.range (64 * cdiv pt.2.1 64)).flatMap (fun r => (List.range ng).flatMap (fun k =>
        let x : Elt := if r < pt.2.1 then s.rdElt f d.did g (pt.2.2.1 + k + (a.k / 64) * (pt.1 + r)) else { val := 0, rad := 0 }
        (List.range 4).map (fun b =>
          (so + 256 * (ng * (r / 64) + k) + 4 * (r % 64) + b, BitVec.ofNat 8 (fld x.val (8 * b) 8), bit x.rad b))))
  cb ++ sc

/-- SRC1 elements of the image of fold number `i` of `m`, in logical order (R122). -/
def cbScales (p : Parsed) (m i : Nat) : List Nat :=
  let a := CbParams.ofAux p.aux
  let pt := cbPart a m i
  (List.range pt.2.1).flatMap (fun r => (List.range pt.2.2.2).map (fun k => pt.2.2.1 + k + (a.k / 64) * (pt.1 + r)))

/-- SRC0 elements of the image of fold number `i` of `m`. -/
def cbCodes (p : Parsed) (m i : Nat) : List Nat :=
  let a := CbParams.ofAux p.aux
  let pt := cbPart a m i
  rangeFrom (cbEntries a.code * pt.2.2.1) (cbEntries a.code * pt.2.2.2)

/-- Place in logical order of the first malformed scale element that fold number `i` of `m` meets. -/
def State.cbStopAt (s : State) (d : Desc) (f m i : Nat) : Option Nat :=
  match d.p.src1 with
  | none => none
  | some g => findIdx1 (fun l => scaleBad (CbParams.ofAux d.p.aux).fp (s.rdElt f d.did g l).val) (cbScales d.p m i) 0

/-- Whether fold number `i` of `m` meets a malformed scale element. -/
def State.cbBad (s : State) (d : Desc) (f m i : Nat) : Bool := (s.cbStopAt d f m i).isSome

/-- The header that fold number `i` of `m` writes (Table 05-3). -/
def cbHeader (p : Parsed) (m i : Nat) (digest : BitVec 64) : Nat :=
  let a := CbParams.ofAux p.aux
  let pt := cbPart a m i
  let ident := p.src0.isNone
  place a.k 0 32 + place a.nrows 32 32 + place pt.1 64 32 + place pt.2.1 96 32 + place pt.2.2.1 128 16 +
    place pt.2.2.2 144 16 + place a.code 160 2 + place (b2n a.fp) 162 1 + place (b2n ident) 163 1 +
    place (b2n a.sheaves) 164 1 + place 64 192 32 + place (scoff ident pt.2.2.2 (cbEntries a.code)) 224 32 +
    place digest.toNat 256 64 + 2 ^ 511

/-- Pieces of image bytes on fold `f`. -/
def State.imagePieces (s : State) (d : Desc) (f : Nat) (l : List (Nat × Byte × Bool)) : List Piece :=
  match d.p.dst with
  | none => []
  | some g => l.flatMap (fun x => s.eltPieces f g x.1 { val := x.2.1.toNat, rad := b2n x.2.2 })

/-- Covered elements of image bytes. -/
def Desc.imageCov (d : Desc) (f : Nat) (l : List (Nat × Byte × Bool)) : List Cov :=
  match d.p.dst with
  | none => []
  | some g => l.map (fun x => d.covOf f g x.1 { val := x.2.1.toNat, rad := b2n x.2.2 })

/-- Whether the image byte at offset `o` stands before scale element number `n` of the fold's part: the codebooks, and the
entries of the elements that precede it in logical order. -/
def cbBefore (p : Parsed) (m i n o : Nat) : Bool :=
  let a := CbParams.ofAux p.aux
  let ng := (cbPart a m i).2.2.2
  let so := scoff p.src0.isNone ng (cbEntries a.code)
  if o < so then true
  else
    let x := (o - so) / 256
    decide ((64 * (x / ng) + (o - so) % 256 / 4) * ng + x % ng < n)

/-- A unit of CBLOAD: unit 0 writes the areas, unit 1 the header. A fold that meets a malformed scale element has written its
codebooks and the entries before that element, and leaves its header as it was. DESIGN CHOICE (log 68): the codebooks are
written before the first scale entry. -/
def State.cbloadUnit (s : State) (d : Desc) (f u : Nat) : Out :=
  let m := d.folds.length
  let i := d.folds.idxOf f
  let stop := s.cbStopAt d f m i
  let bad := stop.isSome
  let read := match stop with | some n => (cbScales d.p m i).take (n + 1) | none => cbScales d.p m i
  let words := (match d.p.src0 with | some g => (cbCodes d.p m i).flatMap (s.errWords f g) | none => []) ++
    (match d.p.src1 with | some g => read.flatMap (s.errWords f g) | none => [])
  if u = 0 then
    let l := s.cbAreas d f m i
    let kept := match stop with
      | some n => l.filter (fun x => cbBefore d.p m i n x.1)
      | none => l
    { Out.none with pieces := s.imagePieces d f kept, cov := d.imageCov f kept, words := words }
  else if bad then Out.none
  else
    match d.p.dst with
    | none => Out.none
    | some g =>
      let n := (s.cbAreas d f m i).length
      let dg := pd64 ((s.ownBytes f (g.addr + 64) n).map Prod.fst)
      let h := ((List.range 64).zip (leBytes (cbHeader d.p m i dg) 64)).map (fun x => (x.1, x.2, false))
      { Out.none with pieces := s.imagePieces d f h, cov := d.imageCov f h }

end Sys2Proof.Machine
end

