-- ==== Sys2Proof/Machine/Neural.lean ====
section
/-!
DEFINITION. Traffic with the neural engine: the beats of DELIVER on the NE ports (R94 to R96, R270) and the drain beats
of COLLECT on the NR ports (R195, R271).
-/
namespace Sys2Proof.Machine

/-- The elements in byte `x` of a block, as (r0, r1, bit position) (Table 03-2 inverted). -/
def blockElts (proj x : Nat) : List (Nat × Nat × Nat) :=
  match proj with
  | 0x01 => [(4 * (x / 64) + x % 4, (x % 64) / 4, 0)]
  | 0x02 => [((x % 32) / 2, 2 * (x / 32) + x % 2, 0)]
  | _ => [(2 * (x % 16), x / 16, 0), (2 * (x % 16) + 1, x / 16, 4)]

/-- Multi-indices of the first elements of a graticule's blocks, in the order of R96. -/
def Grat.blockFirsts (g : Grat) : List (List Nat) :=
  (boxes g.blocks).map (fun q => match q with
    | q0 :: q1 :: r => q0 * g.block.b0 :: q1 * g.block.b1 :: r
    | l => l)

/-- Number of 64-byte beats of a block. -/
def Grat.blockBeats (g : Grat) : Nat := g.block.bytes / 64

/-- One byte of a delivered block: its value from the elements it holds, pads zero (R68). -/
def blockByteVal (g : Grat) (first : List Nat) (elt : Nat → Elt) (x : Nat) : Nat × Bool :=
  let es := (blockElts g.proj x).map (fun e =>
    let i := match first with
      | i0 :: i1 :: r => (i0 + e.1) :: (i1 + e.2.1) :: r
      | l => l
    if ((i.zip g.size).all (fun y => decide (y.1 < y.2))) then
      let v := elt (flat g.size i)
      (v.val <<< e.2.2, v.bad)
    else (0, false))
  (sumN (es.map Prod.fst), es.any Prod.snd)

/-- The beats of one block on an NE port. DESIGN CHOICE (log 76): a block whose origin lies below zero (a negative STRIDE) goes out as
one of origin zero, and an offset keeps its low 26 bits. -/
def blockOut (port : Nat) (g : Grat) (first : List Nat) (elt : Nat → Elt) : List NeOut :=
  (List.range g.blockBeats).map (fun j =>
    let bs := (List.range 64).map (fun k => blockByteVal g first elt (64 * j + k))
    NeOut.beat port (BitVec.ofNat 26 ((g.org first).toNat / 64 + j))
      (BitVec.ofNat 512 (leNat (bs.map (fun b => BitVec.ofNat 8 b.1)))) (j + 1 = g.blockBeats) (bs.any Prod.snd))

/-- A unit of DELIVER over the DST elements `ls` of one tile. -/
def State.deliverUnit (s : State) (d : Desc) (f : Nat) (ls : List Nat) : Out :=
  match d.p.src0, d.p.dst with
  | some a, some b =>
    let elt := fun l => s.rdElt f d.did a l
    let firsts := b.blockFirsts.filter (fun i => ls.contains (flat b.size i))
    { Out.none with
      cov := (sortN ls).map (fun l => d.covOf f b l (elt l))
      words := ls.flatMap (s.errWords f a)
      beats := firsts.flatMap (fun i => blockOut (fld d.p.aux 0 2) b i elt) }
  | _, _ => Out.none

/-! ### COLLECT -/

/-- Distinct lines of a LIN drain in rising order. -/
def Grat.drainLines (g : Grat) : List Nat := sortN ((List.range g.count).flatMap (fun l => linesOf (g.spanOf l)))

/-- The beats that a COLLECT expects, as (offset [31:6], LAST) in order (R195, Table 10-6). -/
def Grat.drainBeats (g : Grat) : List (Nat × Bool) :=
  if g.lin then
    let l := g.drainLines
    ((List.range l.length).zip l).map (fun x => (x.2, decide (x.1 + 1 = l.length)))
  else g.blockFirsts.flatMap (fun i => (List.range g.blockBeats).map (fun j =>
    ((g.org i).toNat / 64 + j, decide (j + 1 = g.blockBeats))))

/-- Place among the drain beats of the beat that holds byte `b` of element `l`. -/
def Grat.beatOf (g : Grat) (l b : Nat) : Nat :=
  if g.lin then g.drainLines.idxOf (((g.bitAt l).toNat / 8 + b) / 64)
  else
    let i := decomp g.size l
    let q := flat g.blocks (match i with
      | i0 :: i1 :: r => i0 / g.block.b0 :: i1 / g.block.b1 :: r
      | x => x)
    q * g.blockBeats + ((g.bitAt l).toNat / 8 - (g.org i).toNat + b) / 64

/-- Element `l` of the drain as received. -/
def Desc.drainElt (d : Desc) (g : Grat) (l : Nat) : Elt :=
  let n := Nat.max 1 (g.w / 8)
  let bs := (List.range n).map (fun b =>
    let bt := d.drain.getD (g.beatOf l b) { data := 0, rad := true }
    (bt.data.extractLsb' (8 * (((g.bitAt l).toNat / 8 + b) % 64)) 8, bt.rad))
  if g.w < 8 then
    let x := bs.headD (0, true)
    { val := fld x.1.toNat ((g.bitAt l).toNat % 8) g.w, rad := b2n x.2 }
  else { val := leNat (bs.map Prod.fst), rad := bitsOf (bs.map Prod.snd) }

/-- Beats that must have arrived before a unit commits. -/
def Grat.needs (g : Grat) (ls : List Nat) : Nat :=
  maxN (ls.flatMap (fun l => (List.range (Nat.max 1 (g.w / 8))).map (fun b => g.beatOf l b + 1)))

/-- A unit of COLLECT over the elements `ls`. -/
def State.collectUnit (s : State) (d : Desc) (f : Nat) (ls : List Nat) : Out :=
  match d.p.src0, d.p.dst with
  | some a, some b =>
    let es := ls.map (fun l => (l, d.drainElt a l))
    { Out.none with
      pieces := es.flatMap (fun x => s.eltPieces f b x.1 x.2)
      cov := es.map (fun x => d.covOf f b x.1 x.2) }
  | _, _ => Out.none

/-- Units of a COLLECT whose beats have all arrived. -/
def Desc.collectReady (d : Desc) (us : List (List Nat)) : Nat :=
  match d.p.src0 with
  | some a => (us.takeWhile (fun u => decide (a.needs u ≤ d.drain.length))).length
  | none => 0

end Sys2Proof.Machine
end

