-- ==== Sys2Proof/Machine/VectorFile.lean ====
section
/-!
DEFINITION. The vector file (chapter 06): register elements, the units of VLOAD, VSTORE, VMOVE and RELEASE, the start
checks and the file mode.
-/
namespace Sys2Proof.Machine

/-! ### Registers (R147) -/

/-- Element `c` of width `w` of a register. -/
def VReg.elt (v : VReg) (w c : Nat) : Elt :=
  let lane := w * c / 8
  { val := fld v.data.toNat (w * c) w,
    rad := bitsOf ((List.range (Nat.max 1 (w / 8))).map (fun b => bit v.rad.toNat (lane + b))) }

/-- Place an element in a register. -/
def VReg.put (v : VReg) (w c : Nat) (e : Elt) : VReg :=
  let lane := w * c / 8
  { v with data := v.data ||| BitVec.ofNat 512 (place e.val (w * c) w),
           rad := v.rad ||| BitVec.ofNat 64 (sumN ((List.range (Nat.max 1 (w / 8))).map (fun b =>
             if bit e.rad b && !bit v.rad.toNat (lane + b) then 2 ^ (lane + b) else 0))) }

/-! ### VLOAD (R152, R157) -/

/-- Register type of a view. -/
def VParams.ty (v : VParams) : ETy := (ETy.ofCode v.rtype).getD .u8

/-- The elements of register `VR + k` of a view, as (position, memory index). -/
def VParams.row (v : VParams) (g : Grat) (k : Nat) : List (Nat × Nat) :=
  if v.trans then
    if k < g.sz 0 then (List.range (g.sz 1)).map (fun r => (r, k + g.sz 0 * r)) else []
  else if k < g.sz 1 then (List.range (g.sz 0)).map (fun c => (c, c + g.sz 0 * k)) else []

/-- The register that row `k` of a VLOAD fills, and whether an element saturated. -/
def State.loadRow (s : State) (d : Desc) (f : Nat) (g : Grat) (v : VParams) (k : Nat) : VReg × Bool :=
  (v.row g k).foldl (fun (acc : VReg × Bool) x =>
    let e := s.rdElt f d.did g x.2
    let c := if g.ty = v.ty then (e.val, false) else convertElem g.ty v.ty e.val
    let rad := if g.ty = v.ty then e.rad else radAll v.ty.width e.bad
    (acc.1.put v.ty.width x.1 { val := c.1, rad := rad }, acc.2 || c.2))
    ({ VReg.blank with st := .loading }, false)

/-- Units of a VLOAD: its rows, or one with TRANS. -/
def VParams.loadUnits (v : VParams) (g : Grat) : Nat := if v.trans then 1 else g.sz 1

/-- A unit of VLOAD. The last one commits: every register of the view becomes FULL. -/
def State.vloadUnit (s : State) (d : Desc) (f u : Nat) : Out :=
  match d.p.src0 with
  | none => Out.none
  | some g =>
    let v := VParams.ofAux d.p.aux
    let n := v.loadUnits g
    let rows := if v.trans then List.range v.nreg else [u]
    let new := rows.map (fun k => (k, s.loadRow d f g v k))
    let now := fun k => match new.find? (fun x => x.1 = k) with
      | some x => x.2.1
      | none => if k < n then s.vreg f (v.vr + k) else VReg.blank
    { Out.none with
      regs := if u + 1 = n then (List.range v.nreg).map (fun k => (f, v.vr + k, { now k with st := .full }))
        else new.map (fun x => (f, v.vr + x.1, x.2.1))
      words := rows.flatMap (fun k => (v.row g k).flatMap (fun x => s.errWords f g x.2))
      sat := new.any (fun x => x.2.2) }

/-! ### VSTORE, VMOVE, RELEASE -/

/-- The unit of a VSTORE (R153): its elements in ascending logical index (R55). -/
def State.vstoreUnit (s : State) (d : Desc) (f : Nat) : Out :=
  match d.p.dst with
  | none => Out.none
  | some g =>
    let v := VParams.ofAux d.p.aux
    let rs := rangeFrom v.vr v.nreg
    let all := (List.range v.nreg).flatMap (fun k => (v.row g k).map (fun x =>
      let e := ((s.vreg f (v.vr + k)).read).elt v.ty.width x.1
      if v.ty = g.ty then (x.2, e, false)
      else
        let c := convertElem v.ty g.ty e.val
        (x.2, ({ val := c.1, rad := radAll g.w e.bad } : Elt), c.2)))
    let es := (sortN (all.map Prod.fst)).filterMap (fun l => all.find? (fun x => decide (x.1 = l)))
    { Out.none with
      pieces := es.flatMap (fun x => s.eltPieces f g x.1 x.2.1)
      cov := es.map (fun x => d.covOf f g x.1 x.2.1)
      sat := es.any (fun x => x.2.2)
      regs := s.vfileFix f rs, events := s.vfileUe f rs }

/-- The unit of a register-form VMOVE (R158): every source register is read before any destination is written. -/
def State.vmoveUnit (s : State) (d : Desc) (f : Nat) : Out :=
  let v := VParams.ofAux d.p.aux
  let rs := rangeFrom v.vr v.nreg
  { Out.none with
    regs := s.vfileFix f rs ++ (List.range v.nreg).map (fun k =>
      (v.dfold, v.vrd + k, { (s.vreg f (v.vr + k)).read with st := .full }))
    events := s.vfileUe f rs }

/-- The unit of a RELEASE (R161). -/
def Desc.releaseUnit (d : Desc) (f : Nat) : Out :=
  { Out.none with
    regs := ((List.range 32).filter (fun i => bit (VParams.ofAux d.p.aux).rmask i)).map (fun i => (f, i, VReg.blank)) }

/-! ### File mode and start checks (R148, R151) -/

/-- A fold changes to the file mode that a descriptor names (R148). -/
def Fold.toMode (acc : Bool) (fo : Fold) : Fold :=
  if fo.acc = acc then fo
  else if acc then
    { fo with acc := true,
              vregs := (rangeFrom 16 16).foldl (fun m i => sset VReg.blank m i { VReg.blank with st := .tile }) fo.vregs }
  else { fo.empty (rangeFrom 16 16) with acc := false }

/-- The start checks that read the vector file (Table 06-3): the change to ACC over a FULL register, and a source register
that is not FULL. -/
def State.fileOk (s : State) (d : Desc) (fs : List Nat) : Bool :=
  let p := d.p
  let v := VParams.ofAux p.aux
  (fs.all (fun f => !p.fmode || (s.lfold f).acc ||
    (rangeFrom 16 16).all (fun i => decide ((s.vreg f i).st ≠ .full)))) &&
  (match p.opc, fs with
   | some .vstore, _ => fs.all (fun f => (rangeFrom v.vr v.nreg).all (fun i => decide ((s.vreg f i).st = .full)))
   | some .vmove, f :: _ => bit p.pres 0 || (rangeFrom v.vr v.nreg).all (fun i => decide ((s.vreg f i).st = .full))
   | _, _ => true)

/-- What a VLOAD's start leaves: its target registers LOADING, their old contents given up (R166). -/
def Fold.startLoad (v : VParams) (fo : Fold) : Fold :=
  let new : VReg := { VReg.blank with st := .loading }
  { fo with vregs := (rangeFrom v.vr v.nreg).foldl (fun m i => sset VReg.blank m i new) fo.vregs }

/-- What the completion of a descriptor with REL releases: its source registers, but for those that a VMOVE also wrote
(R157, R158). -/
def Desc.relRegs (d : Desc) : List Nat :=
  let p := d.p
  let v := VParams.ofAux p.aux
  match p.opc with
  | some .vstore => if v.rel then rangeFrom v.vr v.nreg else []
  | some .vmove =>
    if v.rel && !bit p.pres 0 then
      (rangeFrom v.vr v.nreg).filter (fun i => !(d.folds.head? = some v.dfold && (rangeFrom v.vrd v.nreg).contains i))
    else []
  | _ => []

end Sys2Proof.Machine
end

