-- ==== Sys2Proof/Machine/Lines.lean ====
section
/-!
DEFINITION. The host lines that a unit reads and writes, in the order in which its drover asks for them (R62, R109, R127,
R238 to R240, R255, R386).
-/
namespace Sys2Proof.Machine

/-- A host line of a unit. Lines of a later stage are asked for once those of the earlier ones have landed: 0 the index lines
of the check pass of STRICT, 1 indices, sources and streams, 2 data that the indices name, 3 the lines that a SCATTER merges
into (R386). `noalloc` is the hint of the graticule (R44). -/
structure HLine where
  line    : Nat
  stage   : Nat
  noalloc : Bool
  deriving DecidableEq, Repr

/-- Lines with the stage and the hint of their graticule. -/
def mkLines (stage : Nat) (g : Grat) (l : List Nat) : List HLine :=
  l.map (fun x => { line := x, stage := stage, noalloc := g.noalloc })

/-- Lines of the runs of some elements (R62). -/
def Grat.runLines (g : Grat) (ls : List Nat) : List Nat := if g.space then [] else (g.spans ls).flatMap linesOf

/-- Lines of a window, each once, in the order of the first position that touches them (R109). -/
def Grat.winLines (g : Grat) (ls : List Nat) : List Nat := if g.space then [] else windowLines (ls.map g.spanOf)

/-- Lines that a run reaches with the elements `now` and has not reached with the elements `before`. -/
def Grat.newLines (g : Grat) (before now : List Nat) : List Nat :=
  (g.runLines before).foldl (fun l x => l.erase x) (g.runLines now)

/-- The elements before a unit and those up to its end. A unit that is read anew stands alone (R165, R166). -/
def Desc.reach (d : Desc) (f : Nat) (us : List (List Nat)) (u : Nat) : List Nat × List Nat :=
  if d.redo.contains (f, u) then ([], us.getD u []) else ((us.take u).flatten, (us.take (u + 1)).flatten)

/-- Lines of codes that the load of a SPILL chunk reads before unit `u` (R144, R255). -/
def State.chunkLines (s : State) (d : Desc) (f u : Nat) : List HLine :=
  match s.tLayout d.p, d.p.src1 with
  | some t, some w =>
    let a := TParams.ofAux d.p.aux
    let i := t.index f
    let k := spillGroups a t.k w.w
    let seq := t.order d.p i
    let ch := fun (v : Nat) => (seq.getD v (0, 0, 0)).2.2 / k
    if d.p.spill && (u = 0 || decide (ch (u - 1) ≠ ch u)) then
      let lo := 64 * k * ch u
      mkLines 1 w (w.runLines (codeElems t.k t.q i lo (Nat.min (t.nrows i) (lo + 64 * k))))
    else []
  | _, _ => []

/-- Number of the SPILL chunk of unit `u` of fold `f`; 0 elsewhere. -/
def State.chunkOf (s : State) (p : Parsed) (f u : Nat) : Nat :=
  match s.tLayout p, p.src1 with
  | some t, some w =>
    if p.spill then (((t.order p (t.index f)).getD u (0, 0, 0)).2.2) / spillGroups (TParams.ofAux p.aux) t.k w.w else 0
  | _, _ => 0

/-- Lines that a GATHER or SCATTER window reads. -/
def State.gsReads (s : State) (d : Desc) (f : Nat) (us : List (List Nat)) (u : Nat) : List HLine :=
  let p := d.p
  let ls := us.getD u []
  let r := d.reach f us u
  let ixs := fun l => sortN (l.flatMap p.idxAt)
  let idx := match p.idx with
    | some x => (if p.strict && u = 0 then mkLines 0 x (x.runLines (ixs us.flatten)) else []) ++
        mkLines 1 x (x.newLines (ixs r.1) (ixs r.2))
    | none => []
  let hits := ls.map (s.hit p f d.did)
  match p.src0, p.dst with
  | some a, some b =>
    if p.opc = some .scatter then
      idx ++ mkLines 1 a (a.newLines r.1 r.2) ++
        (if p.hostSub then mkLines 3 b (b.winLines ((hits.filter (fun h => !h.bad)).map (fun h => h.at_))) else [])
    else idx ++ mkLines 2 a (a.winLines (hits.map (fun h => h.at_)))
  | _, _ => idx

/-- Lines that a unit of an element-wise descriptor reads, by its path (Table 03-5). -/
def Desc.pathReads (d : Desc) (f : Nat) (us : List (List Nat)) (u : Nat) : List HLine :=
  let p := d.p
  let ls := us.getD u []
  let r := d.reach f us u
  p.sources.flatMap (fun x =>
    let at_ := fun l => if p.opc = some .digest then l else p.srcAt x.1 l
    mkLines 1 x.2 (match p.path with
      | .run => x.2.newLines (at_ r.1) (at_ r.2)
      | .shear | .tile => x.2.runLines (at_ ls)
      | .gather => (p.pathWindows ls).flatMap (fun v =>
          x.2.winLines ((v.map p.srcIndex).filterMap (fun y => if y.1 = x.1 then some y.2 else none)))))

/-- Lines that unit `u` of fold `f` is the first of its share to read. -/
def State.unitReads (s : State) (d : Desc) (f : Nat) (us : List (List Nat)) (u : Nat) : List HLine :=
  let p := d.p
  match p.opc with
  | none => []
  | some o =>
    match o with
    | .copy | .transpose | .permute | .convert | .pack | .unpack | .digest | .deliver => d.pathReads f us u
    | .gather | .scatter => s.gsReads d f us u
    | .tprod => s.chunkLines d f u
    | .cbload =>
      let m := d.folds.length
      let i := d.folds.idxOf f
      if u = 0 then
        (match p.src0 with | some g => mkLines 1 g (g.runLines (cbCodes p m i)) | none => []) ++
        (match p.src1 with | some g => mkLines 1 g (g.runLines (sortN (cbScales p m i))) | none => [])
      else []
    | .vload =>
      (match p.src0 with
       | some g =>
         let v := VParams.ofAux p.aux
         let rows := fun (n : Nat) => List.range (if v.trans then g.count else n * g.sz 0)
         let before := if d.redo.contains (f, u) || u = 0 then [] else rows u
         let now := if d.redo.contains (f, u) && !v.trans then rangeFrom (u * g.sz 0) (g.sz 0) else rows (u + 1)
         mkLines 1 g (g.newLines before now)
       | none => [])
    | .requant | .shuffle | .collect | .vstore | .vmove | .release | .route | .fence | .gate | .tally | .cancel | .planload
    | .seedset | .nop => []

/-- Lines that unit `u` of fold `f` writes. -/
def State.unitWrites (s : State) (d : Desc) (f : Nat) (us : List (List Nat)) (u : Nat) : List HLine :=
  let p := d.p
  let ls := us.getD u []
  let r := d.reach f us u
  match p.opc, p.dst with
  | some o, some b =>
    if b.space || portSlot o 3 then []
    else mkLines 0 b (match o with
      | .tprod =>
        (dedup ((s.tUnitDst p f u).flatMap (fun l => linesOf (b.spanOf l)))).filter (fun l => !s.lineLater p f u l)
      | .scatter =>
        let hits := ls.map (s.hit p f d.did)
        if p.ordered then orderedLines none (hits.map (fun h => if h.bad then none else some (b.bitsAt h.at_)))
        else b.winLines ((hits.filter (fun h => !h.bad)).map (fun h => h.at_))
      | .vstore => b.runLines (List.range b.count)
      | _ =>
        if o = .collect && p.path = .gather && !(p.src0.any (fun a => a.lin)) then (p.pathWindows ls).flatMap b.winLines
        else if p.path = .shear || p.path = .tile then b.runLines (sortN ls) else b.newLines (sortN r.1) (sortN r.2))
  | _, _ => []

/-- Lines batch by batch: of each stage, those of one SN port together, ports in the order of the unit's own order (R238, R240).
DEDUCED (log 72): a batch takes every line of its unit on its port, so that the eight batches of a drover reach its 64 slots. -/
def byBatch (l : List HLine) : List HLine :=
  (dedup (l.map (fun x => (x.stage, snPort x.line)))).flatMap (fun k => l.filter (fun x => decide ((x.stage, snPort x.line) = k)))

/-- The lines of a unit in the order of its requests. ORDERED writes leave by one port in their own order (R55, R247). -/
def State.unitLines (s : State) (d : Desc) (f : Nat) (us : List (List Nat)) (u : Nat) (write : Bool) : List HLine :=
  if write then (if d.p.ordered then s.unitWrites d f us u else byBatch (s.unitWrites d f us u))
  else byBatch (s.unitReads d f us u)

/-- Lines of a unit that its fold has issued. -/
def Desc.sentOf (d : Desc) (f u : Nat) (write : Bool) : Nat :=
  ((d.sent.find? (fun x => decide (x.fold = f ∧ x.unit = u ∧ x.write = write))).map (fun x => x.n)).getD 0

/-- `n` more lines of a unit are issued. -/
def Desc.bumpSent (d : Desc) (f u : Nat) (write : Bool) (n : Nat) : Desc :=
  { d with sent := d.sent.filter (fun x => !(decide (x.fold = f ∧ x.unit = u ∧ x.write = write))) ++
      [{ fold := f, unit := u, write := write, n := d.sentOf f u write + n }] }

/-- The lines of a unit that are still to be issued. -/
def State.unsent (s : State) (d : Desc) (f : Nat) (us : List (List Nat)) (u : Nat) (write : Bool) : List HLine :=
  (s.unitLines d f us u write).drop (d.sentOf f u write)

end Sys2Proof.Machine
end

