-- ==== Sys2Proof/Machine/Crook.lean ====
section
/-!
DEFINITION. The crook and the drovers (09_streaming.md): what a descriptor may issue now (R243 to R245), which line its folds
ask for next (R240, R255), the buffers and batches that a line takes (R237 to R239), its request on an SN port (R246, R247,
R258, R264).
-/
namespace Sys2Proof.Machine

/-! ### Pens -/

/-- State that the stile keeps of a pen. -/
def State.pen (s : State) (p : Nat) : Pen := sget Pen.blank s.pens p

/-- Change the state of a pen. -/
def State.modPen (s : State) (p : Nat) (f : Pen → Pen) : State :=
  { s with pens := sset Pen.blank s.pens p (f (s.pen p)) }

/-- De of a pen entry (R243). -/
def PenEntry.de (e : PenEntry) : Nat := Nat.max e.depth 4096

/-! ### Entitlement and bucket (R243 to R245) -/

/-- Entitlement of a bounded descriptor at the current tick (R243). -/
def State.entitlement (s : State) (d : Desc) : Nat :=
  let e := (s.pen d.pen).ent
  Nat.min d.xbytes (e.de + e.share * (s.tick - d.start))

/-- Tokens in a pen's bucket at the current tick (R244). -/
def State.bucket (s : State) (p : Nat) : Nat :=
  let pn := s.pen p
  Nat.min pn.ent.de (pn.tokens + pn.ent.share * (s.tick - pn.tokTick))

/-- Whether the next line of the descriptor draws on its pen's bucket. -/
def Desc.drawsBucket (d : Desc) : Bool := !d.bounded || decide (d.xbytes ≤ d.issued)

/-- The tick since which a fold's next request of a descriptor waits: now, where it has not been made yet. -/
def State.askedAt (s : State) (did f : Nat) : Nat :=
  ((s.waiting.find? (fun w => decide (w.did = did ∧ w.fold = f))).map (fun w => w.tick)).getD s.tick

/-- Whether a request of another descriptor of the pen waits on the bucket since an earlier tick, or since the same tick with an
earlier admission (R245). -/
def State.outranked (s : State) (d : Desc) : Bool :=
  let mine := (d.folds.map (s.askedAt d.did)).foldl Nat.min s.tick
  s.waiting.any (fun w => (s.desc? w.did).any (fun e =>
    decide (e.did ≠ d.did ∧ e.pen = d.pen) && e.drawsBucket && s.runsOn e w.fold &&
    decide (w.tick < mine ∨ (w.tick = mine ∧ e.step < d.step))))

/-- Lines that the crook grants the descriptor now: of its entitlement, and of the bucket. -/
def State.grants (s : State) (d : Desc) : Nat × Nat :=
  let e := if d.bounded then (s.entitlement d - d.issued) / 64 else 0
  (e, if (!d.bounded || decide (d.xbytes ≤ d.issued + 64 * e)) && !s.outranked d then s.bucket d.pen / 64 else 0)

/-- Pay for `n` lines: the entitlement first, then tokens. -/
def State.payLines (s : State) (d : Desc) (n : Nat) : State :=
  let tok := n - Nat.min n (s.grants d).1
  let s1 := s.modDesc d.did (fun e => { e with issued := e.issued + 64 * n })
  if tok = 0 then s1
  else s1.modPen d.pen (fun pn => { pn with tokens := s.bucket d.pen - 64 * tok, tokTick := s.tick })

/-- How many of its requests each fold is granted of `n`, given how many it has: one each in turn (R245). -/
def dealLines (ns : List Nat) (n : Nat) : List Nat :=
  ((List.range ns.length).zip ns).map (fun x =>
    ((List.range x.2).takeWhile (fun k =>
      decide (sumN (ns.map (fun m => Nat.min m k)) + (ns.take x.1).countP (fun m => decide (k < m)) < n))).length)

/-- Put folds in the order in which their requests were made, ascending among those of one tick (R245). -/
def State.byAsking (s : State) (did : Nat) : List Nat → List Nat
  | [] => []
  | f :: r =>
    let t := s.byAsking did r
    t.filter (fun g => decide (s.askedAt did g < s.askedAt did f)) ++ f :: t.filter (fun g => !(decide (s.askedAt did g < s.askedAt did f)))

/-- A fold's request waits from now on. -/
def State.waitFor (s : State) (did f : Nat) : State :=
  if s.waiting.any (fun w => decide (w.did = did ∧ w.fold = f)) then s
  else { s with waiting := s.waiting ++ [{ did := did, fold := f, tick := s.tick }] }

/-- A fold's request waits no longer. -/
def State.noWait (s : State) (did f : Nat) : State :=
  { s with waiting := s.waiting.filter (fun w => !(decide (w.did = did ∧ w.fold = f))) }

/-! ### Requests on the SN ports (R246, R247, R258, R264) -/

/-- QoS of a host line (R246). -/
def State.lineQos (s : State) (d : Desc) : Nat :=
  let pn := s.pen d.pen
  if d.bounded && pn.rsv then 15 else Nat.min 14 pn.ent.qos

/-- Port of a host line: all writes of an ORDERED descriptor take the port of its first (R247). -/
def Desc.linePort (d : Desc) (line : Nat) (write : Bool) : Nat :=
  if write && d.p.ordered then d.ordPort.getD (snPort line) else snPort line

/-- Port and ID of a line. The writes of an ORDERED descriptor share one ID, which stays theirs until it completes (R55,
R258); none is issued while one of them waits at the port (R259). -/
def State.lineId (s : State) (d : Desc) (line : Nat) (write : Bool) : Option (Nat × Nat × State) :=
  let port := d.linePort line write
  match write && d.p.ordered, d.ordId with
  | true, some i =>
    if bit s.ready.sn.toNat port && !(s.ports.txns.any (fun t => decide (t.port = port ∧ t.id = i) && t.retryAt.isSome)) then
      some (port, i, s)
    else none
  | true, none => (s.takeId port).map (fun x =>
      (port, x.1, x.2.modDesc d.did (fun e => { e with ordPort := some port, ordId := some x.1 })))
  | _, _ => (s.takeId port).map (fun x => (port, x.1, x.2))

/-- WD_DATA, WD_STRB and WD_POISON of the pieces in a line (R267); a byte written in part carries what it then holds. -/
def State.pieceBeat (s : State) (line : Nat) (ps : List Piece) : BitVec 512 × BitVec 64 × Bool :=
  let mine := mergePieces (ps.filter (fun p => p.host && decide (p.key / 64 = line)))
  let b := lineBeat line (mine.map (fun p => (p.key, (p.apply (s.hostByte p.key)).1)))
  (b.1, b.2, mine.any (fun p => p.rad))

/-- The request for a host line. -/
def State.hostReq (s : State) (d : Desc) (port id : Nat) (write : Bool) (h : HLine) (beat : BitVec 512 × BitVec 64 × Bool) : SnReq :=
  { port := port, write := write, id := id, line := h.line, sid := s.cfg.smmuSid, qos := s.lineQos d, noalloc := h.noalloc,
    msg := false, data := beat.1, strb := beat.2.1, poison := beat.2.2 }

/-- A write of an opcode's own step with its data beat. -/
def State.passBeat (s : State) (d : Desc) (h : HLine) (beat : BitVec 512 × BitVec 64 × Bool) : State :=
  match (s.desc? d.did).bind (fun e => s.lineId e h.line true) with
  | none => s
  | some x => x.2.2.emit (s.hostReq d x.1 x.2.1 true h beat)

/-- A read of an opcode's own step. -/
def State.passRead (s : State) (d : Desc) (h : HLine) : State :=
  match s.lineId d h.line false with
  | none => s
  | some x => x.2.2.emit (s.hostReq d x.1 x.2.1 false h (0, 0, false))

/-- Host lines of an opcode's own step: each is issued and answered there, and keeps no ID. -/
def State.passLines (s : State) (d : Desc) (write : Bool) (ps : List Piece) (hs : List HLine) : State :=
  if write then hs.foldl (fun t h => t.passBeat d h (s.pieceBeat h.line ps)) s else hs.foldl (fun t h => t.passRead d h) s

/-- The bytes that a write data beat stores. -/
def beatPieces (line : Nat) (data : BitVec 512) (strb : BitVec 64) (poison : Bool) : List Piece :=
  ((List.range 64).filter (fun k => bit strb.toNat k)).map (fun k =>
    { host := true, key := 64 * line + k, mask := 0xFF, val := fld data.toNat (8 * k) 8, rad := poison })

/-- Place of the master of a transaction at a port: the stile, then drovers by logical fold (R247). -/
def State.masterOf (s : State) (o : Owner) : Nat :=
  match o with
  | .own _ => 0
  | .drover p _ => 1 + (s.logical p).getD 64

/-- Whether a request that waits at its port goes before one of a QoS, an arrival tick and a master (R247). -/
def State.goesFirst (s : State) (t : Txn) (qos arrival master : Nat) : Bool :=
  t.retryAt.any (fun r => decide (r ≤ s.tick)) &&
  decide (qos < t.qos + t.aged ∨ (qos = t.qos + t.aged ∧ (t.arrival < arrival ∨ (t.arrival = arrival ∧ s.masterOf t.owner < master))))

/-- Whether a line's port can take its request now. -/
def State.portOpen (s : State) (d : Desc) (line : Nat) (write : Bool) : Bool :=
  (s.lineId d line write).isSome &&
  !(s.ports.txns.any (fun t => decide (t.port = d.linePort line write) && s.goesFirst t (s.lineQos d) s.tick 65))

/-! ### What a fold asks for next (R240, R255) -/

/-- The units of each executing fold as they stand when the descriptor is released. Opcodes whose units are no element lists
have empty ones. -/
def State.workOf (s : State) (d : Desc) : Option (List (Nat × List (List Nat))) :=
  let p := d.p
  let many := fun (n : Nat → Nat) => (s.shares p d.did).map (fun l =>
    l.map (fun x => (x.1, List.replicate (n x.1) ([] : List Nat))))
  match p.opc with
  | some .tprod => many (s.tUnits p)
  | some .vload => many (fun _ => ((p.src0.map (VParams.ofAux p.aux).loadUnits).getD 1))
  | some .cbload => many (fun _ => 2)
  | some .vstore | some .release | some .route => many (fun _ => 1)
  | _ => (s.shares p d.did).map (fun l => l.map (fun x => (x.1, x.2)))

/-- Units of fold `f`'s share. -/
def Desc.share (d : Desc) (f : Nat) : List (List Nat) := ((d.work.find? (fun x => decide (x.1 = f))).map Prod.snd).getD []

/-- The share of fold `f`, of a descriptor that has not started as it would be now. -/
def State.shareOf (s : State) (d : Desc) (f : Nat) : List (List Nat) :=
  if d.begun then d.share f
  else ((((s.workOf d).getD []).find? (fun x => decide (x.1 = f))).map Prod.snd).getD []

/-- Transactions of descriptor `did` on physical fold `p`. -/
def State.flights (s : State) (p did : Nat) (write : Bool) : List Txn :=
  s.ports.txns.filter (fun t => t.write == write && decide (t.owner = .drover p did))

/-- Whether a read for unit `u` or an earlier one awaits its response. -/
def State.awaits (s : State) (p did u : Nat) : Bool := (s.flights p did false).any (fun t => decide (t.unit ≤ u))

/-- The next line that fold `f` reads for the descriptor, with its unit: in unit order, and in the order of R109 and R62 within
a unit (R240). -/
def State.nextRead (s : State) (d : Desc) (f : Nat) : Option (Nat × HLine) :=
  let us := s.shareOf d f
  (rangeFrom (d.at_ f) (us.length - d.at_ f)).findSome? (fun u => ((s.unsent d f us u false).head?).map (fun h => (u, h)))

/-- Whether the line may be asked for yet: the lines of earlier stages of its unit have landed; of SPILL chunks no more than the
next one, once this one has been loaded (R255); the line that an ORDERED SCATTER merges into once the earlier writes to it have
been answered (R386). -/
def State.mayRead (s : State) (d : Desc) (f p u : Nat) (h : HLine) : Bool :=
  (h.stage ≤ 1 || !s.awaits p d.did u) &&
  (!d.p.spill || s.chunkOf d.p f u = s.chunkOf d.p f (d.at_ f) ||
    (decide (s.chunkOf d.p f u = s.chunkOf d.p f (d.at_ f) + 1) && !s.awaits p d.did (u - 1))) &&
  (h.stage ≠ 3 || !d.p.ordered || (u = d.at_ f && !(s.flights p d.did true).any (fun t => decide (t.line = h.line))))

/-- Whether fold `f` may read for the descriptor: it runs it, or the descriptor is the next bounded one of the fold and the
running one has asked for all its reads (R240). -/
def State.mayFetchAhead (s : State) (d : Desc) (f : Nat) : Bool :=
  s.runsOn d f ||
  (s.live && !s.pause.req && d.active && d.ranked && d.bounded && d.folds.contains f && s.present f && s.waitsMet d &&
    !s.on d f && !(s.descs.any (fun e => e.active && e.ranked && e.folds.contains f && !e.doneOn f && decide (e.step < d.step) &&
      decide ((s.lfold f).running ≠ some e.did))) &&
    (match (s.lfold f).running with
     | none => true
     | some r => (s.desc? r).any (fun e => (s.nextRead e f).isNone)))

/-! ### Buffers and batches (R237 to R239) -/

/-- Whether a line of unit `u` has left the landing buffer: its fold works on the unit, and moves its lines as they land.
DESIGN CHOICE (log 73). -/
def State.movedOut (s : State) (p did u : Nat) : Bool :=
  match s.logical p with
  | some f => decide ((s.fold p).running = some did) && (s.desc? did).any (fun d => decide (u ≤ d.at_ f))
  | none => false

/-- Drain beats of a running COLLECT that wait in landing slots: those past the unit in progress (R249). -/
def State.drainHeld (s : State) (p : Nat) : Nat :=
  match s.logical p, (s.fold p).running.bind s.desc? with
  | some f, some d =>
    if d.isOpc .collect then d.drain.length - ((d.p.src0.map (fun g => g.needs (((d.share f).take (d.at_ f + 1)).flatten))).getD 0) else 0
  | _, _ => 0

/-- Landing slots in use on a physical fold: lines and beats that wait there, and reads outstanding (R239, R249, R256). -/
def State.landingUsed (s : State) (p : Nat) : Nat :=
  ((s.fold p).landing.filter (fun l => !s.movedOut p l.did l.unit)).length + s.drainHeld p +
  (s.ports.txns.filter (fun t => !t.write && (match t.owner with
    | .drover q _ => decide (q = p)
    | .own _ => false))).length

/-- The batches of a physical fold that have not retired: a read batch once its lines are answered and moved (R239). -/
def State.liveBatches (s : State) (p : Nat) : List Batch :=
  (s.fold p).batches.filter (fun b => b.write || decide (0 < b.open_) || !s.movedOut p b.did b.unit)

/-- Batches that the ring and an NR port keep on a physical fold: one for each transfer that it sends, one for the beats of a
COLLECT (R239). -/
def State.otherBatches (s : State) (p : Nat) : Nat :=
  ((s.xfers.filter (fun x => s.phys x.src = some p && x.until_.any (fun u => decide (s.tick < u)))).length) +
  (if 0 < s.drainHeld p then 1 else 0)

/-- Put a line into the batch of its unit, direction and port that has room, or into a new one; `none` where `room` more would
be too many. -/
def addBatch (room did unit path : Nat) (write : Bool) : List Batch → Option (List Batch)
  | [] => if 0 < room then some [{ did := did, write := write, unit := unit, path := path, lines := 1, open_ := 1 }] else none
  | b :: r =>
    if b.did = did ∧ b.write = write ∧ b.unit = unit ∧ b.path = path ∧ b.lines < 64 then
      some ({ b with lines := b.lines + 1, open_ := b.open_ + 1 } :: r)
    else (addBatch room did unit path write r).map (fun t => b :: t)

/-- The batch table of a physical fold with one more line, where it takes it. -/
def State.batchFor (s : State) (p did unit path : Nat) (write : Bool) : Option (List Batch) :=
  let bs := s.liveBatches p
  addBatch (8 - (bs.length + s.otherBatches p)) did unit path write bs

/-- Insert a landed line behind those of its unit and of the earlier ones. -/
def landIn (x : Landed) : List Landed → List Landed
  | [] => [x]
  | y :: r => if y.unit ≤ x.unit then y :: landIn x r else x :: y :: r

/-- A line as host memory holds it, with its poison. -/
def State.hostLine (s : State) (did unit line : Nat) : Landed :=
  { did := did, unit := unit, line := line, data := BitVec.ofNat 512 (leNat (s.getHost (64 * line) 64)),
    rad := sget false s.poison line }

/-- The lines of unit `u` that an earlier unit of its fold reads for it: those that it would read if it stood alone and does not
read itself. -/
def State.sharedLines (s : State) (d : Desc) (f : Nat) (us : List (List Nat)) (u : Nat) : List Nat :=
  let own := (s.unitReads d f us u).map (fun h => h.line)
  ((s.unitReads { d with redo := [(f, u)] } f us u).map (fun h => h.line)).filter (fun l => !own.contains l)

/-- Landed lines of the units before `u` are given up, but for those that a later unit shares. -/
def State.freeLanding (s : State) (d : Desc) (f u : Nat) : State :=
  let us := d.share f
  s.modL f (fun fo => { fo with landing := fo.landing.filter (fun l => decide (l.did ≠ d.did) || decide (u ≤ l.unit) ||
    (rangeFrom u (us.length - u)).any (fun v => (s.sharedLines d f us v).contains l.line)) })

end Sys2Proof.Machine
end

