-- ==== Sys2Proof/Machine/Ring.lean ====
section
/-!
DEFINITION. Ring transfers (09_streaming.md R250 to R253): the resources that one holds, the order in which they wait, and what
one puts into the receiving fold.
-/
namespace Sys2Proof.Machine

/-- Resources of a transfer: send path, link directions, receive path. -/
def State.holds (s : State) (x : Transfer) : List (Nat × Nat) :=
  (0, x.src) :: (2, x.dst) :: (ringLinks s.n x.src x.dst).map (fun l => (1, l))

/-- Two transfers that need a common resource. -/
def State.shareRing (s : State) (x y : Transfer) : Bool := (s.holds x).any (fun r => (s.holds y).contains r)

/-- The order of the queues: tick of asking, STEP, index. -/
def Transfer.before (x y : Transfer) : Bool :=
  decide (x.asked < y.asked ∨ (x.asked = y.asked ∧ (x.step < y.step ∨ (x.step = y.step ∧ x.index < y.index))))

/-- The transfer of a descriptor and index: as it was asked for, or asked for now. -/
def State.transfer (s : State) (d : Desc) (i : Nat) : Option Transfer :=
  match s.xfers.find? (fun x => decide (x.did = d.did ∧ x.index = i)) with
  | some x => some x
  | none => ((s.hops d.p d.did)[i]?).map (fun h =>
      { did := d.did, index := i, src := h.src, dst := h.dst, beats := h.beats, asked := s.tick, step := d.step, until_ := none })

/-- Whether transfer `k` of a descriptor has put its beats into the receiving fold. -/
def State.legIn (s : State) (did k : Nat) : Bool :=
  s.xfers.any (fun x => decide (x.did = did ∧ x.index = k) && x.until_.isSome)

/-- Transfers that must have come before fold `f` commits its unit `u`: those of a TPROD, and a VMOVE's own. -/
def State.legsFor (s : State) (d : Desc) (f u : Nat) : List Nat :=
  if d.isOpc .vmove then List.range (s.hops d.p d.did).length
  else if d.isOpc .tprod then s.legsBefore d.p f u
  else []

/-- Whether the folds of a transfer have come to it: a SHEAVES fold sends after its last sheaf, a ROTATE round is over on both
folds (R252, R253), the folds of a VMOVE have started. -/
def State.legDue (s : State) (d : Desc) (k : Nat) : Bool :=
  match d.isOpc .tprod, s.tLayout d.p with
  | true, some t =>
    let a := TParams.ofAux d.p.aux
    let g := t.leg a.rotate k
    let n := t.legAfter a.rotate k
    decide (n.1 ≤ d.at_ ((t.folds[g.1]?).getD 64) ∧ n.2 ≤ d.at_ ((t.folds[g.2.1]?).getD 64))
  | _, _ => d.begun

/-- Whether a transfer stands first in the queues of all its resources, none of which another one holds. -/
def State.ringFree (s : State) (x : Transfer) : Bool :=
  (s.xfers.filter (fun y => !(decide (y.did = x.did ∧ y.index = x.index)))).all (fun y =>
    !s.shareRing x y || (match y.until_ with
      | some u => decide (u ≤ s.tick)
      | none => x.before y))

/-- Put a transfer into the list in place of its earlier entry. -/
def State.putXfer (s : State) (x : Transfer) : State :=
  { s with xfers := s.xfers.filter (fun y => !(decide (y.did = x.did ∧ y.index = x.index))) ++ [x] }

/-- Transfer `k` acquires its resources, which it holds for `len` ticks, and its beats go to the receiving fold; or it queues.
A TPROD's leaves and slices arrive in the work area, with their raddle (R252, R253, R336). -/
def State.sendLeg (s : State) (d : Desc) (x : Transfer) (len : Nat) : State :=
  if s.ringFree x then
    let ps := if d.isOpc .tprod then mergePieces (s.legPieces d x.index) else []
    ((s.putAll (ps ++ s.mirror ps)).putXfer { x with until_ := some (s.tick + len) }).wake [x.src, x.dst]
  else s.putXfer { x with until_ := none }

/-- Ticks for which a transfer holds its resources (R250). -/
def State.legTicks (s : State) (x : Transfer) : Nat := cdiv (x.beats + 8 * (ringHops s.n x.src x.dst).1) 16

/-- Transfer `k` of a descriptor is asked for, and starts where it can. -/
def State.startLeg (s : State) (d : Desc) (k : Nat) (pass : Bool) : State :=
  match s.transfer d k with
  | some x => if x.until_.isNone && s.legDue d k then s.sendLeg d x (if pass then 0 else s.legTicks x) else s
  | none => s

/-- The transfers that a descriptor has come to, in the order of their indices. Like the host lines of an opcode's own step, they
pass within it. -/
def State.runLegs (s : State) (did : Nat) : State :=
  match s.desc? did with
  | none => s
  | some d => (List.range (s.hops d.p did).length).foldl (fun t k => t.startLeg d k true) s

end Sys2Proof.Machine
end

