-- ==== Sys2Proof/Machine/Run.lean ====
section
/-!
DEFINITION. How a descriptor runs: its start with the checks that follow admission (R23), the units of each executing
fold in order as the crook grants their lines (R243 to R245), the progress at which an interruption leaves it, and its end.
-/
namespace Sys2Proof.Machine

/-! ### Units of every opcode -/

/-- What unit `u` of fold `f` does; `ls` are its elements. -/
def State.unitOut (s : State) (d : Desc) (f u : Nat) (ls : List Nat) : Out :=
  match d.p.opc with
  | none => Out.none
  | some o =>
    match o with
    | .copy | .transpose | .permute | .pack | .unpack => s.moveUnit d f false ls
    | .convert => s.moveUnit d f true ls
    | .shuffle => s.shuffleUnit d f ls
    | .gather => s.gatherUnit d f ls
    | .scatter => s.scatterUnit d f ls
    | .tprod => s.tprodUnit d f u
    | .cbload => s.cbloadUnit d f u
    | .requant => s.requantUnit d f ls
    | .deliver => s.deliverUnit d f ls
    | .collect => s.collectUnit d f ls
    | .vload => s.vloadUnit d f u
    | .vstore => s.vstoreUnit d f
    | .vmove => if bit d.p.pres 0 then s.moveUnit d f false ls else s.vmoveUnit d f
    | .release => d.releaseUnit f
    | .route => s.routeUnit d f
    | .digest => s.digestUnit d f ls
    | .fence | .gate | .tally | .cancel | .planload | .seedset | .nop => Out.none

/-! ### Committing units -/

/-- A TPROD that carries V and whose host DST overlaps itself: each shared byte ends as one of its elements (R56). -/
def Desc.vProduct (d : Desc) : Bool := d.isOpc .tprod && d.p.v && (d.p.dst.map (fun g => !g.space && !g.nests)).getD false

/-- The outcome of a unit with the bytes that it shares with other units settled (R56). -/
def State.settle (s : State) (d : Desc) (o : Out) : State × Out :=
  match d.vProduct, d.p.dst with
  | true, some g =>
    let c := s.pickPieces (groupPieces o.pieces)
    let x := c.1.settleBytes (fun a => (c.1.desc? d.did).any (fun e => e.wroteByte g a)) c.2
    (x.1, { o with pieces := x.2 })
  | _, _ => (s, o)

/-- The outputs of the units `a` to `b − 1` of a fold, all from one state. -/
def State.outsOf (s : State) (d : Desc) (f : Nat) (us : List (List Nat)) (a b : Nat) : List Out :=
  (((List.range us.length).zip us).filter (fun x => decide (a ≤ x.1 ∧ x.1 < b))).map (fun x => s.unitOut d f x.1 x.2)

/-- What a committed unit adds to the fold's progress. -/
def State.stepProg (s : State) (did f u : Nat) : State :=
  s.modDesc did (fun e => { e with prog := setProg e.prog f (u + 1) })

/-- Commit a unit whose destination overlaps itself: the bytes that it shares with other units are chosen afresh among all of
them (R56, R103, R112, R386). -/
def State.commitRacy (s : State) (d : Desc) (f u : Nat) (o : Out) : State :=
  let w := s.winOf d f o.pieces
  let keys := (w.bytes.map (fun x => (x.1.host, x.1.key))).filter (fun k => !(k.1 && (d.onWire f u).contains (k.2 / 64)))
  ((s.settleWins d (d.wins ++ [w]) (dedup keys)).commit d f u { o with pieces := [] }).modDesc d.did
    (fun e => { e with wins := e.wins ++ [w] })

/-- Commit unit `u` of fold `f`; `ws` are the lines that it writes now. -/
def State.commitUnit (s : State) (d : Desc) (f u : Nat) (ls : List Nat) (ws : List HLine) : State :=
  let o := s.unitOut d f u ls
  let s1 := if d.racy then (s.passLines d true o.pieces ws).commitRacy d f u o
    else
      let x := s.settle d o
      let y := x.1.holdLines d f u x.2
      (y.1.passLines d true y.2.pieces ws).commit d f u y.2
  ((s1.stepProg d.did f u).latchPermute d f).freeLanding d f (u + 1)

/-! ### Twins (R297 to R299) -/

/-- Leave lock-step (R299): ACTIVE clears, FAULT sets, an event is written. -/
def State.unpair (s : State) (k : Nat) : State :=
  match s.twins[k]? with
  | none => s
  | some t =>
    ({ s with twins := setNth s.twins k { t with active := false, fault := true, prep := false } } : State).noteF 0x030B
      t.pri.toNat k

/-- The active pair of a primary with the two physical folds. -/
def State.pairPhys (s : State) (f : Nat) : Option (Nat × Nat × Nat × Nat) :=
  match s.pairOf f with
  | none => none
  | some x => (match s.phys f, s.phys x.2.shd.toNat with
    | some p, some q => some (x.1, x.2.shd.toNat, p, q)
    | _, _ => none)

/-- What the shadow of fold `f` is about to do for a unit, on its own slice. -/
def State.shadowOut (s : State) (d : Desc) (f q u : Nat) (ls : List Nat) : Out := (s.asShadow f q).unitOut d f u ls

/-- Whether the comparator passes a unit of fold `f`: it is in no active pair, or both folds agree (R298). -/
def State.compared (s : State) (d : Desc) (f u : Nat) (ls : List Nat) : Bool :=
  match s.pairPhys f with
  | none => true
  | some x => (s.unitOut d f u ls).agrees x.2.2.1 x.2.2.2 (s.shadowOut d f x.2.2.2 u ls)

/-- The words with errors that the shadow of fold `f` reads for a unit. -/
def State.shadowWords (s : State) (d : Desc) (f u : Nat) (ls : List Nat) : List Nat :=
  match s.pairPhys f with
  | none => []
  | some x => (s.shadowOut d f x.2.2.2 u ls).words

/-- A second divergence ends a descriptor at its unit: TWIN_MISMATCH, the pair leaves lock-step, and both folds are patrolled
(R299). -/
def State.mismatch (s : State) (k did f shd : Nat) : State :=
  let t := (s.endEarly did .twinMismatch).unpair k
  [f, shd].foldl (fun u g => u.modL g (fun fo => { fo with patrol := 0 })) t

/-- The two folds of a pair disagree about unit `u` in what they hold: the divergence is noted and the unit retried once, which
finds the same again (R299). -/
def State.disagree (s : State) (d : Desc) (f u : Nat) (ls : List Nat) : State :=
  match s.pairPhys f with
  | none => s
  | some x =>
    let seen := (s.lfold f).strikes.any (fun y => decide (y.1 = d.did))
    let s1 := s.noteReads ((s.unitOut d f u ls).words ++ s.shadowWords d f u ls)
    let s2 := (s1.noteD 0x030A (some f) d x.1).voidBound d.did
    let s3 := if seen then s2 else s2.noteD 0x030A (some f) d x.1
    s3.mismatch x.1 d.did f x.2.1

/-! ### Lines that a unit has been granted in part -/

/-- Read lines of unit `u` that are granted now land for it. -/
def State.landPart (s : State) (did f u : Nat) (hs : List HLine) : State :=
  (s.modL f (fun fo => { fo with landing := hs.foldl (fun l h => landIn (s.hostLine did u h.line) l) fo.landing })).modDesc did
    (fun e => e.bumpSent f u false hs.length)

/-- The bytes that unit `u` of fold `f` would write, with the choices that they take. -/
def State.unitBytes (s : State) (d : Desc) (f u : Nat) (ls : List Nat) : State × List Piece :=
  let o := s.unitOut d f u ls
  if d.racy then (s, o.pieces)
  else
    let x := s.settle d o
    (x.1, (x.1.holdLines d f u x.2).2.pieces)

/-- Write lines of unit `u` that are granted now leave before the others (R165, R275). -/
def State.writePart (s : State) (d : Desc) (f u : Nat) (ls : List Nat) (hs : List HLine) : State :=
  let x := s.unitBytes d f u ls
  let lines := hs.map (fun h => h.line)
  let ps := mergePieces (keepPieces d.derr (x.2.filter (fun p => p.host && lines.contains (p.key / 64))))
  ((x.1.passLines d true ps hs).putAll ps).modDesc d.did (fun e =>
    { e.bumpSent f u true hs.length with wire := e.wire ++ lines.map (fun l => (f, u, l)) })

/-! ### Running under the crook (R238 to R245) -/

/-- Whether fold `f` holds the descriptor as the one that it runs. -/
def State.works (s : State) (d : Desc) (f : Nat) : Bool :=
  s.present f && decide ((s.lfold f).running = some d.did) && (s.lfold f).inPlace.isNone

/-- Whether unit `u` may move its data: none of its reads is on its way, and the transfers that it needs have come. -/
def State.unitReady (s : State) (d : Desc) (f p u : Nat) : Bool := !s.awaits p d.did u && (s.legsFor d f u).all (s.legIn d.did)

/-- The lines that fold `f` writes again for committed units, with the bytes that their transactions carried (R165, R274). -/
def Desc.stalledOn (d : Desc) (f : Nat) : List WLine := d.stalled.filter (fun w => decide (w.fold = f))

/-- The request line of a line that is written again. -/
def Desc.againLine (d : Desc) (w : WLine) : HLine :=
  { line := w.line, stage := 0, noalloc := (d.p.dst.map (fun g => g.noalloc)).getD false }

/-- The lines that fold `f` asks for to come to unit `b`, as (write, line): those to be written again, then of each unit its reads
and its writes, up to a unit that must wait and a port that takes no request. -/
def State.asks (s : State) (d : Desc) (f : Nat) (us : List (List Nat)) (b : Nat) : List (Bool × HLine) :=
  match s.phys f with
  | none => []
  | some p =>
    ((d.stalledOn f).map (fun w => (true, d.againLine w)) ++
      ((rangeFrom (d.at_ f) (b - d.at_ f)).takeWhile (s.unitReady d f p)).flatMap (fun u =>
        (s.unsent d f us u false).map (fun h => (false, h)) ++ (s.unsent d f us u true).map (fun h => (true, h)))).takeWhile
          (fun x => s.portOpen d x.2.line x.1)

/-- The crook shares what it grants the descriptor now among its folds, of which `asks` gives the lines asked for; what each is
granted. A fold left short waits (R245). -/
def State.deal (s : State) (d : Desc) (asks : Progress) : State × Progress :=
  let fs := s.byAsking d.did (asks.map Prod.fst)
  let g := s.grants d
  let got := fs.zip (dealLines (fs.map (progAt asks)) (g.1 + g.2))
  let s1 := s.payLines d (sumN (got.map Prod.snd))
  (asks.foldl (fun t x =>
    let k := progAt got x.1
    if x.2 ≤ k then t.noWait d.did x.1
    else (if k = 0 then t else t.noWait d.did x.1).waitFor d.did x.1) s1, got)

/-- Write stalled lines again. -/
def State.rewrite (s : State) (d : Desc) (ws : List WLine) : State :=
  ws.foldl (fun t w => ((t.passBeat d (d.againLine w) (w.data, w.strb, w.poison)).putAll (beatPieces w.line w.data w.strb w.poison)).modDesc
    d.did (fun e => { e with stalled := e.stalled.erase w })) s

/-- Run the units `u`, `u + 1`, … of fold `f` with `k` lines granted. -/
def State.runUnits (s : State) (did f : Nat) (us : List (List Nat)) : Nat → Nat → List (List Nat) → State
  | _, _, [] => s
  | u, k, ls :: r =>
    match s.desc? did, s.phys f with
    | some d, some p =>
      if !(d.active && s.unitReady d f p u) then s
      else
        let rs := s.unsent d f us u false
        let ws := s.unsent d f us u true
        let t := s.passLines d false [] (rs.take k)
        if k < rs.length then t.landPart did f u (rs.take k)
        else if !t.compared d f u ls then t.disagree d f u ls
        else if k - rs.length < ws.length then
          (t.landPart did f u rs).writePart d f u ls (ws.take (k - rs.length))
        else ((t.noteReads (t.shadowWords d f u ls)).commitUnit d f u ls ws).runUnits did f us (u + 1) (k - rs.length - ws.length) r
    | _, _ => s

/-- Run fold `f` from unit `u` on with `k` lines granted, the lines to be written again first. -/
def State.runFold (s : State) (d : Desc) (f : Nat) (us : List (List Nat)) (u k : Nat) (ls : List (List Nat)) : State :=
  let n := (d.stalledOn f).length
  let t := s.rewrite d ((d.stalledOn f).take k)
  if k < n then t else t.runUnits d.did f us u (k - n) ls

/-- How far a fold goes when `want` units are asked for: no less than it has come, no more than its share, and for a
COLLECT no further than its beats have arrived. -/
def Desc.goal (d : Desc) (want : Nat → Nat) (x : Nat × List (List Nat)) : Nat :=
  let cap := if d.isOpc .collect then d.collectReady x.2 else x.2.length
  Nat.max (d.at_ x.1) (Nat.min (want x.1) cap)

/-- Units of the longest share. -/
def Desc.most (d : Desc) : Nat := maxN (d.work.map (fun x => x.2.length))

/-- Bring the folds that run the descriptor to unit `b` at most. -/
def State.runStage (s : State) (did b : Nat) (want : Nat → Nat) : State :=
  match s.desc? did with
  | none => s
  | some d =>
    let goal := fun (x : Nat × List (List Nat)) => Nat.max (d.at_ x.1) (Nat.min b (d.goal want x))
    let mine := d.work.filter (fun x => s.works d x.1)
    let g := s.deal d (mine.map (fun x => (x.1, (s.asks d x.1 x.2 (goal x)).length)))
    mine.foldl (fun t x => t.runFold d x.1 x.2 (d.at_ x.1) (progAt g.2 x.1) ((x.2.take (goal x)).drop (d.at_ x.1))) g.1

/-- Whether every fold has come to unit `b` of its share. -/
def Desc.reached (d : Desc) (b : Nat) : Bool := d.work.all (fun x => decide (Nat.min b x.2.length ≤ d.at_ x.1))

/-- Run up to each barrier in turn, the ring transfers that are due first; no fold passes a barrier that another has not reached
(R131, R253, R254). -/
def State.stages (s : State) (did : Nat) (want : Nat → Nat) : List Nat → State
  | [] => s
  | b :: r =>
    let t := (s.runLegs did).runStage did b want
    if (t.desc? did).any (fun d => d.reached b) then t.stages did want r else t

/-! ### Refusals after admission (R23, R201) -/

/-- INFO of the ENCODING record of a check that follows admission. R201 names no field for it. DESIGN CHOICE (log 28): it names
the slot that the check reads, at step 4: the cache slot of a SHUFFLE's PROJ, ADDR of a TPROD's TBL or of a CBLOAD's SRC1. -/
def Desc.startInfo (d : Desc) : Nat :=
  let at_ := fun (i b : Nat) => place b 0 9 + place (slotIndex d.p i) 9 4 + place 4 13 3
  if d.isOpc .shuffle then at_ 5 160 else if d.isOpc .tprod then at_ 4 0 else at_ 1 0

/-- A check of R23 refuses a descriptor. -/
def State.refuseLate (s : State) (did : Nat) (st : Status) : State :=
  match s.desc? did with
  | none => s
  | some d =>
    let s1 := if st = .refusedEncoding then s.noteD 0x0102 none d d.startInfo else s
    (s1.modDesc did (fun e => if st = .refusedRange then e.modAcc ((e.folds.head?).getD 0) (fun a => { a with clamps := 1 }) else e)).endEarly
      did st

/-! ### The check pass of STRICT (R50, R108) -/

/-- The lines of the check pass that fold `f` has still to ask for. -/
def State.checkLines (s : State) (d : Desc) (x : Nat × List (List Nat)) : List HLine :=
  (s.unsent d x.1 x.2 0 false).takeWhile (fun h => decide (h.stage = 0))

/-- Whether a descriptor makes a check pass and has not committed a unit. -/
def Desc.checking (d : Desc) : Bool :=
  d.active && d.begun && d.p.strict && (d.isOpc .gather || d.isOpc .scatter) && d.prog.all (fun x => x.2 = 0)

/-- Whether every fold has read its share of the index stream. -/
def State.checkRead (s : State) (d : Desc) : Bool :=
  d.work.all (fun x => s.on d x.1 && (s.checkLines d x).isEmpty &&
    (s.phys x.1).all (fun p => !((s.flights p d.did false).any (fun t => decide (t.unit = 0)))))

/-- Every fold reads its share of the index stream as far as the crook grants it. -/
def State.readCheck (s : State) (d : Desc) : State :=
  let mine := d.work.filter (fun x => s.works d x.1)
  let asks := mine.map (fun x => (x.1, (s.checkLines d x).takeWhile (fun h => s.portOpen d h.line false)))
  let g := s.deal d (asks.map (fun x => (x.1, x.2.length)))
  asks.foldl (fun t x =>
    let hs := x.2.take (progAt g.2 x.1)
    (t.passLines d false [] hs).landPart d.did x.1 0 hs) g.1

/-- The words with errors that the check pass reads. -/
def State.checkWords (s : State) (d : Desc) : List Nat := d.work.flatMap (fun x => s.idxWords d x.1 x.2.flatten)

/-- The check pass of a STRICT GATHER or SCATTER: before any window commits, every fold has read its indices, and a clamp ends the
descriptor. -/
def State.checkPass (s : State) (did : Nat) : State :=
  match s.desc? did with
  | none => s
  | some d =>
    if !d.checking then s
    else
      let t := s.readCheck d
      if (t.desc? did).any t.checkRead then
        let u := t.noteReads (t.checkWords d)
        if t.strictHit d then u.refuseLate did .refusedRange else u
      else t

/-! ### Progress -/

/-- The folds that have done their share let go of the descriptor, each for itself (R241). That a unit of it was struck there
stays known until it ends (R338). -/
def State.leaveDone (s : State) (did : Nat) : State :=
  match s.desc? did with
  | none => s
  | some d => (d.folds.filter (fun f => d.doneOn f && decide ((s.lfold f).running = some did))).foldl
      (fun t f => t.modPair f (fun fo => { Fold.leave did t.tick fo with strikes := fo.strikes })) s

/-- Bring every fold to the progress asked for, as far as the crook grants it: the check pass of STRICT first, then the units
between the barriers of a TPROD. -/
def State.advance (s : State) (did : Nat) (want : Nat → Nat) : State :=
  match s.desc? did with
  | none => s
  | some d =>
    if !(d.active && (!d.stalled.isEmpty || d.work.any (fun x => decide (d.at_ x.1 < want x.1)))) then s
    else
      let s1 := s.checkPass did
      match s1.desc? did with
      | none => s1
      | some e =>
        if !e.active || (e.checking && !s1.checkRead e) then s1
        else (s1.stages did want (s.barriers d.p ++ [d.most])).leaveDone did

/-- Every unit of every fold. -/
def State.advanceAll (s : State) (did : Nat) : State :=
  s.advance did (fun f => ((s.desc? did).map (fun d => d.unitsOn f)).getD 0)

/-- Whether every unit has committed and no line is to be written again. -/
def Desc.allDone (d : Desc) : Bool := d.stalled.isEmpty && d.work.all (fun x => decide (x.2.length ≤ d.at_ x.1))

/-! ### Starting -/

/-- The status of a start check that fails (R81, R84, R123, R151), encoding before shape. -/
def State.startBad (s : State) (d : Desc) (fs : List Nat) : Option Status :=
  let p := d.p
  if p.opc = some .shuffle && !s.slotOk p fs then some .refusedEncoding
  else if p.opc = some .shuffle && !s.bodyShapeOk p then some .refusedShape
  else if p.opc = some .tprod && !s.imagesOk p fs then some .refusedEncoding
  else if !s.fileOk d fs then some .refusedShape
  else none

/-- A fold takes up a descriptor: file mode (R148), latches invalid (R162), logic on (R376). -/
def Fold.takeUp (d : Desc) (tick : Nat) (fo : Fold) : Fold :=
  let f1 := fo.toMode d.p.fmode
  let f2 := if d.isOpc .vload then f1.startLoad (VParams.ofAux d.p.aux) else f1
  { f2 with running := some d.did, latches := Latches.clear, logicOn := true, lastTick := tick }

/-- Ticks of the timeout of a DELIVER's or COLLECT's port. -/
def State.portLimit (s : State) (d : Desc) : Nat := if d.isOpc .deliver then s.cfg.neTmo.toNat else s.cfg.nrTmo.toNat

/-- The timeout of the port starts, with its length as it stands (R271). -/
def State.armPort (s : State) (d : Desc) : State :=
  if d.isOpc .deliver || d.isOpc .collect then
    s.modDesc d.did (fun e => { e with stallFrom := some (s.tick, s.portLimit d) })
  else s

/-- Fold `f` starts the descriptor; for a SHUFFLE it reads its slot and loads the body (R85). -/
def State.startFold (s : State) (d : Desc) (f : Nat) : State :=
  let e := s.slotOf d f
  let d1 : Desc := { d with slots := d.slots ++ [(f, e)] }
  let s1 := (s.modPair f (Fold.takeUp d s.tick)).modDesc d.did (fun x =>
    { x with since := s.tick, slots := if d.isOpc .shuffle then x.slots ++ [(f, e)] else x.slots })
  (s1.armPort d).loadRoute d1 f

/-- The folds that may start a descriptor that has begun do so (R224, R241). -/
def State.joinFolds (s : State) (did : Nat) : State :=
  match s.desc? did with
  | none => s
  | some d =>
    if s.live && !s.pause.req && d.active && d.begun then
      (d.folds.filter (s.foldStart d)).foldl (fun t f => t.startFold d f) s
    else s

/-- The words with errors that the checks of a descriptor's release read: the image headers of a TPROD (R123), the indices of a
ROUTE (R86). -/
def State.releaseWords (s : State) (d : Desc) (fs : List Nat) : List Nat :=
  if d.isOpc .tprod then fs.flatMap (fun f => s.ownWords f ((d.p.tbl.map (fun g => g.addr)).getD 0) 64)
  else if d.isOpc .route then
    fs.flatMap (fun f => (d.p.idx.map (fun x => (List.range x.count).flatMap (s.errWords f x))).getD [])
  else []

/-- The scoreboard releases a descriptor: the checks that follow admission are made on all its folds before any begins, and
refuse it (R23, R151), or the folds that may start it do so. -/
def State.begin (s : State) (did : Nat) : State :=
  match s.desc? did with
  | none => s
  | some d =>
    if d.begun then s
    else
      match s.workOf d with
      | none => s.refuseLate did (if d.isOpc .shuffle then .refusedEncoding else .refusedShape)
      | some w =>
        let fs := w.map Prod.fst
        let v := VParams.ofAux d.p.aux
        let all := if d.isOpc .vmove && !(fs.contains v.dfold) then fs ++ [v.dfold] else fs
        let s1 := s.noteReads (s.releaseWords d all)
        let stop := match s.startBad d all with
          | some st => some st
          | none => if d.isOpc .route then s.routeStop { d with folds := all } else none
        match stop with
        | some st => s1.refuseLate did st
        | none =>
          let hs := if d.isOpc .tprod then all.map (fun f => (f, s.header d.p f)) else []
          (s1.modDesc did (fun e => { e with begun := true, since := s.tick, work := w, folds := all, heads := hs })).joinFolds did

/-- Start the descriptor where it may start now, on further folds where it has started. -/
def State.ensure (s : State) (did : Nat) : State :=
  match s.desc? did with
  | none => s
  | some d => if d.begun then s.joinFolds did else if s.canStart d then s.begin did else s

/-! ### Running to the end -/

/-- Whether a fold of a CBLOAD met a malformed scale element (R122). -/
def State.cbStop (s : State) (d : Desc) : Bool :=
  d.isOpc .cbload && (List.range d.folds.length).any (fun i => s.cbBad d ((d.folds[i]?).getD 0) d.folds.length i)

/-- Run the remaining work of a started descriptor and end it where all is done. What the crook does not grant yet, a COLLECT's
beats that have not arrived, a transfer that waits and a fold that runs something else leave it where it stands. -/
def State.complete (s : State) (did : Nat) : State :=
  match s.desc? did with
  | none => s
  | some d =>
    if !(d.active && d.begun) then s
    else
      let bad := s.cbStop d
      let s1 := s.advanceAll did
      match s1.desc? did with
      | none => s1
      | some e =>
        if !(e.active && e.allDone) then s1
        else if bad then s1.refuseLate did .refusedEncoding
        else s1.finish did

/-- The remaining execution of descriptor `did` under opcode `o`; nothing where it may not run now. -/
def State.runOpcode (s : State) (o : Opc) (did : Nat) : State :=
  match s.desc? did with
  | none => s
  | some d => if d.isOpc o && s.canRun d then (s.ensure did).complete did else s

/-- Stop a descriptor at its cancel points: units up to `pts` commit, then it ends with `st` (R231, R256). -/
def State.stopAt (s : State) (did : Nat) (pts : Progress) (st : Status) : State :=
  (s.advance did (progAt pts)).endEarly did st

end Sys2Proof.Machine
end

