-- ==== Sys2Proof/Machine/Loss.lean ====
section
/-!
DEFINITION. Losing a fold (R17, R168, R340, R341): what ends with it, the choice of a spare, the copy of its slice, and an
absent fold.
-/
namespace Sys2Proof.Machine

/-- State of a physical fold. -/
def State.pstate (s : State) (p : Nat) : PhysState := (s.fmap.state[p]?).getD .fusedOff

/-- Set the state of a physical fold. -/
def State.setPhys (s : State) (p : Nat) (x : PhysState) : State :=
  { s with fmap := { s.fmap with state := setNth s.fmap.state p x } }

/-- PLT_READY.FOLD bit of a logical fold. -/
def State.setReady (s : State) (f : Nat) (b : Bool) : State :=
  { s with ready := { s.ready with fold := if b then s.ready.fold ||| BitVec.ofNat 64 (2 ^ f)
      else s.ready.fold &&& ~~~(BitVec.ofNat 64 (2 ^ f)) } }

/-- Spares left (R353). -/
def State.spares (s : State) : List Nat := (List.range 68).filter (fun p => s.pstate p = .spare)

/-- Spares that no substitution has taken. -/
def State.freeSpares (s : State) : List Nat :=
  s.spares.filter (fun p => !(s.fmap.subst.any (fun x => decide (x.2.1 = p))))

/-- Whether a descriptor is in flight on logical fold `f`: dispatched to it and not ended there (R340). -/
def State.onFold (s : State) (d : Desc) (f : Nat) : Bool :=
  d.active && d.folds.contains f && s.waitsMet d && !d.doneOn f

/-- End every descriptor of a list FOLD_LOST, its folds brought to their cancel points. -/
def State.loseAll (s : State) (dids : List Nat) (pts : List (Nat × Progress)) : State :=
  dids.foldl (fun t did =>
    t.stopAt did (((pts.find? (fun x => decide (x.1 = did))).map Prod.snd).getD []) .foldLost) s

/-- Void the bounds of all descriptors on a logical fold that are admitted and not completed (R340, R388). -/
def State.voidFold (s : State) (f : Nat) : State :=
  { s with descs := s.descs.map (fun d =>
      if d.open_ && d.bound.isSome && d.folds.contains f then { d with void := true } else d) }

/-- The descriptors that end with a logical fold: those in flight on it, and on the pair that it belongs to (R299). -/
def State.lostWith (s : State) (f : Nat) : List Nat :=
  let pair := s.twins.filter (fun t => t.active && (decide (t.pri.toNat = f) || decide (t.shd.toNat = f)))
  let fs := f :: pair.map (fun t => t.pri.toNat)
  (s.descs.filter (fun d => fs.any (fun g => s.onFold d g))).map (fun d => d.did)

/-- Active pairs that a logical fold belongs to leave lock-step. -/
def State.breakPairs (s : State) (f : Nat) : State :=
  ((List.range 8).filter (fun k => (s.twins[k]?).any (fun t =>
    t.active && (decide (t.pri.toNat = f) || decide (t.shd.toNat = f))))).foldl State.unpair s

/-- Logical fold `f` becomes absent (R341). What still waits for it can no longer run there and is lost with it. -/
def State.makeAbsent (s : State) (f p : Nat) (pts : List (Nat × Progress)) : State :=
  let rest := (s.descs.filter (fun d => d.active && d.folds.contains f)).map (fun d => d.did)
  let s1 := (s.loseAll rest pts).setPhys p .retired
  ({ s1 with fmap := { s1.fmap with phys := setNth s1.fmap.phys f none, absent := s1.fmap.absent ++ [f],
                                    subst := s1.fmap.subst.filter (fun x => x.1 ≠ f) } } : State).noteF 0x0309 f f

/-- The substitution of a spare for logical fold `f` begins; `copy` is the retired fold whose slice is copied. The fold's
horizon becomes the substitution's end, which comes no earlier than the copy's 16,392 FCLK cycles and no later than
100 µs (R340). -/
def State.startSubst (s : State) (f sp : Nat) (copy : Option Nat) : State :=
  let c := s.choose (9375 - 1025 + 1)
  let h := Nat.max (sget 0 c.2.hor.fold f) (s.tick + 1025 + c.1)
  { c.2 with fmap := { c.2.fmap with subst := c.2.fmap.subst ++ [(f, sp, copy)] },
             hor := { c.2.hor with fold := sset 0 c.2.hor.fold f h } }

/-- Find a spare for logical fold `f`, whose retired fold is `p`; where none is left the fold becomes absent. -/
def State.findSpare (s : State) (f p : Nat) (pts : List (Nat × Progress)) : State :=
  match s.freeSpares with
  | sp :: _ => s.startSubst f sp (some p)
  | [] => s.makeAbsent f p pts

/-- Requests of a reset drover that wait at their ports are withdrawn (R261). -/
def State.withdraw (s : State) (p : Nat) : State :=
  { s with ports := { s.ports with txns := s.ports.txns.filter (fun t => !(t.retryAt.isSome && (match t.owner with
      | .drover q _ => decide (q = p)
      | .own _ => false))) } }

/-- Retire a fold that backs logical fold `f` (R340, step 1): its descriptors end, its bit clears, its event is written, and
behind it those of the pairs that it breaks (R343). -/
def State.retireBacking (s : State) (f p : Nat) (pts : List (Nat × Progress)) : State :=
  let s1 := ((s.loseAll (s.lostWith f) pts).voidFold f).withdraw p
  (((s1.setReady f false).bumpFault 1 1).noteF 0x0306 f p).breakPairs f

/-- Retire a spare; a substitution that it was to complete takes the next (R340). -/
def State.retireSpare (s : State) (p : Nat) : State :=
  let s1 := ((s.setPhys p .retired).bumpFault 1 1).note 0x0306 p
  match s1.fmap.subst.find? (fun x => decide (x.2.1 = p)) with
  | none => s1
  | some x =>
    let s2 : State := { s1 with fmap := { s1.fmap with subst := s1.fmap.subst.filter (fun y => y.2.1 ≠ p) } }
    match s2.freeSpares with
    | sp :: _ => s2.startSubst x.1 sp x.2.2
    | [] => s2.makeAbsent x.1 (x.2.2.getD ((s2.phys x.1).getD p)) []

/-- Retire a physical fold (R340). A fold that is already retired or whose substitution is under way, and a fused-off one,
stay as they are. -/
def State.retire (s : State) (p : Nat) (pts : List (Nat × Progress)) : State :=
  match s.pstate p with
  | .retired | .fusedOff => s
  | .spare => s.retireSpare p
  | .backs =>
    match s.logical p with
    | none => s
    | some f =>
      if s.fmap.subst.any (fun x => decide (x.1 = f)) then s else (s.retireBacking f p pts).findSpare f p pts

/-- The slice of physical fold `a` copied to `b` over the ring: words that fail their check arrive raddled (R340), and the read
hands them to the scrubber (R330). Words of `b` handed before stay so until their re-read. -/
def State.copySlice (s0 : State) (a b : Nat) : State :=
  let words := (s0.ecc.filter (fun x => decide (x.1 / 131072 = a)))
  let s := s0.noteReads (words.map Prod.fst)
  let hard := (words.filter (fun x => x.2 = .hard)).flatMap (fun x => (List.range 8).map (fun i => (8 * (x.1 % 131072) + i, true)))
  let s1 : State := { s with
    past := scopy 0 s.past (a * slice) (b * slice) slice,
    raddle := ssetAll false (scopy false s.raddle (a * slice) (b * slice) slice) (hard.map (fun x => (b * slice + x.1, true))),
    ecc := sfilter (fun k => decide (k / 131072 ≠ b)) s.ecc }
  s1

/-- The whole slice of a spare written as zero with every raddle bit set (R340). -/
def State.loseSlice (s : State) (b : Nat) : State :=
  { s with past := sfill 0 s.past (b * slice) slice 0, raddle := sfill false s.raddle (b * slice) slice true,
           ecc := sfilter (fun k => decide (k / 131072 ≠ b)) s.ecc,
           handed := s.handed.filter (fun h => h.1 / 131072 ≠ b) }

/-- A substitution ends (R340, steps 2 to 4). -/
def State.spareIn (s : State) (f : Nat) (lost : Bool) : State :=
  match s.fmap.subst.find? (fun x => decide (x.1 = f)) with
  | none => s
  | some x =>
    let sp := x.2.1
    let s1 := match x.2.2 with
      | none => s
      | some p => if lost then (s.loseSlice sp).noteF 0x0308 f 131072 else s.copySlice p sp
    let old := s1.fold sp
    let hits := ((s1.phys f).map (fun p => (s1.fold p).strikes)).getD []
    let s2 := s1.setFold sp { Fold.blank with scrub := old.scrub, patrol := old.patrol, logicOn := true, lastTick := s.tick, strikes := hits }
    let gone := (s2.phys f).getD sp
    let s3 := (s2.setPhys gone .retired).setPhys sp .backs
    let s4 : State := { s3 with fmap := { s3.fmap with phys := setNth s3.fmap.phys f (some sp),
                                                       subst := s3.fmap.subst.filter (fun y => y.1 ≠ f) } }
    ((s4.noteF 0x0307 f (place sp 0 7 + place f 8 6)).setReady f true).count 15 1

end Sys2Proof.Machine
end

