-- ==== Sys2Proof/Machine/Records.lean ====
section
/-!
DEFINITION. What Polter writes to host memory of its own: completion records (R215 to R217), raddle map entries (R339),
event records (R343, R344), run records (R306) and interrupt messages (R365), with what the issue of a record brings
about (R182, R213, R285, R388).
-/
namespace Sys2Proof.Machine

/-! ### Completion records -/

/-- PHASE of the record of index `w` in a ring of 2^`l` records (R215). -/
def phaseOf (w l : Nat) : Nat := 1 - w / 2 ^ l % 2

/-- The 32 bytes of a completion record (Table 08-7). -/
def recordBytes (d : Desc) (w l : Nat) : List Byte :=
  let p := d.p
  let late := match d.bound with
    | some b => !d.void && decide (b < d.tDone)
    | none => false
  let bnd := match d.bound with
    | some b => b - d.tAdmit
    | none => 0
  let n := place p.tag 0 32 + place p.brand 32 16 + place d.status.code 48 8 + place (b2n d.constCh) 56 1 +
    place (b2n d.noted) 57 1 + place (b2n d.sat) 58 1 + place (b2n p.v) 59 1 + place (b2n d.void) 60 1 +
    place (b2n late) 61 1 + place (phaseOf w l) 62 1 +
    place (if d.status.hasDigest then d.digest.toNat else 0) 64 64 + place (Nat.min 0xFFFFF d.raddles) 128 20 +
    place (Nat.min 0xFFFFF d.clamps) 148 20 + place d.tAdmit 168 40 + place (Nat.min 0xFFFFFF (d.tDone - d.tAdmit)) 208 24 +
    place bnd 232 24
  leBytes n 32

/-- Whether the record carries LATE (R229). -/
def Desc.late (d : Desc) : Bool :=
  match d.bound with
  | some b => !d.void && decide (b < d.tDone)
  | none => false

/-- A record of a completion ring. -/
def State.ring (s : State) (r : Nat) : CplRing := sget CplRing.blank s.rings r

/-- Change a completion ring. -/
def State.modRing (s : State) (r : Nat) (f : CplRing → CplRing) : State :=
  { s with rings := sset CplRing.blank s.rings r (f (s.ring r)) }

/-- The ring that a descriptor's record goes to (R215). -/
def State.ringOf (s : State) (d : Desc) : Nat := (s.pen d.pen).ent.cplr

/-- Room for one more record (R217). -/
def CplRing.room (r : CplRing) : Bool := decide ((r.w - r.cons).toNat < 2 ^ r.logsz)

/-- Whether the ring takes a record now. -/
def CplRing.takes (r : CplRing) : Bool := r.loaded && !r.bad && !r.faulted && r.room

/-! ### Runs (R285) -/

/-- STEPs of the pen's TALLYs that have not built their records. -/
def State.openTallies (s : State) (pen : Nat) : List Nat :=
  (s.descs.filter (fun d => d.pen = pen && d.active && d.isOpc .tally &&
    !(s.tally.waiting.any (fun r => decide (r.did = d.did))))).map (fun d => d.step)

/-- Two STEPs between which no TALLY of the list lies. -/
def sameRun (ts : List Nat) (a b : Nat) : Bool := !(ts.any (fun t => (decide (a < t) && decide (t < b)) || (decide (b < t) && decide (t < a))))

/-- A DIGEST enters its value into the pen's open run. -/
def State.enterLayer (s : State) (d : Desc) : State :=
  let layer := fld d.p.aux 0 16
  let pn := s.pen d.pen
  let ts := s.openTallies d.pen
  let mine := pn.layers.filter (fun l => sameRun ts l.step d.step)
  let new : Layer := { layer := layer, digest := d.digest, step := d.step }
  match mine.find? (fun l => decide (l.layer = layer)) with
  | some old =>
    if old.step < d.step then
      s.modPen d.pen (fun x => { x with layers := x.layers.map (fun l => if l = old then new else l) })
    else s
  | none =>
    if 1024 ≤ mine.length then s.noteD 0x010D none d layer
    else s.modPen d.pen (fun x => { x with layers := x.layers ++ [new] })

/-! ### Issue of a completion record -/

/-- Counters of Table 14-23 that a record's issue advances. -/
def State.countRecord (s : State) (d : Desc) : State :=
  let s1 := s.count 2 1
  let s2 := if d.admitted then s1 else if d.status = .cancelled then s1.count 16 1 else s1.count 1 1
  let s3 := if d.status = .raddled then s2.count 3 1 else s2
  let s4 := if d.noted then s3.count 4 1 else s3
  let s5 := if d.void then s4.count 5 1 else s4
  if d.late then s5.count 6 1 else s5

/-- FAULTS counters of the open epoch that a completion advances (Table 12-4). -/
def State.faultRecord (s : State) (d : Desc) : State :=
  let s1 := match d.status with
    | .foldLost => s.bumpFault 0 1
    | .twinMismatch => s.bumpFault 2 1
    | .doneNoted => s.bumpFault 3 1
    | .raddled => s.bumpFault 4 1
    | .xlatFault | .portTimeout => s.bumpFault 10 1
    | _ => s
  let s2 := if d.void then s1.bumpFault 8 1 else s1
  if d.late then s2.bumpFault 9 1 else s2

/-- Whether fold `f` has committed its VSTORE or VMOVE: its unit has, or a write of it was issued (R157, R166). -/
def Desc.wrote (d : Desc) (f : Nat) : Bool := decide (0 < d.at_ f) || d.wire.any (fun x => decide (x.1 = f))

/-- Registers that a completion releases, whatever its status, on the folds that committed (R157, R158). -/
def State.relAtEnd (s : State) (d : Desc) : State :=
  let rs := d.relRegs
  if rs.isEmpty then s
  else
    let fs := if d.isOpc .vmove then d.folds.take 1 else d.folds
    (fs.filter d.wrote).foldl (fun t f => t.modPair f (Fold.empty rs)) s

/-- Route cache entries that a completed ROUTE installs (R91). -/
def State.installAtEnd (s : State) (d : Desc) : State :=
  if d.status = .done ∨ d.status = .doneNoted then
    d.install.foldl (fun t x => t.modPair x.1 (fun fo =>
      { fo with route := sset RouteEntry.blank fo.route (fld d.p.aux 0 8) x.2 })) s
  else s

/-- Waits that a held record has met late (R217): the waiters carry VOID. -/
def State.voidWaiters (s : State) (did : Nat) : State :=
  { s with descs := s.descs.map (fun e =>
      if e.active && e.bound.isSome && e.waitOn.contains did then { e with void := true } else e) }

/-- Issue the record of an ended descriptor to its ring: release set, credit and counters follow at once (R182, R213,
R368, R388). `none` where no transaction ID is free. -/
def State.issueRecord (s : State) (d : Desc) (held : Bool) : Option State :=
  let r := s.ringOf d
  let c := s.ring r
  let a := c.base + 32 * (c.w.toNat % 2 ^ c.logsz)
  (s.issueOwn (.completion r d.did) true [a / 64] (bytesAt a (recordBytes d c.w.toNat c.logsz))).map (fun t =>
    let t1 := t.modRing r (fun x => { x with w := x.w + 1, held := x.held.filter (fun i => i ≠ d.did) })
    let t2 := (((t1.countRecord d).faultRecord d).relAtEnd d).installAtEnd d
    let t3 := if d.isOpc .digest && bit d.p.aux 16 && d.status.hasDigest && d.admitted then t2.enterLayer d else t2
    let t4 := if held then t3.voidWaiters d.did else t3
    t4.dropDesc d.did)

/-- Issue held records of a ring, in order, while it takes them; none after a fatal fault (R335). -/
def State.releaseHeld (s : State) (r : Nat) : Nat → State
  | 0 => s
  | n + 1 =>
    match (s.ring r).held with
    | [] => s
    | did :: _ =>
      if !(s.live && (s.ring r).takes) then s
      else
        match s.desc? did with
        | none => (s.modRing r (fun x => { x with held := x.held.drop 1 })).releaseHeld r n
        | some d =>
          match s.issueRecord d true with
          | none => s
          | some t => t.releaseHeld r n

/-- Every held record of a ring that may go. -/
def State.flushRing (s : State) (r : Nat) : State :=
  let s1 := if (s.ring r).room then s.modRing r (fun x => { x with full := false }) else s
  s1.releaseHeld r (s1.ring r).held.length

/-- A word of host memory that Polter reads on its own account, as a transaction of QoS 15 (R242). -/
def State.readWord (s : State) (a : Nat) : State := s.passOwn false [] [a / 64]

/-- CONS as the doorbell page holds it (R217); as last read while the reads of the word meet a fault (Table 10-9). -/
def State.readCons (s : State) (r : Nat) : State :=
  if (s.ring r).consFault then s
  else (s.readWord (s.cfg.doorbell.toNat + 32768 + 8 * r)).modRing r (fun c => { c with cons := BitVec.ofNat 32 (leNat (s.getHost (s.cfg.doorbell.toNat + 32768 + 8 * r) 4)) })

/-- A record arrives for its ring: issued, or held behind a malformed, full or faulted ring or behind earlier held records
(R214, R217). -/
def State.sendRecord (s0 : State) (d : Desc) : State :=
  let r := s0.ringOf d
  let s := if (s0.ring r).bad || (s0.ring r).full then s0 else s0.readCons r
  let c := s.ring r
  let hold := fun (t : State) => t.modRing r (fun x => { x with held := x.held ++ [d.did] })
  if c.held.contains d.did then s
  else if c.bad then
    if c.badLogged then hold s
    else hold ((s.modRing r (fun x => { x with badLogged := true })).note 0x0109 r)
  else if !c.room then
    if c.full then hold s else hold ((s.modRing r (fun x => { x with full := true })).note 0x010B r)
  else if !c.held.isEmpty || c.faulted then hold s
  else (s.issueRecord d false).getD s

/-! ### Raddle map (R339) -/

/-- Maximal runs of a rising list, as (first, length). -/
def runsOf : List Nat → List (Nat × Nat)
  | [] => []
  | a :: r =>
    match runsOf r with
    | [] => [(a, 1)]
    | (b, n) :: t => if b = a + 1 then (a, n + 1) :: t else (a, 1) :: (b, n) :: t

/-- A run cut into pieces of 65,536. -/
def cutRun (x : Nat × Nat) : List (Nat × Nat) :=
  (List.range (cdiv x.2 65536)).map (fun i => (x.1 + 65536 * i, Nat.min 65536 (x.2 - 65536 * i)))

/-- The entries of a descriptor before the limit, as (first, length, stream). -/
def Desc.mapRuns (d : Desc) : List (Nat × Nat × Bool) :=
  let cov := sortCov d.cov
  let bad := ((List.range cov.length).zip cov).filterMap (fun x => if x.2.rad then some x.1 else none)
  ((runsOf bad).flatMap cutRun).map (fun x => (x.1, x.2, false)) ++
    ((runsOf (sortN d.dropped)).flatMap cutRun).map (fun x => (x.1, x.2, true))

/-- The bytes of one entry (Table 13-4). -/
def mapEntry (d : Desc) (last trunc : Bool) (x : Nat × Nat × Bool) : List Byte :=
  leBytes (place d.p.tag 0 32 + place d.p.brand 32 16 + place (b2n last) 48 1 + place (b2n trunc) 49 1 +
    place (b2n x.2.2) 50 1 + place x.1 64 48 + place (x.2.1 - 1) 112 16) 16

/-- The bytes of a descriptor's map entries from entry `w` of the ring on. -/
def State.mapBytes (s : State) (d : Desc) (w : Nat) : List (Nat × Byte) :=
  let base := s.cfg.radmapBase.toNat
  let all := d.mapRuns
  let l := all.take 4096
  ((List.range l.length).zip l).flatMap (fun x =>
    bytesAt (64 * fld base 6 42 + 16 * ((w + x.1) % 2 ^ fld base 0 5))
      (mapEntry d (x.1 + 1 = l.length) (x.1 = 4095 && decide (4096 < all.length)) x.2))

/-- Whether raddle map entries are being written. -/
def State.mapping (s : State) : Bool :=
  s.own.any (fun o => match o.kind with
    | .map _ _ _ => true
    | _ => false)

/-- Issue the writes of a descriptor's raddle map, or note that the ring lacks room. One descriptor's map is written at a time;
`none` while it must wait for another's or for an ID. -/
def State.putMap (s : State) (d : Desc) : Option State :=
  let base := s.cfg.radmapBase.toNat
  if !bit base 5 || decide (d.raddles = 0) || !d.admitted then some s
  else if s.mapping then none
  else
    let n := Nat.min 4096 d.mapRuns.length
    if (s.logs.radW + BitVec.ofNat 32 n - s.cfg.radmapCons).toNat ≤ 2 ^ fld base 0 5 then
      let w := s.mapBytes d s.logs.radW.toNat
      if n = 0 then some s else s.issueOwn (.map (s.ringOf d) d.did n) true (linesOfBytes w) w
    else some (s.noteD 0x0110 none d n)

/-! ### Messages (R218, R343, R365, R366) -/

/-- The write of one message: the four bytes from ADDR carry DATA. -/
def State.issueMessage (s : State) (v : Nat) (pend : Bool) : Option State :=
  let a := ((s.cfg.msgAddr.getD v 0).toNat) % 2 ^ 48 / 4 * 4
  s.issueOwn (.message v pend) true [a / 64] (bytesAt a (leBytes (s.cfg.msgData.getD v 0).toNat 4))

/-- A message becomes due on a vector. -/
def State.dueMessage (s : State) (v : Nat) : State := { s with msgs := s.msgs ++ [(v, false)] }

/-! ### Event records (R343, R344) -/

/-- The 32 bytes of an event record (Table 13-8). -/
def eventBytes (e : EvRec) (w l dropped : Nat) : List Byte :=
  leBytes (place e.code.toNat 0 16 + place (phaseOf w l) 16 1 + place (e.fold.getD 0) 24 6 +
    place (b2n e.fold.isSome) 30 1 + place e.tag.toNat 32 32 + place e.brand.toNat 64 16 + place e.pen.toNat 80 12 +
    place e.tick 96 40 + place (Nat.min 0xFFFFFF dropped) 136 24 + place e.info.toNat 192 64) 32

/-- Room in the event ring. -/
def State.evtRoom (s : State) : Bool :=
  decide ((s.evt.issue - s.cfg.evtCons).toNat ≠ 2 ^ fld s.cfg.evtBase.toNat 0 5)

/-- Whether an access of a kind is in flight or waits for its retry. -/
def State.ownOf (s : State) (k : OwnKind → Bool) : Option Own := s.own.find? (fun o => k o.kind)

/-- Issue the oldest queued event record. -/
def State.issueEvent (s : State) : State :=
  match s.evt.queue with
  | [] => s
  | e :: r =>
    let b := s.cfg.evtBase.toNat
    let l := fld b 0 5
    let w := s.evt.issue.toNat
    let a := 64 * fld b 6 42 + 32 * (w % 2 ^ l)
    ((s.issueOwn .event true [a / 64] (bytesAt a (eventBytes e w l s.evt.dropped))).map (fun t =>
      { t with evt := { t.evt with queue := r, issue := t.evt.issue + 1, dropped := 0 } })).getD s

/-! ### Run log (R306) -/

/-- Cells of a run record. -/
def RunRec.cells (r : RunRec) : Nat := r.bytes.length / 64

/-- Issue the writes of a run record. -/
def State.issueRun (s : State) (r : RunRec) : State :=
  let b := s.cfg.runlogBase.toNat
  let size := 2 ^ fld b 0 5
  let addr := 64 * fld b 6 42
  let w := s.logs.runW.toNat
  let cells := (List.range r.cells).map (fun i => addr + 64 * ((w + i) % size))
  let writes := ((List.range r.cells).zip cells).flatMap (fun x => bytesAt x.2 ((r.bytes.drop (64 * x.1)).take 64))
  (s.issueOwn (.runLog r.did r.cells) true (cells.map (· / 64)) writes).getD s

/-- A TALLY whose record is in the log and whose leaf is folded completes (R307); none does after a fatal fault (R335). -/
def State.finishTally (s : State) (did : Nat) : State :=
  if !s.live then s else
  match s.tally.waiting.find? (fun r => decide (r.did = did)) with
  | none => s
  | some r =>
    let s1 : State := { s with tally := { s.tally with waiting := s.tally.waiting.filter (fun x => x.did ≠ did) } }
    let dg := BitVec.ofNat 64 (leNat ((r.bytes.drop 160).take 8))
    s1.modDesc did (fun e => if e.active then
      { e with stage := .ended, status := .done, digest := dg, tDone := s.tick } else e)

/-! ### Responses to Polter's own writes -/

/-- Whether a record, or a raddle map, of a completion ring waits for its retry. -/
def State.ringWaits (s : State) (r : Nat) : Bool :=
  s.own.any (fun o => o.waiting && (match o.kind with
    | .completion q _ => decide (q = r)
    | .map q _ _ => decide (q = r)
    | _ => false))

/-- All lines of an access have been answered. An episode of faults on a ring ends once none of its writes waits. -/
def State.finishOwn (s : State) (o : Own) : State :=
  let t := s.dropOwn o.key
  match o.kind with
  | .doorbell _ | .burst _ => s
  | .completion r _ =>
    let t1 := t.modRing r (fun x => { x with faulted := t.ringWaits r })
    let t2 := if (s.ring r).ie then t1.dueMessage (s.ring r).vec else t1
    t2.flushRing r
  | .event =>
    let t1 : State := { t with evt := { t.evt with w := t.evt.w + 1, faulted := false } }
    let t2 := t1.count 11 1
    if bit s.cfg.evtBase.toNat 5 then t2.dueMessage (fld s.cfg.evtBase.toNat 48 2) else t2
  | .map r _ n =>
    let t1 := t.modRing r (fun x => { x with faulted := t.ringWaits r })
    ({ t1 with logs := { t1.logs with radW := t1.logs.radW + BitVec.ofNat 32 n } } : State).flushRing r
  | .message v pend => if pend then { t with intPend := t.intPend &&& ~~~(BitVec.ofNat 4 (2 ^ v)) } else t
  | .runLog did cells =>
    let t1 : State := { t with logs := { t.logs with runW := t.logs.runW + BitVec.ofNat 32 cells, runFault := false } }
    t1.finishTally did

/-- One line of an access of Polter's own has been written. -/
def State.ownLine (s : State) (key line : Nat) : State :=
  match s.own.find? (fun o => decide (o.key = key)) with
  | none => s
  | some o =>
    let s1 := s.storeBytes (o.writes.filter (fun x => x.1 / 64 = line))
    if s1.ports.txns.any (fun t => decide (t.owner = .own key)) || o.waiting then s1 else s1.finishOwn o

end Sys2Proof.Machine
end

