-- ==== Sys2Proof/Machine/Pens.lean ====
section
/-!
DEFINITION. Pens and rings: the pen table and the completion ring table, nudges and sweeps, doorbell words, the fetch queue
and descriptor bursts (08_pens_and_admission.md R202 to R211, R214; 09_streaming.md R242).
-/
namespace Sys2Proof.Machine

/-! ### Pen entries (R202, R203) -/

/-- The fields of a pen table entry (Table 08-1). -/
def PenEntry.ofNat (n : Nat) : PenEntry :=
  { en := bit n 0, rsv := bit n 1, qos := fld n 8 4, cplr := fld n 16 8, credit := fld n 24 7, logsz := fld n 32 5,
    ring := fld n 64 64, allot := fld n 128 32, xallot := fld n 160 32, share := fld n 192 16, depth := fld n 224 32 }

/-- A malformed entry (Table 08-2, third row). -/
def penBad (n : Nat) : Bool :=
  let e := PenEntry.ofNat n
  decide (fld n 2 6 ≠ 0 ∨ fld n 12 4 ≠ 0 ∨ fld n 31 1 ≠ 0 ∨ fld n 37 27 ≠ 0 ∨ fld n 208 16 ≠ 0 ∨ fld n 256 256 ≠ 0) ||
  decide (e.logsz < 4 ∨ 16 < e.logsz ∨ e.credit < 1 ∨ 64 < e.credit ∨ e.share < 1 ∨ 8192 < e.share) ||
  decide (e.ring % 64 ≠ 0 ∨ 2 ^ 48 ≤ e.ring)

/-- A pen with descriptors fetched or admitted and not completed. -/
def State.penBusy (s : State) (p : Nat) : Bool := s.descs.any (fun d => decide (d.pen = p))

/-- Sum of SHARE over the other pens with RSV in force. -/
def State.rsvSum (s : State) (p : Nat) : Nat :=
  sumN ((s.pens.filter (fun x => x.1 ≠ p && x.2.served && x.2.rsv)).map (fun x => x.2.ent.share))

/-- A pen's reads in flight are given up and it leaves the fetch queue. -/
def State.dropFetch (s : State) (p : Nat) : State :=
  let mine := s.own.filter (fun o => o.kind = .burst p || o.kind = .doorbell p)
  let s1 := mine.foldl (fun t o => t.dropOwn o.key) s
  { s1 with stile := { s1.stile with queue := s1.stile.queue.filter (fun x => x.1 ≠ p),
                                     bursts := s1.stile.bursts.filter (fun x => x.pen ≠ p),
                                     doorbells := s1.stile.doorbells.filter (· ≠ p),
                                     dbFault := s1.stile.dbFault.filter (· ≠ p) } }

/-- Load a pen's entry from the pen table (Table 08-2; the busy row is RELOAD's). A served pen starts at read position 0
with a full bucket (R244). -/
def State.loadPen (s : State) (p : Nat) : State :=
  let n := leNat (s.getHost (s.cfg.pentab.toNat + 64 * p) 64)
  let e := PenEntry.ofNat n
  let s1 := (s.passOwn false [] [(s.cfg.pentab.toNat + 64 * p) / 64]).dropFetch p
  let off := fun (t : State) => t.modPen p (fun x =>
    { x with loaded := true, served := false, ent := e, rsv := false, pidx := 0, cidx := 0, passed := false, partial_ := [] })
  if !e.en then off s1
  else if penBad n then (off s1).noteP 0x0104 p 3
  else
    let beyond := e.rsv && decide (s.cfg.rshare.toNat < s1.rsvSum p + e.share)
    let s2 := s1.modPen p (fun x =>
      { x with loaded := true, served := true, ent := e, rsv := e.rsv && !beyond, pidx := 0, cidx := 0, passed := false,
               partial_ := [], tokens := e.de, tokTick := s.tick })
    if beyond then s2.noteP 0x040C p e.share else s2

/-- A pen's entry is read when the stile first serves it after ENABLE rises. -/
def State.servePen (s : State) (p : Nat) : State := if (s.pen p).loaded then s else s.loadPen p

/-! ### Doorbell reads (R207 to R209) -/

/-- Issue the read of a pen's doorbell word; `none` where no transaction ID is free. -/
def State.readDoorbell (s : State) (p : Nat) : Option State :=
  s.issueOwn (.doorbell p) false [(s.cfg.doorbell.toNat + 8 * p) / 64] []

/-- Act on a pending nudge: the read is issued and the pending bit clears, unless a read is in flight. The nudge of a pen
that is not served is discarded. -/
def State.serveNudge (s : State) (p : Nat) : State :=
  if !(s.live && s.cfg.enable && s.cfg.nudgeEn && s.nudges.contains p) then s
  else
    let s1 := s.servePen p
    let clear := fun (t : State) => { t with nudges := t.nudges.filter (· ≠ p) }
    if !(s1.pen p).served then clear s1
    else if s1.own.any (fun o => o.kind = .doorbell p) then s1
    else
      match s1.readDoorbell p with
      | none => s1
      | some t => clear t

/-- A nudge sets the pending bit; with NUDGE_EN = 0 it is ignored. -/
def State.nudgePen (s : State) (p : Nat) : State :=
  if s.cfg.nudgeEn then ({ s with nudges := insertN p (s.nudges.filter (· ≠ p)) } : State).serveNudge p else s

/-- A write of NUDGE_EN (R209, R351). -/
def State.setNudgeEn (s : State) (on : Bool) : State :=
  if s.cfg.nudgeEn = on then s
  else
    let s1 : State := { s with cfg := { s.cfg with nudgeEn := on } }
    if on then { s1 with stile := { s1.stile with sweepAt := none } }
    else
      { s1 with nudges := [], stile := { s1.stile with sweepAt := if s.cfg.enable then some s.tick else none,
                                                       sweepLong := false } }

/-- NUDGE_EN_CHANGE: a write that turns NUDGE_EN on or off. -/
def execNudgeEnChange (on : Bool) (s : State) : Host.Outcome State Fault Refusal :=
  .next (if s.up then s.setNudgeEn on else s)

/-- NUDGE: a plain nudge of a pen (R209, R210). -/
def execNudge (pen : BitVec 12) (s : State) : Host.Outcome State Fault Refusal :=
  .next (if s.up then s.nudgePen pen.toNat else s)

/-- Re-read a pen's entry at a RELOAD (R203, R205, R210). -/
def State.reload (s : State) (p : Nat) : State :=
  if !(s.live && s.cfg.enable) then s
  else
    let s1 := if s.penBusy p then s.noteP 0x0105 p 0 else s.loadPen p
    s1.nudgePen p

/-- RELOAD: a PLT_NUDGE write with RELOAD, the entry being as host memory holds it at the read. -/
def execReload (pen : BitVec 12) (entry : BitVec 512) (s : State) : Host.Outcome State Fault Refusal :=
  .next (if s.live && s.cfg.enable then
    (s.putHost (s.cfg.pentab.toNat + 64 * pen.toNat) (leBytes entry.toNat 64)).reload pen.toNat
  else s)

/-! ### Completion ring entries (R214, R215) -/

/-- Load a completion ring's entry. Records held for the ring stay held. -/
def State.loadRing (s : State) (r : Nat) : State :=
  let n := leNat (s.getHost (s.cfg.cplring.toNat + 16 * r) 16)
  let l := fld n 64 5
  let bad := decide (fld n 72 56 ≠ 0 ∨ l < 4 ∨ 20 < l ∨ fld n 0 6 ≠ 0 ∨ fld n 48 16 ≠ 0)
  (s.passOwn false [] [(s.cfg.cplring.toNat + 16 * r) / 64]).modRing r (fun x =>
    { x with loaded := true, bad := bad, base := fld n 0 64, logsz := l, vec := fld n 69 2, ie := bit n 71, w := 0,
             full := false, badLogged := false, faulted := false })

/-- Re-read a completion ring's entry at a CRLOAD. A malformed ring is never refused as busy. -/
def State.crload (s : State) (r : Nat) : State :=
  if !(s.live && s.cfg.enable) then s
  else
    let s1 := s.readCons r
    if (s1.ring r).loaded && !(s1.ring r).bad && (s1.ring r).w ≠ (s1.ring r).cons then s1.note 0x010A r
    else (s1.loadRing r).flushRing r

/-- CRLOAD: a PLT_NUDGE write with CRLOAD, the entry being as host memory holds it at the read. -/
def execCrload (ring : BitVec 8) (entry : BitVec 128) (s : State) : Host.Outcome State Fault Refusal :=
  .next (if s.live && s.cfg.enable then
    (s.putHost (s.cfg.cplring.toNat + 16 * ring.toNat) (leBytes entry.toNat 16)).crload ring.toNat
  else s)

/-- Nudge the pens of one bitmap word (R367). -/
def State.nudgeMap (s : State) (w bits : Nat) : State :=
  (List.range 32).foldl (fun t b => if bit bits b then t.nudgePen (32 * w + b) else t) s

/-- NUDGE_MAP_WRITE: ones written to PLT_NUDGE_MAPw. -/
def execNudgeMapWrite (w : BitVec 7) (bits : BitVec 32) (s : State) : Host.Outcome State Fault Refusal :=
  .next (if s.up then s.nudgeMap w.toNat bits.toNat else s)

/-- Issue a sweep's read of a pen, or leave it to be issued. -/
def State.sweepRead (s : State) (p : Nat) : State :=
  match s.readDoorbell p with
  | some t => t
  | none => { s with stile := { s.stile with doorbells := s.stile.doorbells ++ [p] } }

/-- DOORBELL_SWEEP: the stile reads the doorbell word of every served pen (R209). -/
def execDoorbellSweep (s : State) : Host.Outcome State Fault Refusal :=
  .next (match s.stile.sweepAt with
    | none => s
    | some t =>
      if !(s.live && s.cfg.enable && decide (t ≤ s.tick)) then s
      else
        let s1 := (List.range 4096).foldl State.servePen s
        let gap := if s.stile.sweepLong then 188 else 187
        let s2 : State := { s1 with stile := { s1.stile with
          doorbells := [], sweepAt := some (t + gap), sweepLong := !s.stile.sweepLong } }
        ((s2.pens.filter (fun x => x.2.served)).map Prod.fst).foldl State.sweepRead s2)

/-! ### Doorbell words (R204, R208) -/

/-- RIDX of a pen. -/
def State.ridx (s : State) (p : Nat) : BitVec 32 :=
  ((s.descs.find? (fun d => d.pen = p && d.plan.isNone)).map (fun d => d.index)).getD (s.pen p).cidx

/-- Cells of the pen's bursts in flight. -/
def State.cellsInFlight (s : State) (p : Nat) : Nat :=
  sumN ((s.stile.bursts.filter (fun x => x.pen = p)).map (fun x => x.cells))

/-- Index of the next cell to ask for. -/
def State.nextCell (s : State) (p : Nat) : BitVec 32 := (s.pen p).cidx + BitVec.ofNat 32 (s.cellsInFlight p)

/-- Accepted cells not yet asked for. -/
def State.unfetched (s : State) (p : Nat) : Nat :=
  let n := ((s.pen p).pidx - s.nextCell p).toNat
  if n < 2 ^ 31 then n else 0

/-- Descriptors admitted from a pen's ring and not completed (R213). -/
def State.creditUsed (s : State) (p : Nat) : Nat :=
  (s.descs.filter (fun d => d.pen = p && d.plan.isNone && d.admitted)).length

/-- Fetched, unadmitted cells of a pen. -/
def State.cellsHeld (s : State) (p : Nat) : Nat :=
  (s.pen p).partial_.length + sumN ((s.descs.filter (fun d => d.pen = p && d.plan.isNone &&
    (match d.stage with
     | .fetched | .held _ => true
     | _ => false))).map (fun d => d.cells.length))

/-- Cells of the fetch buffer taken or asked for by a pen. -/
def State.cellsTaken (s : State) (p : Nat) : Nat := s.cellsHeld p + s.cellsInFlight p

/-- Cells taken by all pens but pen 0. -/
def State.cellsOthers (s : State) : Nat := sumN ((s.pens.filter (fun x => x.1 ≠ 0)).map (fun x => s.cellsTaken x.1))

/-- Cells of the next burst of a pen: up to 16, ending at the ring's last slot. -/
def State.burstCells (s : State) (p : Nat) : Nat :=
  let size := 2 ^ (s.pen p).ent.logsz
  Nat.min (s.unfetched p) (Nat.min 16 (size - (s.nextCell p).toNat % size))

/-- Whether a turn may fetch for the pen. -/
def State.mayFetch (s : State) (p : Nat) : Bool :=
  let pn := s.pen p
  pn.served && !pn.passed && decide (0 < s.unfetched p) && decide (s.creditUsed p < pn.ent.credit) &&
  (if p = 0 then decide (s.cellsOthers + s.cellsTaken 0 + s.burstCells 0 ≤ 2048)
   else decide (s.cellsHeld p < 32) && decide (s.cellsOthers + (s.cellsTaken 0 - 32) + 16 ≤ 2016))

/-- A ring descriptor whose pen lacks a credit (R213). -/
def State.noCredit (s : State) (d : Desc) : Bool :=
  d.plan.isNone && decide ((s.pen d.pen).ent.credit ≤ s.creditUsed d.pen)

/-- A target of a CANCEL is not admitted: it ends without a STEP (R231). -/
def State.cancelled (s : State) (d : Desc) : Bool := s.descs.any (fun c => c.active && c.isOpc .cancel && c.targets.contains d.did)

/-- Join the fetch queue: in the order of acceptance, ties of one tick in ascending pen number (R211). -/
def enqueue (p t : Nat) : List (Nat × Option Nat) → List (Nat × Option Nat)
  | [] => [(p, some t)]
  | x :: r => if x.2 = some t ∧ p < x.1 then (p, some t) :: x :: r else x :: enqueue p t r

/-- Accept a producer index. -/
def State.acceptPidx (s : State) (p : Nat) (v : BitVec 32) : State :=
  let s1 := s.modPen p (fun x => { x with pidx := v, passed := false })
  if s1.unfetched p = 0 ∨ s1.stile.queue.any (fun x => decide (x.1 = p)) then s1
  else { s1 with stile := { s1.stile with queue := enqueue p s.tick s1.stile.queue } }

/-- Table 08-4. -/
def State.doorbell (s : State) (p : Nat) (w : BitVec 64) : State :=
  let pn := s.pen p
  let v : BitVec 32 := w.setWidth 32
  let l := pn.ent.logsz
  if fld w.toNat 48 16 ≠ 0 ∨ fld w.toNat 32 16 ≠ (v.toNat >>> l) % 2 ^ 16 then s.noteP 0x0106 p w.toNat
  else if 2 ^ 31 ≤ (v - pn.cidx).toNat then s.noteP 0x0107 p v.toNat
  else if 2 ^ l < (v - s.ridx p).toNat then
    let c := s.ridx p + BitVec.ofNat 32 (2 ^ l)
    (s.acceptPidx p c).noteP 0x0108 p (v.toNat + place c.toNat 32 32)
  else s.acceptPidx p v

/-- Whether a doorbell word of the pen may arrive: its read is in flight, or is due and is issued with it. -/
def State.awaitsWord (s : State) (p : Nat) : Bool :=
  s.own.any (fun o => o.kind = .doorbell p && !o.waiting) || s.stile.doorbells.contains p ||
  (s.cfg.nudgeEn && s.nudges.contains p)

/-- The read that a word answers ends. A read not yet issued is issued and answered at once. -/
def State.takeWord (s : State) (p : Nat) : State :=
  match s.own.find? (fun o => o.kind = .doorbell p && !o.waiting) with
  | some o => s.dropOwn o.key
  | none => { s with nudges := s.nudges.filter (· ≠ p), stile := { s.stile with doorbells := s.stile.doorbells.filter (· ≠ p) } }

/-- DOORBELL_WORD: a doorbell word arrives (R208). -/
def execDoorbellWord (pen : BitVec 12) (word : BitVec 64) (s : State) : Host.Outcome State Fault Refusal :=
  let p := pen.toNat
  .next (if s.live && s.cfg.enable && (s.pen p).served && s.awaitsWord p then
    let s1 := (s.takeWord p).putHost (s.cfg.doorbell.toNat + 8 * p) (leBytes word.toNat 8)
    let s2 : State := { s1 with stile := { s1.stile with dbFault := s1.stile.dbFault.filter (· ≠ p) } }
    (s2.doorbell p word).serveNudge p
  else s)

/-! ### Fetching (R205, R211, R242) -/

/-- The pen that the next turn serves: pen 0 first, then the first of the queue that is not passed over. -/
def State.turnPen (s : State) : Option Nat :=
  if s.mayFetch 0 then some 0
  else ((s.stile.queue.map Prod.fst).filter (· ≠ 0)).find? s.mayFetch

/-- Issue a burst for a pen. -/
def State.issueBurst (s : State) (p : Nat) : State :=
  let pn := s.pen p
  let n := s.burstCells p
  let i := s.nextCell p
  let a := pn.ent.ring + 64 * (i.toNat % 2 ^ pn.ent.logsz)
  match s.issueOwn (.burst p) false ((List.range n).map (fun k => a / 64 + k)) [] with
  | none => s
  | some t =>
    let b : Burst := { pen := p, first := i, cells := n, base := s.nextDid }
    let t1 : State := { t with stile := { t.stile with bursts := t.stile.bursts ++ [b],
                                                       queue := t.stile.queue.filter (fun x => x.1 ≠ p) },
                               nextDid := s.nextDid + n }
    if t1.unfetched p = 0 then t1 else { t1 with stile := { t1.stile with queue := t1.stile.queue ++ [(p, none)] } }

/-- FETCH_TURN: one burst for the pen at the head of the fetch queue (R211, R242). -/
def execFetchTurn (s : State) : Host.Outcome State Fault Refusal :=
  .next (if s.live && s.cfg.enable && decide (s.stile.bursts.length < 8) then
    (match s.turnPen with
     | none => s
     | some p => s.issueBurst p)
  else s)

/-- Put a descriptor in its place, by serial number: the order in which legends were fetched. -/
def insertDesc (d : Desc) : List Desc → List Desc
  | [] => [d]
  | e :: r => if d.did < e.did then d :: e :: r else e :: insertDesc d r

/-- One fetched cell of a pen: a legend opens a descriptor of serial number `n`, its last cell closes it. -/
def State.takeCell (s : State) (p n : Nat) (c : Cell) : State :=
  let pn := s.pen p
  let open_ := !pn.partial_.isEmpty
  let did := if open_ then pn.pdid else n
  let cells := pn.partial_ ++ [c]
  let whole := decide (cellCount ((cells[0]?).getD 0).toNat ≤ cells.length)
  let at_ := pn.cidx - BitVec.ofNat 32 (cells.length - 1)
  let s2 := s.modPen p (fun x => { x with cidx := x.cidx + 1, partial_ := if whole then [] else cells, pdid := did })
  if whole then { s2 with descs := insertDesc (Desc.fresh did p at_ cells none) s2.descs } else s2

/-- Bytes of cells. -/
def cellBytes (cells : List Cell) : List Byte := cells.flatMap (fun c => leBytes c.toNat 64)

/-- The first burst of a pen leaves the list. -/
def eraseBurst (p : Nat) : List Burst → List Burst
  | [] => []
  | x :: r => if x.pen = p then r else x :: eraseBurst p r

/-- DESCRIPTOR_BURST: the cells of a pen's oldest burst arrive; CIDX moves past them. -/
def execDescriptorBurst (pen : BitVec 12) (cells : List Cell) (s : State) : Host.Outcome State Fault Refusal :=
  let p := pen.toNat
  .next (match s.stile.bursts.find? (fun x => decide (x.pen = p)), s.own.find? (fun o => o.kind = .burst p) with
    | some b, some o =>
      if s.live && decide (cells.length = b.cells) && !o.waiting then
        let pn := s.pen p
        let s1 := s.dropOwn o.key
        let s2 : State := { s1 with stile := { s1.stile with bursts := eraseBurst p s1.stile.bursts } }
        let s3 := s2.putHost (pn.ent.ring + 64 * (b.first.toNat % 2 ^ pn.ent.logsz)) (cellBytes cells)
        ((List.range cells.length).zip cells).foldl (fun t c => t.takeCell p (b.base + c.1) c.2) s3
      else s
    | _, _ => s)

end Sys2Proof.Machine
end

