-- ==== Sys2Proof/Machine/Admission.lean ====
section
/-!
DEFINITION. Admission: the checks of R200 with their events, holds (R18), the price (R219 to R225, R251), the budget (R222,
R223), what an admitted descriptor takes, and the STEP refresh (R315).
-/
namespace Sys2Proof.Machine

/-! ### Refusal (R22) -/

/-- A descriptor is refused: nothing written, nothing released, no STEP. -/
def State.refuse (s : State) (did : Nat) (st : Status) : State :=
  s.modDesc did (fun d => { d with stage := .ended, status := st, tAdmit := s.tick, tDone := s.tick, bound := none })

/-- The brand of a cell index (R206). -/
def State.brandOf (s : State) (pen : Nat) (index : BitVec 32) : Nat := (index.toNat >>> (s.pen pen).ent.logsz) % 2 ^ 16

/-- One AFFINITY_REMAP record for each remapped bit (R177). -/
def State.noteRemaps (s : State) (d : Desc) : State :=
  (s.remaps d.p).foldl (fun t x => t.noteD 0x0103 none d (place x.1 0 6 + place x.2 8 6)) s

/-- Whether the checks came to step 5 of R200 and passed it. -/
def Verdict.pastRemap : Verdict → Bool
  | .pass => true
  | .bad _ => false
  | .refuse .refusedGrade => false
  | .refuse _ => true

/-- The checks of R200 on a whole fetched descriptor. A plan descriptor's brand is not checked (R234). The Bool says that
it passed. -/
def State.check (s : State) (d : Desc) : State × Bool :=
  if d.plan.isNone && d.p.brand ≠ s.brandOf d.pen d.index then
    ((s.noteD 0x0101 none d (s.brandOf d.pen d.index)).refuse d.did .pvBrand, false)
  else
    let v := s.verdict d.cells d.pen d.did
    let s1 := if v.pastRemap && !d.p.strict then s.noteRemaps d else s
    match v with
    | .pass => (s1, true)
    | .bad b =>
      ((s1.noteD 0x0102 none d (place b.bit 0 9 + place b.cell 9 4 + place b.step 13 3)).refuse d.did .refusedEncoding, false)
    | .refuse st => (s1.refuse d.did st, false)

/-! ### Holds (R18, R180, R183, R196, R198, R315, R322) -/

/-- A descriptor that holds its pen: FENCE, or GATE with ARM = 0. -/
def Desc.fences (d : Desc) : Bool := d.isOpc .fence || (d.isOpc .gate && !d.p.arms)

/-- Held at admission. -/
def Desc.isHeld (d : Desc) : Bool :=
  match d.stage with
  | .held _ => true
  | _ => false

/-- Whether an earlier FENCE or hold of the pen stands before the descriptor. -/
def State.penBlocked (s : State) (d : Desc) : Bool :=
  s.descs.any (fun e => decide (e.pen = d.pen ∧ e.did < d.did) && e.fences && (e.admitted || e.isHeld))

/-- Admitted descriptors that release a tag on the list (R181). -/
def State.releasersOf (s : State) (waits : List Nat) : List Nat :=
  if waits.isEmpty then []
  else (s.descs.filter (fun e => e.admitted && e.p.releases.any (fun t => waits.contains t))).map (fun e => e.did)

/-- Release tags that admitted descriptors hold. -/
def State.tagsHeld (s : State) : List Nat := dedup ((s.descs.filter (fun e => e.admitted)).flatMap (fun e => e.p.releases))

/-- Scoreboard entries in use (R183). -/
def State.entriesUsed (s : State) : Nat :=
  (s.descs.filter (fun e => e.active && !e.begun && !e.waitOn.isEmpty)).length + s.tagsHeld.length

/-- Scoreboard entries that a descriptor needs (R183). -/
def State.entriesNeeded (s : State) (d : Desc) : Nat :=
  b2n (!(s.releasersOf d.p.waits).isEmpty) + (d.p.releases.filter (fun t => !(s.tagsHeld.contains t))).length

/-- Why a descriptor that passed its checks must be held now. -/
def State.holdWhy (s : State) (d : Desc) : Option HoldWhy :=
  let before := s.descs.filter (fun e => decide (e.pen = d.pen ∧ e.did < d.did) && e.isHeld)
  if s.penBlocked d || (d.fences && !before.isEmpty) || (d.p.tracked && before.any (fun e => e.p.tracked)) then some .order
  else if d.p.tracked && decide (131072 < s.entriesUsed + s.entriesNeeded d) then some .entry
  else if d.isOpc .tally && (s.tally.st = .failed || (s.tally.st ≠ .mounted &&
      decide (4096 ≤ (s.descs.filter (fun e => e.active && e.isOpc .tally)).length))) then some .tally
  else if s.tally.st ≠ .failed && decide (s.tally.resv ≤ s.stile.step.toNat) then some .step
  else none

/-! ### The price (R219, R251) -/

/-- A descriptor's price: start, bound where it has one, fold-ticks of each executing fold, Dx, D, lines. -/
structure Priced where
  start : Nat
  bound : Option Nat
  df    : List (Nat × Nat)
  dx    : Nat
  dur   : Nat
  lines : Nat
  links : List Nat
  long  : Bool
  deriving DecidableEq, Repr

/-- Fold-ticks of a price. -/
def Priced.ft (x : Priced) : Nat := sumN (x.df.map Prod.snd)

/-- Largest Df. -/
def Priced.most (x : Priced) : Nat := maxN (x.df.map Prod.snd)

/-- Price a descriptor at the current tick. -/
def State.priceOf (s : State) (d : Desc) : Priced :=
  let p := d.p
  let cs := s.costs p d.did
  let rd := sumN (cs.map (fun c => c.rd))
  let wr := sumN (cs.map (fun c => c.wr))
  let dx := cdiv (64 * (rd + wr)) (Nat.max 1 (s.pen d.pen).ent.share)
  let lat := (if 0 < rd then s.cost.rd.toNat else 0) + (if 0 < wr then s.cost.wr.toNat else 0) +
    (if p.ports.isEmpty then 0 else s.cost.port.toNat)
  let rels := s.releasersOf p.waits
  let bounds := s.descs.filterMap (fun e => if rels.contains e.did then e.bound else none)
  let st := maxN ([s.tick] ++ cs.map (fun c => sget 0 s.hor.fold c.fold) ++
    (if 0 < rd + wr then [(s.pen d.pen).hpen] else []) ++ p.ports.map (fun q => sget 0 s.hor.port q) ++ bounds)
  let links := s.links p d.did
  let wait := if p.dclass = 0 then 0 else maxN (links.map (fun l => sget 0 s.hor.link l - st))
  let ringFolds := (s.hops p d.did).flatMap (fun h => [h.src, h.dst])
  let df := cs.map (fun c => (c.fold, cdiv (c.cyc + (if ringFolds.contains c.fold then 12 * wait else 0)) 12))
  let dur := Nat.max (maxN (df.map Prod.snd)) dx + lat
  { start := st, bound := if p.dclass = 0 then none else some (st + dur + 96), df := df, dx := dx, dur := dur,
    lines := rd + wr, links := links, long := cs.any (fun c => decide (768 < c.longest)) }

/-- The budget checks (R222, R223): `some` status when the descriptor is refused. -/
def State.budget (s : State) (d : Desc) (x : Priced) : Option Status :=
  let pn := s.pen d.pen
  let lim := fun (n : Nat) => decide (n ≠ 0xFFFFFFFF)
  let dl := (s.cfg.dl.getD (d.p.dclass - 1) 0).toNat
  if x.long && (d.p.dclass = 0 || !d.p.pinned) then some .refusedShape
  else if (lim pn.ent.allot && decide (pn.ent.allot < pn.ft + x.ft)) ||
      (lim pn.ent.xallot && decide (pn.ent.xallot < pn.xl + x.lines)) then some .refusedBudget
  else
    match x.bound with
    | none => none
    | some b =>
      if 0xFFFFFF < b - s.tick ∨ (dl ≠ 0 ∧ s.period.tb + dl < b) then some .refusedBudget else none

/-! ### Admitting (R220, R222, R236) -/

/-- Set some keys of a horizon to the same value where that moves them forward. -/
def raise (h : Sparse Nat) (ks : List Nat) (v : Nat) : Sparse Nat :=
  ks.foldl (fun t k => sset 0 t k (Nat.max (sget 0 t k) v)) h

/-- Horizons after a bounded admission (R220, R251). -/
def State.raiseHorizons (s : State) (d : Desc) (x : Priced) : State :=
  if x.bound.isNone then s
  else
    let fold := x.df.foldl (fun t y => raise t [y.1] (x.start + Nat.max y.2 x.dx)) s.hor.fold
    let s1 : State := { s with hor := { s.hor with
      fold := fold, port := raise s.hor.port d.p.ports (x.start + x.most), link := raise s.hor.link x.links (x.start + x.dur) } }
    if x.lines = 0 then s1 else s1.modPen d.pen (fun pn => { pn with hpen := Nat.max pn.hpen (x.start + x.dx) })

/-- Stochastic rounding (R135, R287). -/
def Desc.rnd (d : Desc) : Bool := (d.isOpc .tprod || d.isOpc .requant) && (TParams.ofAux d.p.aux).rnd

/-- Descriptors that a CANCEL names (R231). -/
def State.cancelSet (s : State) (d : Desc) : List Nat :=
  let a := d.p.aux
  (s.descs.filter (fun e => e.did ≠ d.did && e.pen = fld a 0 12 && (bit a 12 || e.p.tag = fld a 32 32))).map (fun e => e.did)

/-- Effects that an opcode has at its own admission: SEEDSET sets its pen's seed (R232), an arming GATE raises
GATE_ARM_OUT (R293). -/
def State.atAdmission (s : State) (d : Desc) : State :=
  match d.p.opc with
  | some .seedset => s.modPen (fld d.p.aux 0 12) (fun pn => { pn with seed := BitVec.ofNat 64 (fld d.p.aux 64 64) })
  | some .gate => s.setArm
  | _ => s

/-- The thermal level that applies at a tick: a newly accepted one from the tick after (R377). -/
def Therm.applied (t : Therm) (tick : Nat) : BitVec 2 := if tick < t.from_ then t.before else t.lvl

/-- Level 3 applies at the tick, or has been accepted in it and applies from the next: no bound holds (R25, R228). -/
def Therm.hot (t : Therm) (tick : Nat) : Bool := decide (t.applied tick = 3 ∨ t.lvl = 3)

/-- Ring transfers that a bounded descriptor asks for at its admission (R250). -/
def State.askTransfers (s : State) (d : Desc) (step : Nat) : List Transfer :=
  let hs := s.hops d.p d.did
  ((List.range hs.length).zip hs).map (fun x =>
    { did := d.did, index := x.1, src := x.2.src, dst := x.2.dst, beats := x.2.beats, asked := s.tick, step := step,
      until_ := none })

/-- Admit a descriptor at its price. -/
def State.takeIn (s : State) (d : Desc) (x : Priced) : State :=
  let step := s.stile.step + 1
  let pn := s.pen d.pen
  let void := x.bound.isSome && s.therm.hot s.tick
  let asks := if x.bound.isSome && !void then s.askTransfers d step.toNat else []
  let fs := s.folds_ d.p d.did
  let waits := s.releasersOf d.p.waits
  let targets := if d.isOpc .cancel then s.cancelSet d else []
  let e : Desc := { d with
    stage := .admitted, admitted := true, step := step.toNat, tAdmit := s.tick, bound := x.bound, start := x.start,
    xbytes := 64 * x.lines, seed := pn.seed, period := s.period.num.toNat, folds := fs, waitOn := waits, targets := targets,
    void := void }
  let s1 : State := { s with stile := { s.stile with step := step }, xfers := s.xfers ++ asks }
  let s2 := s1.modPen d.pen (fun y =>
    { y with ft := y.ft + x.ft, xl := y.xl + x.lines, stoch := if d.rnd then y.stoch ++ [step.toNat] else y.stoch,
             mv := if d.p.v then y.mv ++ [step.toNat] else y.mv })
  let s3 := ((s2.raiseHorizons d x).modDesc d.did (fun _ => e)).count 0 1
  (s3.wake (fs ++ (s.hops d.p d.did).flatMap (fun h => [h.src, h.dst]))).atAdmission d

/-- No price: the no-fold class and everything of pen 0 (R219, R230). -/
def State.noPrice (s : State) : Priced :=
  { start := s.tick, bound := none, df := [], dx := 0, dur := 0, lines := 0, links := [], long := false }

/-- Price a descriptor and take it in, or refuse it. -/
def State.priceAdmit (s : State) (d : Desc) : State :=
  if d.pen = 0 || d.p.opc.any Opc.noFold then s.takeIn d s.noPrice
  else
    let x := s.priceOf d
    match s.budget d x with
    | some st => s.refuse d.did st
    | none => s.takeIn d x

/-- Hold a descriptor; counter 7 counts those that wait for an entry or a refresh. -/
def State.hold (s : State) (d : Desc) (w : HoldWhy) : State :=
  let t := s.modDesc d.did (fun e => { e with stage := .held w })
  match w with
  | .entry | .step => t.count 7 1
  | _ => t

/-- Check a descriptor, then take it in, hold it or refuse it. -/
def State.take (s : State) (d : Desc) : State :=
  let c := s.check d
  if !c.2 then c.1
  else
    match c.1.holdWhy d with
    | some w => c.1.hold d w
    | none => c.1.priceAdmit d

/-! ### The commands -/

/-- Whether the stile admits at all (R289, R317, R335). -/
def State.admitting (s : State) : Bool :=
  s.live && s.cfg.enable && !s.pause.req && !s.pause.paused && !s.pause.busy && s.tally.stop = .no

/-- Whether a legend fetched before serial number `n` has yet to be checked: its cells are on their way, or it is whole in its ring
and its pen may fetch the rest. A pen at its credit limit is passed (R205, R212). -/
def State.fetchedBefore (s : State) (n : Nat) : Bool :=
  s.stile.bursts.any (fun b => decide (b.base < n ∧ s.creditUsed b.pen < (s.pen b.pen).ent.credit)) ||
  s.pens.any (fun x => decide (!x.2.partial_.isEmpty ∧ x.2.pdid < n ∧ s.creditUsed x.1 < x.2.ent.credit ∧
    cellCount ((x.2.partial_[0]?).getD 0).toNat ≤ x.2.partial_.length + s.cellsInFlight x.1 + s.unfetched x.1) &&
    (decide (0 < s.cellsInFlight x.1) || s.mayFetch x.1))

/-- The fetched descriptor that comes next: the first in legend order of a pen that is not held (R212). -/
def State.nextFetched (s : State) : Option Desc :=
  (s.descs.find? (fun d => d.stage = .fetched && !s.penBlocked d && !s.noCredit d && !s.cancelled d)).filter
    (fun d => !s.fetchedBefore d.did)

/-- ADMISSION: the next fetched descriptor is checked, priced and admitted, or held, or refused. -/
def execAdmission (s : State) : Host.Outcome State Fault Refusal :=
  .next (if s.admitting then
    (match s.nextFetched with
     | none => s
     | some d => s.take d)
  else s)

/-- HELD_ADMISSION: the first held descriptor that need no longer wait is priced and admitted or refused. -/
def execHeldAdmission (s : State) : Host.Outcome State Fault Refusal :=
  .next (if s.admitting then
    (match s.descs.find? (fun d => d.isHeld && (s.holdWhy d).isNone && !s.noCredit d && !s.cancelled d) with
     | none => s
     | some d => s.priceAdmit d)
  else s)

/-- STEP_REFRESH: STEP has come within 2^19 of the reservation, so a slot with a new one is being written (R315). -/
def execStepRefresh (s : State) : Host.Outcome State Fault Refusal :=
  .next (if s.live && s.tally.stop = .no && s.tally.slotDone && s.tally.refresh.isNone && s.tally.commit.isNone &&
      decide (s.tally.resv ≤ s.stile.step.toNat + 2 ^ 19) then
    { s with tally := { s.tally with refresh := some (s.stile.step.toNat + 2 ^ 20) } }
  else s)

/-- STEP_REFRESH_DONE: the slot is written and its reservation takes effect; never before the marker of a record whose close it
follows (R316). -/
def execStepRefreshDone (s : State) : Host.Outcome State Fault Refusal :=
  .next (if s.up && s.tally.commit.isNone then s.finishRefresh else s)

end Sys2Proof.Machine
end

