-- ==== Sys2Proof/Machine/Bringup.lean ====
section
/-!
DEFINITION. Resets and bring-up (15_bringup_and_power.md), the mount of the tally book (12_tally_book.md R320 to R322),
REMAP (10_boundary.md R263), ENABLE (14_registers.md R351), and the preparation of a twin pair (11_determinism.md R296).
-/
namespace Sys2Proof.Machine

/-! ### Block reset (R371, R372) -/

/-- A write of Polter's own that is in flight at a reset: each of its lines that still awaits its response lands or not. -/
def State.settleLine (o : Own) (s : State) (line : Nat) : State :=
  let c := s.choose 2
  if c.1 = 1 then c.2.storeBytes (o.writes.filter (fun x => x.1 / 64 = line)) else c.2

/-- Settle the lines of Polter's own writes in flight. -/
def State.settleOwn (s : State) : State :=
  s.own.foldl (fun t o =>
    ((s.ports.txns.filter (fun x => decide (x.owner = .own o.key) && x.write)).map (fun x => x.line)).foldl (State.settleLine o) t) s

/-- What no reset touches: the queue, the fuses, host memory, MRAM, and the model's own fields. Pasture and the Shepherd
SRAM keep their bytes until their clear is done. -/
def State.carry (s t : State) : State :=
  { t with pending := s.pending, host := s.host, poison := s.poison, past := s.past, raddle := s.raddle, ecc := s.ecc,
           sram := s.sram, mram := s.mram, freeCtr := s.freeCtr, debugOut := s.debugOut, nextDid := s.nextDid,
           nextKey := s.nextKey }

/-- PLT_RST_N accepted low. Outstanding SN transactions stay until they are answered or time out; requests that wait to be sent
again are withdrawn (R261). -/
def State.enterReset (s : State) : State :=
  let s1 := s.stopExport.settleOwn
  let t := s1.carry (State.released s1.fuses)
  { t with tick := s1.tick, pins := { t.pins with rstLow := true },
           ports := { t.ports with txns := s1.ports.txns.filter (fun x => x.retryAt.isNone) } }

/-- BLOCK_RESET: the block enters reset (R371). In test mode, which only a block reset leaves, it leaves the test mode. -/
def execBlockReset (s : State) : Host.Outcome State Fault Refusal :=
  .next (if s.up then s.enterReset
    else if s.pins.testMode then { s with pins := { s.pins with testMode := false } } else s)

/-- RESET_RELEASE: PLT_RST_N accepted high, held until every outstanding transaction is settled (R371, R372). -/
def execResetRelease (s : State) : Host.Outcome State Fault Refusal :=
  .next (if s.pins.rstLow && !s.pins.testMode && s.ports.txns.all (fun t => decide (t.limit ≤ s.tick)) then
    s.carry (State.released s.fuses)
  else s)

/-! ### Clears and ports (R372) -/

/-- PASTURE_CLEAR_DONE: every pasture is zero with every raddle bit clear, 16,384 FCLK cycles after release. -/
def execPastureClearDone (s : State) : Host.Outcome State Fault Refusal :=
  .next (if s.up && !s.boot.pastureDone && decide (1024 ≤ s.tick) then
    { s with past := [], raddle := [], ecc := [], handed := [], boot := { s.boot with pastureDone := true } }
  else s)

/-- PLAN_STORE_CLEAR_DONE: the plan store is zero and PLT_READY.PLAN rises. -/
def execPlanStoreClearDone (s : State) : Host.Outcome State Fault Refusal :=
  .next (if s.up && !s.boot.planDone && decide (1024 ≤ s.tick) then
    { s with plans := [], ready := { s.ready with plan := true }, boot := { s.boot with planDone := true } }
  else s)

/-- SHEPHERD_SRAM_CLEAR_DONE: the Shepherd SRAM is zero, 4,096 FCLK cycles after release. -/
def execShepherdSramClearDone (s : State) : Host.Outcome State Fault Refusal :=
  .next (if s.up && !s.boot.sramDone && decide (256 ≤ s.tick) then
    { s with sram := [], boot := { s.boot with sramDone := true } }
  else s)

/-- The PLT_READY bit of a port. -/
def Ready.setPort (r : Ready) : PortName → Ready
  | .sn k => { r with sn := r.sn ||| BitVec.ofNat 8 (2 ^ k.toNat) }
  | .ne k => { r with ne := r.ne ||| BitVec.ofNat 4 (2 ^ k.toNat) }
  | .nr k => { r with nr := r.nr ||| BitVec.ofNat 2 (2 ^ k.toNat) }

/-- PORT_READY: a port raises its bit 1,024 FCLK cycles after release. -/
def execPortReady (port : PortName) (s : State) : Host.Outcome State Fault Refusal :=
  .next (if s.up && decide (64 ≤ s.tick) then { s with ready := s.ready.setPort port } else s)

/-! ### The root of trust and the Shepherd (R263, R373) -/

/-- What an address of the Shepherd reaches (Table 10-2): a byte of its boot ROM; a byte of its working SRAM, which there may
be written or not; or no memory, where an access faults the Shepherd. -/
inductive ShepherdAt where
  | rom (offset : Nat)
  | sram (offset : Nat) (canWrite : Bool)
  | noMemory
  deriving DecidableEq, Repr

/-- The Shepherd's address map (Table 10-2). -/
def shepherdAt (remap : Bool) (a : Nat) : ShepherdAt :=
  if a < 0x10000 then (if remap then .sram a true else .rom a)
  else if a < 0x40000 then (if remap then .sram a true else .noMemory)
  else if 0x100000 ≤ a ∧ a < 0x110000 then .rom (a - 0x100000)
  else if 0x200000 ≤ a ∧ a < 0x240000 then .sram (a - 0x200000) (!remap)
  else .noMemory

/-- Store a byte at an address of the Shepherd's map: where it may be written, the SRAM takes it. -/
def State.shepherdStore (s : State) (a : Nat) (b : Byte) : State :=
  match shepherdAt s.cfg.remap a with
  | .sram o true => { s with sram := sset 0 s.sram o b }
  | _ => s

/-- The load port of the root of trust writes the image at the SRAM alias; once REMAP is 1 it has no path (Table 10-1). -/
def State.loadImage (s : State) (image : List Byte) : State :=
  (bytesAt 0x200000 image).foldl (fun t x => t.shepherdStore x.1 x.2) s

/-- ROOT_OF_TRUST_SUCCESS: the image is in the working SRAM and the ROM sets REMAP. -/
def execRootOfTrustSuccess (build : BitVec 16) (image : List Byte) (s : State) : Host.Outcome State Fault Refusal :=
  .next (if s.up && s.boot.sramDone && s.boot.rot = .none && decide (image.length ≤ 262144) then
    { s.loadImage image with boot := { s.boot with rot := .success, build := build }, cfg := { s.cfg with remap := true } }
  else s)

/-- ROOT_OF_TRUST_FAILURE: the ROM keeps waiting. -/
def execRootOfTrustFailure (s : State) : Host.Outcome State Fault Refusal :=
  .next (if s.up && s.boot.rot = .none then { s with boot := { s.boot with rot := .failure } } else s)

/-- SHEPHERD_RUNNING: the image reports itself running. -/
def execShepherdRunning (s : State) : Host.Outcome State Fault Refusal :=
  .next (if s.live && s.boot.rot = .success && !s.ready.shepherd then
    { s with ready := { s.ready with shepherd := true }, boot := { s.boot with shepherdTick := some s.tick } }
  else s)

/-- A write of 1 to REMAP. -/
def State.setRemap (s : State) : State :=
  if s.boot.rot = .success then { s with cfg := { s.cfg with remap := true } } else s.note 0x0405 0

/-- REMAP: a write of 1 to PLT_CFG.REMAP (R263). -/
def execRemap (s : State) : Host.Outcome State Fault Refusal := .next (if s.up then s.setRemap else s)

/-- DEBUG_PORT_OPEN: the root of trust opens the debug port before the Shepherd image runs (R382). -/
def execDebugPortOpen (s : State) : Host.Outcome State Fault Refusal :=
  .next (if s.up && !s.ready.shepherd then { s with boot := { s.boot with debugOpen := true } } else s)

/-- TEST_MODE_ENTRY: the block is reset and everything a scan chain could reach is cleared (R383). -/
def execTestModeEntry (s : State) : Host.Outcome State Fault Refusal :=
  let t := if s.up then s.enterReset else s
  .next { t with pins := { t.pins with testMode := true }, past := [], raddle := [], ecc := [], handed := [], folds := [],
                 plans := [], sram := [], tally := { t.tally with key := none } }

/-! ### Calibration and the stile (R221, R374) -/

/-- PLT_READY.STILE: calibration done and either the mount's counter slot written or the tally book FAILED. -/
def State.raiseStile (s : State) : State :=
  if s.boot.calibrated && (s.tally.slotDone || s.tally.st = .failed) then { s with ready := { s.ready with stile := true } } else s

/-- The larger of two 16-bit numbers. -/
def max16 (a b : BitVec 16) : BitVec 16 := if a.toNat < b.toNat then b else a

/-- CALIBRATION_DONE: the cost table, no entry below its reset value. -/
def execCalibrationDone (rd wr port : BitVec 16) (s : State) : Host.Outcome State Fault Refusal :=
  .next (if s.live && s.ready.shepherd && !s.boot.calibrated then
    ({ s with cost := { rd := max16 0x30 rd, wr := max16 0x20 wr, port := max16 0x8 port },
              boot := { s.boot with calibrated := true } } : State).raiseStile
  else s)

/-! ### Mount (R320 to R322) -/

/-- The tally book cannot mount: FAILED, with an event (R322). -/
def State.failTally (s : State) (why : Nat) : State :=
  (({ s with tally := { s.tally with st := .failed } } : State).note 0x0408 why).raiseStile

/-- The early mount on counter slot `j` (R320). -/
def State.mountOn (s : State) (j : Nat) (key : BitVec 256) : State :=
  let m := s.mram
  let sq := leNat (m.read true (counterOff j + 8) 8)
  let resv := leNat (m.read true (counterOff j + 16) 8)
  let mount := BitVec.ofNat 32 (leNat (m.read true (counterOff j + 24) 4) + 1)
  let held := m.holds sq
  let new := if held then sq + 1 else sq
  let lost := !held && decide (0 < m.gen j)
  let brk := decide (new ≠ 1) && !m.holds (new - 1)
  let prev := if new = 1 ∨ brk then 0#256 else m.chain (new - 1)
  let s1 : State := { s with
    stile := { s.stile with step := BitVec.ofNat 64 resv },
    tally := { s.tally with key := some key, gen := m.gen j, mount := mount, brk := brk, lost := lost, slotDone := true,
                            st := .verifying, sealFull := m.wasFull (new - 1) } }
  let s2 := s1.putSlot new (resv + 2 ^ 20) mount.toNat
  (s2.openEpoch s.tick new prev true lost brk false (if brk then new - 1 else 0)).raiseStile

/-- EARLY_MOUNT: the root of trust delivers the ledger key and the Shepherd runs the early part of the mount. A key that
comes after its limit is ignored. After a warning or a cut the mount still fails where it must (R322), and writes nothing more
(R326). -/
def execEarlyMount (key : BitVec 256) (s : State) : Host.Outcome State Fault Refusal :=
  .next (match s.boot.shepherdTick with
    | none => s
    | some t =>
      if s.live && s.tally.st = .unmounted && s.tally.key.all (fun k => k = key) && decide (s.tick ≤ t + 4687500) then
        let s1 : State := { s with tally := { s.tally with key := some key } }
        (if !s.mram.formatOk then s1.failTally 0
         else match s.mram.current with
           | none => s1.failTally 1
           | some j => if s.tally.stop = .no then s1.mountOn j key else s1)
      else s)

/-- LEDGER_KEY_TIMEOUT: no key within 50 ms of PLT_READY.SHEPHERD rising (R322). -/
def execLedgerKeyTimeout (s : State) : Host.Outcome State Fault Refusal :=
  .next (match s.boot.shepherdTick with
    | none => s
    | some t =>
      if s.live && s.tally.st = .unmounted && s.tally.key.isNone && decide (t + 4687500 < s.tick) then
        ({ s with tally := { s.tally with keyLate := true } } : State).failTally 2
      else s)

/-- LATE_MOUNT_DONE: verification finishes; a break is recorded in the open epoch; STATE becomes MOUNTED (R321). -/
def execLateMountDone (s : State) : Host.Outcome State Fault Refusal :=
  .next (if s.live && s.tally.st = .verifying && s.tally.stop = .no then
    let early := s.tally.brk
    let late := s.mram.lateBreak (s.tally.key.getD 0) s.tally.seq
    let s1 := match late with
      | some k =>
        if early then s
        else (({ s with tally := { s.tally with brk := true } } : State)).modEpoch (fun e =>
          { e with brk := true, breakSeq := BitVec.ofNat 64 k })
      | none => s
    let s2 := s1.rebuildSeal s.tally.seq
    let s3 : State := { s2 with tally := { s2.tally with st := .mounted }, ready := { s2.ready with tally := true } }
    if s3.tally.brk then s3.note 0x0409 (((s3.tally.epoch.map (fun e => e.breakSeq.toNat)).getD (late.getD 0))) else s3
  else s)

/-! ### The first patrol (R374) -/

/-- Physical folds of a wave that the fuses have not switched off. -/
def State.waveFolds (s : State) (w : Nat) : List Nat :=
  (rangeFrom (16 * w) 16).filter (fun p => decide (p < 68) && (s.fuses.phys.contains p || s.fuses.spares.contains p))

/-- Whether a fold has been through the first patrol. -/
def State.patrolled (s : State) (p : Nat) : Bool := s.boot.passed.contains p || s.pstate p = .retired

/-- A wave is done. -/
def State.waveDone (s : State) (w : Nat) : Bool := (s.waveFolds w).all s.patrolled

/-- A fold passes the first patrol: a backing fold's logical fold becomes ready, its logic domain having been woken for
the patrol (R376). -/
def State.passFirst (s : State) (p : Nat) : State :=
  let t : State := { s with boot := { s.boot with passed := s.boot.passed ++ [p] } }
  match t.pstate p, t.logical p with
  | .backs, some f => (t.setReady f true).modFold p (fun fo => { fo with logicOn := true, lastTick := s.tick })
  | _, _ => t

/-- A fold fails the first patrol and is retired. A backing fold's logical fold waits for a spare. -/
def State.failFirst (s : State) (p : Nat) : State :=
  let c := s.choose 16
  let t := c.2.event 0x0305 (if c.2.pstate p = .backs then c.2.logical p else none) nullTag 0 0 (place p 0 7 + place c.1 8 4)
  if t.pstate p = .spare then t.retireSpare p
  else ((t.setPhys p .retired).bumpFault 1 1).event 0x0306 (t.logical p) nullTag 0 0 p

/-- Logical folds whose backing fold is retired and that no spare has been named for. -/
def State.waitingFolds (s : State) : List Nat :=
  (List.range s.n).filter (fun f =>
    (match s.phys f with
     | some p => s.pstate p = .retired
     | none => false) && !(s.fmap.subst.any (fun x => decide (x.1 = f))))

/-- Name a spare that has passed its own patrol for a waiting fold, lowest first and with no copy; where none can come the
fold becomes absent. -/
def State.nameSpare (s : State) (f : Nat) : State :=
  match s.freeSpares.find? (fun p => s.boot.passed.contains p) with
  | some sp => s.startSubst f sp none
  | none => if s.freeSpares.isEmpty then s.makeAbsent f ((s.phys f).getD 68) [] else s

/-- FIRST_PATROL_WAVE: a wave of 16 physical folds in ascending order has been patrolled. -/
def execFirstPatrolWave (wave : BitVec 3) (failing : List (BitVec 7)) (s : State) : Host.Outcome State Fault Refusal :=
  let w := wave.toNat
  if 4 < w then .fault .noSuchPart
  else if s.live && s.ready.shepherd && s.boot.pastureDone && !s.pause.paused && (List.range w).all s.waveDone &&
      !s.waveDone w then
    let s1 := (s.waveFolds w).foldl (fun t p =>
      if t.patrolled p then t
      else if failing.contains (BitVec.ofNat 7 p) then t.failFirst p else t.passFirst p) s
    .next (s1.waitingFolds.foldl State.nameSpare s1)
  else .next s

/-! ### ENABLE (R214, R292, R296, R306, R343, R351) -/

/-- Whether an entry of PLT_TWINk is no pair: its folds are equal or not below n, or belong to another enabled entry
(R296). -/
def State.twinBad (s : State) (k : Nat) (t : Twin) : Bool :=
  let a := t.pri.toNat
  let b := t.shd.toNat
  decide (a = b ∨ s.n ≤ a ∨ s.n ≤ b) ||
  ((List.range 8).zip s.twins).any (fun x => decide (x.1 ≠ k) && x.2.en &&
    [x.2.pri.toNat, x.2.shd.toNat].any (fun c => decide (c = a ∨ c = b)))

/-- Read PLT_TWINk: a newly enabled pair is to be prepared, an entry that is no pair is ignored with an event (R296). -/
def State.readTwin (s : State) (k : Nat) : State :=
  match s.twins[k]? with
  | none => s
  | some t =>
    if !t.en || t.taken then s
    else if s.twinBad k t then s.note 0x0404 k
    else { s with twins := setNth s.twins k { t with taken := true, prep := true } }

/-- ENABLE rises. -/
def State.enable (s : State) : State :=
  if !(s.live && !s.cfg.enable && s.ready.stile && s.ready.fold ≠ 0) then s
  else
    let p := s.cfg.period.toNat
    let s1 : State := { s with
      cfg := { s.cfg with enable := true },
      evt := { s.evt with w := 0, issue := 0 },
      logs := { s.logs with runW := 0, radW := 0, runFull := false },
      period := { s.period with num := 0, tb := s.tick, next := some (s.tick + p), inForce := p, pending := [] },
      stile := { s.stile with stepOn := s.stile.step.toNat, sweepLong := false,
                              sweepAt := if s.cfg.nudgeEn then none else some s.tick } }
    let s2 := (List.range 256).foldl State.loadRing s1
    let s3 := (List.range 8).foldl State.readTwin s2
    s3.nudges.foldl State.serveNudge s3

/-- A write of PLT_CFG (Table 14-5). -/
def State.writeCfg (s : State) (en remap nudge : Bool) : State :=
  let s1 := if remap then s.setRemap else s
  let s2 := s1.setNudgeEn nudge
  if en then s2.enable else s2

/-- ENABLE: a write of PLT_CFG with ENABLE = 1. -/
def execEnable (nudgeEn : Bool) (s : State) : Host.Outcome State Fault Refusal :=
  .next (if s.up then s.writeCfg true false nudgeEn else s)

/-- The Shepherd copies a primary's slice, route cache and vector file to its shadow, and the pair is active (R296). -/
def State.prepareTwin (s : State) (k : Nat) (t : Twin) : State :=
  match s.phys t.pri.toNat, s.phys t.shd.toNat with
  | some a, some b =>
    let s1 := s.copySlice a b
    let from_ := s1.fold a
    let s2 := s1.modFold b (fun fo => { fo with route := from_.route, vregs := from_.vregs, acc := from_.acc, logicOn := true,
                                                lastTick := s.tick })
    { s2 with twins := setNth s2.twins k { t with active := true, prep := false } }
  | _, _ => s

/-- TWIN_PREPARED: the Shepherd has prepared a newly enabled pair. -/
def execTwinPrepared (k : BitVec 3) (s : State) : Host.Outcome State Fault Refusal :=
  .next (match s.twins[k.toNat]? with
    | none => s
    | some t => if s.live && s.cfg.enable && t.prep && !s.pause.paused then s.prepareTwin k.toNat t else s)

end Sys2Proof.Machine
end

