-- ==== Sys2Proof/Machine/Suspend.lean ====
section
/-!
DEFINITION. Suspension (06_fold_files.md R163 to R165): what a fold keeps of a suspended descriptor, preemption by bounded
work, resumption, and the end of a descriptor by a translation fault (10_boundary.md R275).
-/
namespace Sys2Proof.Machine

/-! ### What SROW records (R164, R284) -/

/-- The whole covered sequence of a descriptor in order, as its units would leave it. -/
def State.wholeCov (s : State) (d : Desc) : List Cov :=
  sortCov (d.work.flatMap (fun x => (s.outsOf d x.1 x.2 0 x.2.length).flatMap (fun o => o.cov)))

/-- The same place of the covered sequence. -/
def Cov.same (a b : Cov) : Bool := decide (a.fold = b.fold ∧ a.part = b.part ∧ a.key = b.key)

/-- The positioned PD64 partial of what fold `f` has committed: over the whole covered sequence, with every element that
the fold has not yet written as zero (R284). -/
def State.partialDigest (s : State) (d : Desc) (f : Nat) : BitVec 64 :=
  let mine := d.cov.filter (fun c => decide (c.fold = f))
  let seq := (s.wholeCov d).map (fun c => (mine.find? (fun m => m.same c)).getD { c with val := 0 })
  BitVec.ofNat 64 (pdPart (covBytes seq) 0) ^^^ (d.acc f).xdig

/-- Whether a fold that suspends the descriptor records rows (R165, R166). -/
def Desc.byRows (d : Desc) : Bool := d.isOpc .vload && !(VParams.ofAux d.p.aux).trans

/-- SROW of a fold that suspends `d` (Table 06-6). -/
def State.srowOf (s : State) (d : Desc) (f : Nat) : Srow :=
  let n := d.at_ f
  let a := d.acc f
  { row := if d.byRows then BitVec.ofNat 16 n else 0, unit := if d.byRows then 0 else BitVec.ofNat 32 n,
    rvalid := if d.byRows then BitVec.ofNat 32 ((2 ^ n - 1) <<< (VParams.ofAux d.p.aux).vr) else 0, susp := true,
    sat := a.sat, constCh := a.constCh, tag := BitVec.ofNat 32 d.p.tag, brand := BitVec.ofNat 16 d.p.brand,
    dpart := s.partialDigest d f, clamps := BitVec.ofNat 32 a.clamps, raddles := BitVec.ofNat 32 (d.raddlesOn f) }

/-! ### Suspending and resuming -/

/-- A fold suspends a descriptor. One that runs another descriptor keeps running it beside the suspended one. -/
def State.suspendOn (s : State) (f did : Nat) (why : SuspWhy) : State :=
  match s.desc? did with
  | none => s
  | some d =>
    if !d.active then s
    else
      let sr := s.srowOf d f
      let fo := s.lfold f
      let mine := decide (fo.running = some did)
      (s.modPair f (fun x =>
        { x with running := if mine then none else x.running, susp := some { did := did, why := why, ready := false }, srow := sr,
                 latches := if mine then Latches.clear else x.latches })).voidBarred

/-- The bounded descriptor that a fold would start next. -/
def State.preemptor (s : State) (f : Nat) : Option Desc :=
  s.descs.find? (fun e => e.active && e.bounded && e.ranked && e.folds.contains f && !s.on e f && s.waitsMet e && !s.heldBack e f)

/-- Bring one fold of a descriptor to unit `u`, its other folds staying where they are. -/
def State.advanceOne (s : State) (did f u : Nat) : State :=
  match s.desc? did with
  | none => s
  | some d => s.advance did (fun g => if g = f then u else d.at_ g)

/-- PREEMPTION_SUSPEND: a fold that runs a background descriptor, or one that a page fault has made run as background, suspends it
after `units` units, because a bounded one is ready there (R163, R225). -/
def execPreemptionSuspend (d : Nat) (fold : BitVec 6) (units : Nat) (s : State) : Host.Outcome State Fault Refusal :=
  let f := fold.toNat
  .next (match s.desc? d, s.preemptor f with
    | some e, some b =>
      if s.runsOn e f && !e.ranked && (s.lfold f).susp.isNone && decide (1 ≤ units ∧ e.at_ f ≤ units ∧ units < e.unitsOn f) then
        let t := s.advanceOne d f units
        if (t.desc? d).any (fun x => decide (x.at_ f = units)) then t.suspendOn f d (.preempt b.did) else t
      else s
    | _, _ => s)

/-- What a fold gives up as it takes a suspended descriptor up again: the lines of the unit that it restarts, which it reads and
writes anew, and those that it has fetched ahead (R165, R166). -/
def Desc.restart (d : Desc) (f tick : Nat) : Desc :=
  { d with since := tick, sent := d.sent.filter (fun x => decide (x.fold ≠ f)), wire := d.wire.filter (fun x => decide (x.1 ≠ f)),
           redo := (f, d.at_ f) :: d.redo.filter (fun x => decide (x.1 ≠ f)) }

/-- A fold takes its suspended descriptor up again; a SHUFFLE of class BODY loads its route again (Table 06-7). -/
def State.resumeOn (s : State) (f did : Nat) : State :=
  let s1 := (s.modDesc did (fun d => d.restart f s.tick)).modPair f (fun fo =>
    { fo with running := some did, susp := none, srow := Srow.blank, latches := Latches.clear, lastTick := s.tick,
              logicOn := true, landing := fo.landing.filter (fun l => decide (l.did ≠ did)) })
  match s.desc? did with
  | some d => s1.loadRoute d f
  | none => s1

/-- SUSPENDED_RESUME: the fold runs nothing else and its suspended descriptor may resume (R163, R165). -/
def execSuspendedResume (fold : BitVec 6) (s : State) : Host.Outcome State Fault Refusal :=
  let f := fold.toNat
  .next (match (s.lfold f).susp with
    | none => s
    | some u =>
      if s.live && !s.pause.req && !s.pause.paused && s.present f && (s.lfold f).running.isNone && s.suspReady u then
        s.voidBarred.resumeOn f u.did
      else s)

/-- A descriptor ends XLAT_FAULT; its other folds stop at their cancel points. Of the interrupted units, the host bytes that write
transactions have carried stand (R275). -/
def State.endFault (s : State) (did : Nat) (pts : Progress) : State := s.stopAt did pts .xlatFault

end Sys2Proof.Machine
end

