-- ==== Sys2Proof/Machine/Stream.lean ====
section
/-!
DEFINITION. Streaming and the SN ports: the crook's grants of single lines (09_streaming.md R237 to R247), ring transfers
(R250), the answers to SN responses and translation faults (10_boundary.md R258 to R277).
-/
namespace Sys2Proof.Machine

/-! ### Grants (R239, R240, R243 to R245) -/

/-- Whether the next request of fold `f` is the first of the descriptor's that wait (R245). -/
def State.firstAsking (s : State) (d : Desc) (f : Nat) : Bool :=
  d.folds.all (fun g => g = f || !(s.waiting.any (fun w => decide (w.did = d.did ∧ w.fold = g))) || !s.works d g ||
    decide (s.askedAt d.did f < s.askedAt d.did g ∨ (s.askedAt d.did f = s.askedAt d.did g ∧ f < g)))

/-- The next line that fold `f` writes for the descriptor that it runs: one to be written again, or the next of the unit in
progress once its reads have landed and its transfers have come, and once the check pass of STRICT has found no clamp (R50); with
the unit and the data beat. -/
def State.nextWrite (s : State) (d : Desc) (f p : Nat) : Option (Nat × HLine × (BitVec 512 × BitVec 64 × Bool)) :=
  match d.stalledOn f with
  | w :: _ => some (w.unit, d.againLine w, (w.data, w.strb, w.poison))
  | [] =>
    let us := d.share f
    let u := d.at_ f
    if d.checking && (!s.checkRead d || s.strictHit d) || !s.unitReady d f p u || !(s.unsent d f us u false).isEmpty then none
    else ((s.unsent d f us u true).head?).map (fun h =>
      (u, h, s.pieceBeat h.line (keepPieces d.derr (s.unitBytes d f u (us.getD u [])).2)))

/-- What the issue of a write leaves in the descriptor. -/
def Desc.issuedWrite (d : Desc) (f u line : Nat) : Desc :=
  match d.stalledOn f with
  | w :: _ => { d with stalled := d.stalled.erase w }
  | [] => { d.bumpSent f u true 1 with wire := d.wire ++ [(f, u, line)] }

/-- Issue one granted line of unit `u` on fold `f`, whose physical fold is `p`; `bs` is the batch table that holds it. -/
def State.issueHost (s : State) (d : Desc) (f p u : Nat) (write : Bool) (h : HLine) (beat : BitVec 512 × BitVec 64 × Bool)
    (bs : List Batch) : State :=
  match s.lineId d h.line write with
  | none => s
  | some x =>
    let t := ((x.2.2.payLines d 1).noWait d.did f).modFold p (fun fo => { fo with batches := bs })
    (t.modDesc d.did (fun e => if write then e.issuedWrite f u h.line else e.bumpSent f u false 1)).issueTxn
      (.drover p d.did) u (s.hostReq d x.1 x.2.1 write h beat)

/-- Grant one line that fold `f` asks for: where the port takes it and the batch table has room it is issued, and waits where no
bytes are left. -/
def State.grantOne (s : State) (d : Desc) (f p u : Nat) (write : Bool) (h : HLine) (beat : BitVec 512 × BitVec 64 × Bool) : State :=
  let g := s.grants d
  match s.batchFor p d.did u (d.linePort h.line write) write with
  | none => s
  | some bs =>
    if !(s.portOpen d h.line write && s.firstAsking d f) then s
    else if g.1 + g.2 = 0 then s.waitFor d.did f
    else s.issueHost d f p u write h beat bs

/-- Grant the read of a line. -/
def State.grantRead (s : State) (d : Desc) (f p line : Nat) : State :=
  match s.nextRead d f with
  | some (u, h) =>
    if h.line = line && s.mayFetchAhead d f && s.mayRead d f p u h && decide (s.landingUsed p < 64) then
      s.grantOne d f p u false h (0, 0, false)
    else s
  | none => s

/-- Grant the write of a line. -/
def State.grantWrite (s : State) (d : Desc) (f p line : Nat) : State :=
  match s.nextWrite d f p with
  | some (u, h, beat) => if h.line = line && s.runsOn d f then s.grantOne d f p u true h beat else s
  | none => s

/-- The unit of fold `f` that asks for lines now: every unit before it has asked for all of its own and has its data (R240). -/
def State.cameTo (s : State) (d : Desc) (f p : Nat) : Nat :=
  let us := d.share f
  let asking := fun (u : Nat) => !(s.unsent d f us u false).isEmpty || !(s.unsent d f us u true).isEmpty
  if !s.works d f || !(d.stalledOn f).isEmpty || (d.checking && !s.checkRead d) then d.at_ f
  else match (rangeFrom (d.at_ f) (us.length - d.at_ f)).find? (fun u => asking u || !s.unitReady d f p u) with
    | some u => if asking u then u else d.at_ f
    | none => d.at_ f

/-- Fold `f` commits the units before the one that asks for lines now. DEDUCED (log 38): a fold that asks for a line has done with
the units before. -/
def State.comeOn (s : State) (did f : Nat) : State :=
  match s.desc? did, s.phys f with
  | some d, some p =>
    if d.active && decide (d.at_ f < s.cameTo d f p) then { s.advanceOne did f (s.cameTo d f p) with waiting := s.waiting } else s
  | _, _ => s

/-- CROOK_GRANT: the next host line request of a descriptor on a fold is granted and issued. Nothing else than the next line of
the order of R240 is issued, and none beyond the entitlement or the bucket. -/
def execCrookGrant (d : Nat) (fold : BitVec 6) (line : BitVec 42) (write : Bool) (s : State) :
    Host.Outcome State Fault Refusal :=
  let f := fold.toNat
  let s1 := if s.live && !s.pause.paused then (s.ensure d).comeOn d f else s
  .next (match s1.desc? d, s1.phys f with
    | some e, some p =>
      if s1.live && !s1.pause.paused && e.active then
        (if write then s1.grantWrite e f p line.toNat else s1.grantRead e f p line.toNat)
      else s1
    | _, _ => s1)

/-- RING_TRANSFER_START: transfer `index` of a running descriptor starts, or is asked for and waits (R250). -/
def execRingTransferStart (d : Nat) (index : Nat) (s : State) : Host.Outcome State Fault Refusal :=
  let s1 := if s.live then s.ensure d else s
  .next (match s1.desc? d with
    | none => s1
    | some e => if s1.live && e.active && e.begun then s1.startLeg e index false else s1)

/-! ### Responses (R258, R266 to R268) -/

/-- A line of a batch has been answered; a write batch retires with its last (R239). -/
def answerBatch (did unit path : Nat) (write : Bool) : List Batch → List Batch
  | [] => []
  | b :: r =>
    if b.did = did ∧ b.write = write ∧ b.unit = unit ∧ b.path = path ∧ 0 < b.open_ then
      if b.write && b.open_ = 1 then r else { b with open_ := b.open_ - 1 } :: r
    else b :: answerBatch did unit path write r

/-- A drover's transaction has been answered. -/
def State.answerDrover (s : State) (t : Txn) (p did : Nat) : State :=
  (s.dropTxn t).modFold p (fun fo => { fo with batches := answerBatch did t.unit t.port t.write fo.batches })

/-- A write response that arrives after its descriptor has ended moves T_DONE (R217, R256). -/
def State.lateDone (s : State) (did : Nat) : State :=
  s.modDesc did (fun d => if d.stage = .ended && d.admitted then { d with tDone := s.tick } else d)

/-- The bytes of a write transaction reach host memory. -/
def State.storeTxn (s : State) (t : Txn) : State := s.putAll (beatPieces t.line t.req.data t.req.strb t.req.poison)

/-- Event information of a line: VA and access kind (Table 13-9). -/
def vaInfo (line : Nat) (write : Bool) : Nat := 64 * line + place (b2n write) 48 1

/-- The logical fold behind a drover, for event records. -/
def State.foldOf (s : State) (p : Nat) : Option Nat := s.logical p

/-- A response that names no outstanding transaction or has the wrong kind: discarded, with an event; the response of a
quarantined ID frees the ID (R268). -/
def State.unexpected (s : State) (port id : Nat) : State :=
  if s.ports.quar.contains (port, id) then
    { s with ports := { s.ports with quar := s.ports.quar.filter (· ≠ (port, id)) } }
  else s.note 0x0208 (place port 0 3 + place id 4 10)

/-- A read line lands, raddled where the response is poisoned; a descriptor that has ended discards it. -/
def State.landLine (s : State) (t : Txn) (p did : Nat) (data : BitVec 512) (rad : Bool) : State :=
  let s1 := s.answerDrover t p did
  if (s.desc? did).any (fun d => d.active) then
    s1.modFold p (fun fo =>
      { fo with landing := landIn { did := did, unit := t.unit, line := t.line, data := data, rad := rad } fo.landing })
  else s1

/-- A read of Polter's own returns a line: host memory is as it says. -/
def State.ownRead (s : State) (t : Txn) (data : BitVec 512) : State :=
  (s.dropTxn t).putHost (64 * t.line) (leBytes data.toNat 64)

/-- SN_READ_RESPONSE: an OKAY response to a read. In reset it is only drained (R261). -/
def execSnReadResponse (port : BitVec 3) (id : BitVec 10) (data : BitVec 512) (poison : Bool) (s : State) :
    Host.Outcome State Fault Refusal :=
  let k := port.toNat
  let i := id.toNat
  .next (match s.txn? k i with
    | none => if s.up then s.unexpected k i else s
    | some t =>
      if !s.up then s.dropTxn t
      else if t.write then s.unexpected k i
      else
        match t.owner with
        | .drover p did => s.landLine t p did data poison
        | .own _ => s.ownRead t data)

/-- SN_WRITE_RESPONSE: an OKAY response to a write, whose bytes host memory then holds, in reset too (R261). -/
def execSnWriteResponse (port : BitVec 3) (id : BitVec 10) (s : State) : Host.Outcome State Fault Refusal :=
  let k := port.toNat
  let i := id.toNat
  .next (match s.txn? k i with
    | none => if s.up then s.unexpected k i else s
    | some t =>
      if !s.up then (if t.write then (s.dropTxn t).storeTxn t else s.dropTxn t)
      else if !t.write then s.unexpected k i
      else
        match t.owner with
        | .drover p did => ((s.answerDrover t p did).storeTxn t).lateDone did
        | .own key => (s.dropTxn t).ownLine key t.line)

/-- Put a transaction in the place of another. -/
def State.swapTxn (s : State) (t u : Txn) : State :=
  { s with ports := { s.ports with txns := s.ports.txns.map (fun x => if x = t then u else x) } }

/-- Whether the drover of a transaction has been reset: its physical fold backs no logical fold any more (R261). -/
def State.orphan (s : State) (o : Owner) : Bool :=
  match o with
  | .drover p _ => (s.logical p).isNone
  | .own _ => false

/-- SN_RETRY: the same request is to be reissued 16 FCLK cycles later; its ID and its limit stay (R266, R268). The request of a
master that has been reset is withdrawn (R261). -/
def execSnRetry (port : BitVec 3) (id : BitVec 10) (s : State) : Host.Outcome State Fault Refusal :=
  .next (match s.txn? port.toNat id.toNat with
    | none => if s.up then s.unexpected port.toNat id.toNat else s
    | some t => if !s.up || s.orphan t.owner then s.dropTxn t else s.swapTxn t { t with retryAt := some (s.tick + 1) })

/-- The transaction of a port and ID that waits to be sent again. -/
def State.waitingTxn (s : State) (port id : Nat) : Option Txn :=
  s.ports.txns.find? (fun t => decide (t.port = port ∧ t.id = id) && t.retryAt.isSome)

/-- Whether a waiting transaction goes first at its port (R247). -/
def State.winsPort (s : State) (t : Txn) : Bool :=
  s.ports.txns.all (fun u => u = t || decide (u.port ≠ t.port) || !s.goesFirst u (t.qos + t.aged) t.arrival (s.masterOf t.owner))

/-- A transaction goes out again, behind those already issued under its ID. -/
def State.reissue (s : State) (t : Txn) : State :=
  let s1 := s.emit { t.req with qos := t.qos + t.aged }
  { s1 with ports := { s1.ports with txns := s1.ports.txns.erase t ++ [{ t with retryAt := none }] } }

/-- RETRY_REISSUE: the request goes out again where it is the first at its port by QoS, arrival and master (R247, R266). -/
def execRetryReissue (port : BitVec 3) (id : BitVec 10) (s : State) : Host.Outcome State Fault Refusal :=
  .next (match s.waitingTxn port.toNat id.toNat with
    | none => s
    | some t =>
      if !s.up then s
      else if s.orphan t.owner then s.dropTxn t
      else if t.retryAt.any (fun r => decide (r ≤ s.tick)) && s.winsPort t then s.reissue t
      else s)

/-- SN_UNEXPECTED: a response with no transaction, the wrong kind or an unassigned code arrives (R268, Table 10-4). -/
def execSnUnexpected (port : BitVec 3) (id : BitVec 10) (_write : Bool) (s : State) : Host.Outcome State Fault Refusal :=
  .next (if s.up then s.unexpected port.toNat id.toNat else s)

/-- QOS_AGING: a transaction that has waited 1,024 FCLK cycles more at its port rises by one, up to 14 (R247). -/
def execQosAging (port : BitVec 3) (id : BitVec 10) (s : State) : Host.Outcome State Fault Refusal :=
  .next (match s.waitingTxn port.toNat id.toNat with
    | none => s
    | some t =>
      if s.up && decide (t.qos + t.aged < 14 ∧ t.arrival + 64 * (t.aged + 1) ≤ s.tick) then s.swapTxn t { t with aged := t.aged + 1 }
      else s)

/-! ### DERR (R267) -/

/-- Host lines of the destination element of a covered element. -/
def State.covLines (s : State) (d : Desc) (c : Cov) : List Nat :=
  match d.p.dst with
  | none => []
  | some g => if g.space then [] else linesOf (g.spanOf (if d.isOpc .scatter then (s.hit d.p c.fold d.did c.key).at_ else c.key))

/-- A write line of fold `f` counts as unwritten: every element that it would have held is raddled, those of committed units
too, and a descriptor that has finished ends RADDLED. -/
def State.loseLine (s : State) (d : Desc) (f line : Nat) : State :=
  let cov := d.cov.map (fun c => { c with rad := c.rad || (decide (c.fold = f) && (s.covLines d c).contains line) })
  s.modDesc d.did (fun e => { e with
    derr := insertN line (e.derr.filter (fun l => decide (l ≠ line))), cov := cov
    status := if e.stage = .ended && e.status.hasDigest then .raddled else e.status })

/-- DERR on an access of a drover: a read line lands raddled with the data of the response; a write line counts as unwritten. -/
def State.derrDrover (s : State) (t : Txn) (p did : Nat) (data : BitVec 512) : State :=
  match s.desc? did with
  | none => s.answerDrover t p did
  | some d =>
    if t.write then
      (((s.answerDrover t p did).loseLine d ((s.logical p).getD 64) t.line).lateDone did).noteD 0x0207 (s.foldOf p) d (64 * t.line)
    else (s.landLine t p did data true).noteD 0x0206 (s.foldOf p) d (64 * t.line)

/-- DERR on an access of Polter's own: the line's bytes count as unwritten, or nothing is read. -/
def State.derrOwn (s : State) (t : Txn) (key : Nat) : State :=
  let s1 := (s.dropTxn t).note (if t.write then 0x0207 else 0x0206) (64 * t.line)
  if t.write then
    let s2 : State := { s1 with own := s1.own.map (fun o =>
      if o.key = key then { o with writes := o.writes.filter (fun x => x.1 / 64 ≠ t.line) } else o) }
    s2.ownLine key t.line
  else s1

/-- DERR: a target or data error answers a transaction; the response of a read carries data. -/
def execDerr (port : BitVec 3) (rs : DataResponse) (s : State) : Host.Outcome State Fault Refusal :=
  .next (match s.txn? port.toNat rs.id.toNat with
    | none => if s.up then s.unexpected port.toNat rs.id.toNat else s
    | some t =>
      if !s.up then s.dropTxn t
      else
        match t.owner with
        | .drover p did => s.derrDrover t p did rs.data
        | .own key => s.derrOwn t key)

/-! ### Faults on Polter's own accesses (Table 10-9) -/

/-- One OWN_FAULT record, at the start of an episode; it names the pen of a doorbell word or burst (R344). -/
def State.noteOwn (s : State) (first : Bool) (pen : Option Nat) (row line : Nat) : State :=
  let info := place row 0 3 + place (64 * line / 256) 8 40
  if !first then s
  else match pen with
    | some p => s.noteP 0x0205 p info
    | none => s.note 0x0205 info

/-- An access waits for its retry; its other transactions are withdrawn. -/
def State.waitOwn (s : State) (key : Nat) : State :=
  { s with own := s.own.map (fun o => if o.key = key then { o with waiting := true } else o),
           ports := { s.ports with txns := s.ports.txns.filter (fun t => t.owner ≠ .own key) } }

/-- A translation fault, or the lack of any response, on an access of Polter's own. -/
def State.ownFault (s : State) (key line : Nat) : State :=
  match s.own.find? (fun o => decide (o.key = key)) with
  | none => s
  | some o =>
    match o.kind with
    | .doorbell p =>
      let s1 := s.dropOwn key
      ({ s1 with stile := { s1.stile with dbFault := insertN p (s1.stile.dbFault.filter (· ≠ p)) } } : State).noteOwn
        (!(s.stile.dbFault.contains p)) (some p) 1 line
    | .burst p =>
      let gone := s.own.filter (fun x => x.kind = .burst p)
      let s1 := gone.foldl (fun t x => t.dropOwn x.key) s
      let s2 : State := { s1 with stile := { s1.stile with bursts := s1.stile.bursts.filter (fun b => b.pen ≠ p),
                                                           queue := s1.stile.queue.filter (fun q => q.1 ≠ p) } }
      (s2.modPen p (fun pn => { pn with passed := true })).noteOwn (!(s.pen p).passed) (some p) 2 line
    | .completion r _ =>
      ((s.waitOwn key).modRing r (fun c => { c with faulted := true })).noteOwn (!(s.ring r).faulted) none 3 line
    | .map r _ _ =>
      ((s.waitOwn key).modRing r (fun c => { c with faulted := true })).noteOwn (!(s.ring r).faulted) none 3 line
    | .runLog _ _ =>
      let s1 := s.waitOwn key
      ({ s1 with logs := { s1.logs with runFault := true } } : State).noteOwn (!s.logs.runFault) none 3 line
    | .event =>
      let s1 := s.waitOwn key
      { s1 with evt := { s1.evt with faulted := true } }
    | .message _ _ => s.waitOwn key

/-! ### Translation faults of descriptors (R274 to R276) -/

/-- What a fault does to bounds (R226, R276): the descriptor's own, and those queued behind it. -/
def State.faultVoids (s : State) (d : Desc) (f line : Nat) : State :=
  if d.p.pinned then
    ((s.voidBound d.did).voidBehind d.step [f] true).noteD 0x0204 (some f) d (64 * line)
  else
    ((s.voidBound d.did).modDesc d.did (fun e => { e with backgr := true })).voidBehind d.step d.folds false

/-- What fold `f` has asked for of a descriptor is given up and asked for anew. -/
def State.restartOn (s : State) (did f : Nat) : State :=
  (s.modDesc did (fun d => d.restart f s.tick)).modPair f (fun fo =>
    { fo with landing := fo.landing.filter (fun l => decide (l.did ≠ did)) })

/-- A suspension at a translation fault. -/
def Susp.atFault (u : Susp) : Bool :=
  match u.why with
  | .fault _ _ => true
  | _ => false

/-- Whether fold `f` waits at a fault of the descriptor already. -/
def State.faultedOn (s : State) (f did : Nat) : Bool :=
  let fo := s.lfold f
  fo.susp.any (fun u => decide (u.did = did) && u.atFault) || fo.inPlace.any (fun u => decide (u.did = did))

/-- Fold `f` meets a recoverable fault in a descriptor: it suspends it, or waits in place where it holds another suspended one
already (R163). One suspended for preemption or for a pause waits for the service of its fault from now on. DESIGN CHOICE
(log 75): a line of a descriptor that the fold has already ended on makes it suspended there beside what the fold runs. -/
def State.stallOn (s : State) (did f : Nat) : State :=
  let why := SuspWhy.fault s.tick s.cfg.xlatWait.toNat
  match (s.lfold f).susp with
  | none => s.suspendOn f did why
  | some u =>
    if u.did = did then s.modPair f (fun fo => { fo with susp := some { u with why := why, ready := false } })
    else if (s.lfold f).running = some did then
      s.modPair f (fun fo => { fo with inPlace := some { did := did, why := why, ready := false } })
    else s

/-- A descriptor that has finished, but for responses, has a line to write again: it is admitted and not ended (R182, R274). -/
def State.reopen (s : State) (did : Nat) : State :=
  s.modDesc did (fun d => if d.stage = .ended && d.admitted && d.status.hasDigest then
    { d with stage := .admitted, status := .done, digest := 0 } else d)

/-- A stalled write of a unit that has committed is to be made again. -/
def State.keepStalled (s : State) (t : Txn) (f did : Nat) : State :=
  if t.write && (s.desc? did).any (fun d => d.begun && decide (t.unit < d.at_ f)) then
    (s.reopen did).modDesc did (fun d => if d.active then
      { d with stalled := d.stalled ++ [{ fold := f, unit := t.unit, line := t.line, data := t.req.data, strb := t.req.strb,
                                          poison := t.req.poison }] } else d)
  else s

/-- XSTALL on a drover's access: an event for the first of a unit, the bounds voided, the fold suspended at the units that
have committed. A stalled write of a committed unit is kept, to be made again after the service. A fault on a prologue read,
whose descriptor has not started, suspends nothing. -/
def State.stallDrover (s : State) (t : Txn) (p did units row : Nat) : State :=
  let s0 := s.answerDrover t p did
  match s0.logical p with
  | none => s0
  | some f =>
    let keep := fun (u : State) => u.keepStalled t f did
    let s1 := if t.write && (s0.desc? did).any (fun d => d.begun && decide (t.unit < d.at_ f)) then s0.reopen did else s0
    match s1.desc? did with
    | none => s1
    | some d =>
      if !d.active || s1.faultedOn f did then keep s1
      else
        let s2 := (s1.noteD 0x0201 (some f) d (vaInfo t.line t.write)).faultVoids d f t.line
        if !d.begun then s2.restartOn did f
        else if s2.works d f then
          let u := if d.byRows then row else units
          (keep (s2.advanceOne did f (Nat.min u (d.unitsOn f - 1)))).stallOn did f
        else
          let s3 := keep s2
          if (s3.lfold f).susp.any (fun u => decide (u.did = did)) || (s3.desc? did).any (fun x => !(x.stalledOn f).isEmpty) then
            s3.stallOn did f
          else s3

/-- XSTALL: a recoverable translation fault; `units` units, or `row` rows of a VLOAD, have committed on the fold. -/
def execXstall (port : BitVec 3) (id : BitVec 10) (units row : Nat) (s : State) : Host.Outcome State Fault Refusal :=
  .next (match s.txn? port.toNat id.toNat with
    | none => if s.up then s.unexpected port.toNat id.toNat else s
    | some t =>
      if !s.up then s.dropTxn t
      else
        match t.owner with
        | .drover p did => s.stallDrover t p did units row
        | .own key => (s.dropTxn t).ownFault key t.line)

/-- An ending event reaches a descriptor that has finished, but for responses (R256, R338). -/
def State.lateEnd (s : State) (did : Nat) (st : Status) : State :=
  s.modDesc did (fun d => if d.stage = .ended && d.admitted && d.status.hasDigest then { d with status := st, digest := 0 } else d)

/-- XDENY on a drover's access: the descriptor ends XLAT_FAULT (R275). -/
def State.denyDrover (s : State) (t : Txn) (p did : Nat) (pts : Progress) : State :=
  let s1 := s.answerDrover t p did
  match s1.desc? did, s1.logical p with
  | some d, some f =>
    if d.active || (d.stage = .ended && d.admitted) then
      (((s1.noteD 0x0202 (some f) d (vaInfo t.line t.write)).faultVoids d f t.line).endFault did pts).lateEnd did .xlatFault
    else s1
  | _, _ => s1

/-- XDENY: a translation or permission fault that cannot be serviced. -/
def execXdeny (port : BitVec 3) (id : BitVec 10) (pts : Progress) (s : State) : Host.Outcome State Fault Refusal :=
  .next (match s.txn? port.toNat id.toNat with
    | none => if s.up then s.unexpected port.toNat id.toNat else s
    | some t =>
      if !s.up then s.dropTxn t
      else
        match t.owner with
        | .drover p did => s.denyDrover t p did pts
        | .own key => (s.dropTxn t).ownFault key t.line)

/-- A transaction times out (R268): its ID is quarantined and its descriptor ends PORT_TIMEOUT. -/
def State.timeOut (s : State) (t : Txn) (pts : Progress) : State :=
  let s1 : State := { s with ports := { s.ports with quar := s.ports.quar ++ [(t.port, t.id)] } }
  let info := place t.port 0 3 + place t.id 4 10
  match t.owner with
  | .drover p did =>
    let s2 := s1.answerDrover t p did
    (match s2.desc? did with
     | none => s2.note 0x0209 info
     | some d => ((s2.noteD 0x0209 (s.foldOf p) d info).stopAt did pts .portTimeout).lateEnd did .portTimeout)
  | .own key => ((s1.dropTxn t).note 0x0209 info).ownFault key t.line

/-- SN_TIMEOUT: no response within SN_TMO ticks. -/
def execSnTimeout (port : BitVec 3) (id : BitVec 10) (pts : Progress) (s : State) : Host.Outcome State Fault Refusal :=
  .next (match s.ports.txns.find? (fun t => decide (t.port = port.toNat ∧ t.id = id.toNat ∧ t.limit ≤ s.tick)) with
    | none => s
    | some t => if s.up then s.timeOut t pts else s)

/-! ### PLT_XRESUME (R274, R355) -/

/-- A fault not yet serviced. -/
def Susp.open_ (u : Susp) : Bool :=
  match u.why with
  | .fault _ _ => !u.ready
  | _ => false

/-- The fault of a fold that PLT_XRESUME answers: the one that waits in place, else the suspended one. -/
def Fold.fault (fo : Fold) : Option Susp := (fo.inPlace.filter Susp.open_).or (fo.susp.filter Susp.open_)

/-- RETRY on fold `f`: what waits in place goes on with its unit anew; a suspended descriptor may resume. -/
def State.retryOn (s : State) (f : Nat) : State :=
  match (s.lfold f).inPlace.filter Susp.open_ with
  | some u => (s.restartOn u.did f).modPair f (fun fo => { fo with inPlace := none })
  | none => s.modPair f (fun fo =>
      { fo with susp := fo.susp.map (fun u => if u.open_ then { u with ready := true } else u) })

/-- A write of PLT_XRESUME. One that comes during a pause takes effect at the resume (R289); a fold that waits in
place takes it at once, since the pause waits for it. -/
def State.xresume (s : State) (f : Nat) (abort : Bool) (pts : Progress) : State :=
  match (s.lfold f).fault with
  | none => s.noteF 0x0203 f 0
  | some u =>
    if !bit s.ready.fold.toNat f then s.noteF 0x0203 f 0
    else if (s.pause.req || s.pause.paused) && (s.lfold f).inPlace.isNone then
      { s with pause := { s.pause with retry := s.pause.retry ++ [(f, abort)] } }
    else if abort then s.endFault u.did pts
    else s.retryOn f

/-- XRESUME_RETRY: a write of PLT_XRESUME with ABORT = 0. -/
def execXresumeRetry (fold : BitVec 6) (s : State) : Host.Outcome State Fault Refusal :=
  .next (if s.live then s.xresume fold.toNat false [] else s)

/-- XRESUME_ABORT: a write of PLT_XRESUME with ABORT = 1; the descriptor ends XLAT_FAULT. -/
def execXresumeAbort (fold : BitVec 6) (pts : Progress) (s : State) : Host.Outcome State Fault Refusal :=
  .next (if s.live then s.xresume fold.toNat true pts else s)

/-- Whether the wait for the service of a fault is over. -/
def Susp.expired (u : Susp) (tick : Nat) : Bool :=
  match u.why with
  | .fault t l => !u.ready && decide (l ≠ 0 ∧ t + l ≤ tick)
  | _ => false

/-- The fault of a fold that has waited too long: one that waits in place, else the suspended one. -/
def Fold.late (fo : Fold) (tick : Nat) : Option Susp :=
  (fo.inPlace.filter (fun u => u.expired tick)).or (fo.susp.filter (fun u => u.expired tick))

/-- XLAT_WAIT_EXPIRY: no PLT_XRESUME within XLAT_WAIT ticks; 0 means no limit (R274). -/
def execXlatWaitExpiry (fold : BitVec 6) (pts : Progress) (s : State) : Host.Outcome State Fault Refusal :=
  let f := fold.toNat
  .next (match (s.lfold f).late s.tick with
    | none => s
    | some u => if s.live && !(s.pause.retry.any (fun x => decide (x.1 = f))) then s.endFault u.did pts else s)

end Sys2Proof.Machine
end

