-- ==== Sys2Proof/Machine/Complete.lean ====
section
/-!
DEFINITION. Completion records, consumer words, interrupt messages, event records and the retries of Polter's own writes
(08_pens_and_admission.md R213 to R218, 10_boundary.md R277, 13_faults_and_records.md R339 and R343, 14_registers.md R365
and R366).
-/
namespace Sys2Proof.Machine

/-! ### Completion records -/

/-- Whether a write of the descriptor awaits its response. -/
def State.writing (s : State) (did : Nat) : Bool :=
  s.ports.txns.any (fun t => t.write && (match t.owner with
    | .drover _ e => decide (e = did)
    | .own _ => false))

/-- The first handling of a record: the raddle map entries are issued (R339) and a late descriptor is logged (R229). -/
def State.prepareRecord (s : State) (d : Desc) : State :=
  match s.putMap d with
  | none => s
  | some t =>
    let t1 := match d.bound with
      | some b => if d.late then t.noteD 0x010C none d (Nat.min 0xFFFFFF (d.tDone - b)) else t
      | none => t
    t1.modDesc d.did (fun e => { e with tried := true })

/-- Whether the raddle map of a descriptor is being written. -/
def State.mapOut (s : State) (did : Nat) : Bool :=
  s.own.any (fun o => match o.kind with
    | .map _ e _ => decide (e = did)
    | _ => false)

/-- Send the record of a descriptor whose writes and map entries have all been answered (R21, R339). -/
def State.tryRecord (s : State) (d : Desc) : State :=
  let t := if d.tried then s else s.prepareRecord d
  match t.desc? d.did with
  | some e => if e.tried && !t.mapOut d.did then t.sendRecord e else t
  | none => t

/-- COMPLETION_RECORD: every response of an ended descriptor is in; its raddle map is written, then its record is issued or
held. -/
def execCompletionRecord (d : Nat) (s : State) : Host.Outcome State Fault Refusal :=
  .next (match s.desc? d with
    | none => s
    | some e =>
      if s.live && e.stage = .ended && !s.writing d then
        s.tryRecord e
      else s)

/-- A ring's consumer word is read (R217), or its read meets a fault (Table 10-9). -/
def State.rereadCons (s : State) (r : Nat) (cons : BitVec 32) (fault : Bool) : State :=
  let addr := s.cfg.doorbell.toNat + 32768 + 8 * r
  if fault then
    ((s.readWord addr).modRing r (fun c => { c with consFault := true })).noteOwn (!(s.ring r).consFault) none 1 (addr / 64)
  else
    (((s.readWord addr).putHost addr (leBytes cons.toNat 4)).modRing r (fun c => { c with cons := cons, consFault := false })).flushRing r

/-- CONSUMER_REREAD: the consumer word of a completion ring is read again. -/
def execConsumerReread (ring : BitVec 8) (cons : BitVec 32) (fault : Bool) (s : State) : Host.Outcome State Fault Refusal :=
  .next (if s.live && s.cfg.enable && (s.ring ring.toNat).loaded then s.rereadCons ring.toNat cons fault else s)

/-! ### Interrupt messages -/

/-- The oldest message that is due: withheld where its vector is masked, else issued. The message that answers a cleared
mask leaves PEND as it is until its write is answered. -/
def State.sendMessage (s : State) : State :=
  match s.msgs with
  | [] => s
  | (v, pend) :: r =>
    if bit s.cfg.intMask.toNat v then
      { s with msgs := r, intPend := if pend then s.intPend else s.intPend ||| BitVec.ofNat 4 (2 ^ v) }
    else (({ s with msgs := r } : State).issueMessage v pend).getD s

/-- INTERRUPT_MESSAGE: the oldest due message is sent, unless its vector is masked (R218, R365, R366). -/
def execInterruptMessage (s : State) : Host.Outcome State Fault Refusal := .next (if s.up then s.sendMessage else s)

/-- Whether the one message that a cleared mask brings about is already on its way. -/
def State.pendDue (s : State) (v : Nat) : Bool :=
  s.msgs.contains (v, true) || s.own.any (fun o => o.kind = .message v true)

/-- A write of PLT_INT_MASK (R366). -/
def State.setMask (s : State) (m : BitVec 4) : State :=
  let cleared := (List.range 4).filter (fun v => bit s.cfg.intMask.toNat v && !bit m.toNat v && bit s.intPend.toNat v && !s.pendDue v)
  { s with cfg := { s.cfg with intMask := m }, msgs := s.msgs ++ cleared.map (fun v => (v, true)) }

/-- INT_MASK_WRITE: a write of PLT_INT_MASK. -/
def execIntMaskWrite (mask : BitVec 32) (s : State) : Host.Outcome State Fault Refusal :=
  .next (if s.up then s.setMask (mask.setWidth 4) else s)

/-! ### Event records -/

/-- EVENT_RECORD: the oldest queued event record is issued where the ring has room and none is in flight (R343). -/
def execEventRecord (s : State) : Host.Outcome State Fault Refusal :=
  .next (if s.up && s.cfg.enable && s.evtRoom && !(s.own.any (fun o => o.kind = .event)) then s.issueEvent else s)

/-! ### Retries (Table 10-9) -/

/-- Whether an access is the one that a retry names. -/
def ownNamed (w : OwnRef) (k : OwnKind) : Bool :=
  match w, k with
  | .completion r, .completion q _ => decide (r.toNat = q)
  | .completion r, .map q _ _ => decide (r.toNat = q)
  | .event, .event => true
  | .message, .message _ _ => true
  | .runLog, .runLog _ _ => true
  | _, _ => false

/-- A waiting write goes out again, line by line. -/
def State.retryOwn (s : State) (o : Own) : State :=
  let msg := match o.kind with
    | .message _ _ => true
    | _ => false
  let t : State := { s with own := s.own.map (fun x => if x.key = o.key then { x with waiting := false } else x) }
  let lines := linesOfBytes o.writes
  if lines.isEmpty then t.finishOwn o else (t.issueLines o.key true msg o.writes lines).getD s

/-- OWN_ACCESS_RETRY: a write of Polter's own that met a fault is tried again; `fault` says that it met one again. -/
def execOwnAccessRetry (which : OwnRef) (fault : Bool) (s : State) : Host.Outcome State Fault Refusal :=
  .next (match s.own.find? (fun o => o.waiting && ownNamed which o.kind) with
    | none => s
    | some o => if s.up && !fault then s.retryOwn o else s)

end Sys2Proof.Machine
end

