-- ==== Sys2Proof/Machine/Faults.lean ====
section
/-!
DEFINITION. Faults (13_faults_and_records.md R327 to R341): scrubbing, patrols, datapath faults, the divergence of a twin
pair (11_determinism.md R298, R299), retirement and substitution of folds, and the fatal stop.
-/
namespace Sys2Proof.Machine

/-! ### Scrubbing (R329 to R331) -/

/-- 8-byte words of a slice. -/
def sliceWords : Nat := 131072

/-- A backing fold that has been retired and whose substitution runs (R340). -/
def State.replaced (s : State) (p : Nat) : Bool := (s.logical p).any (fun f => s.fmap.subst.any (fun x => decide (x.1 = f)))

/-- A physical fold that is neither retired nor fused off. -/
def State.usable (s : State) (p : Nat) : Bool := s.pstate p = .spare || (s.pstate p = .backs && !s.replaced p)

/-- Turn over bits of the eight bytes of a pasture word. -/
def State.flipWord (s : State) (w : Nat) (flips : BitVec 64) : State :=
  { s with past := ssetAll 0 s.past ((List.range 8).map (fun i =>
      (8 * w + i, sget 0 s.past (8 * w + i) ^^^ flips.extractLsb' (8 * i) 8))) }

/-- An upset strikes a fold. A second one in a word that holds an error already makes it uncorrectable. -/
def State.strike (s : State) (p : Nat) : Upset → State
  | .pasture word hard flips =>
    let w := sliceWords * p + word.toNat
    if hard || sget .none s.ecc w ≠ .none then
      let t := s.flipWord w flips
      { t with ecc := sset .none t.ecc w .hard }
    else { s with ecc := sset .none s.ecc w .single }
  | .vfile word hard flips =>
    let k := word.toNat % 8
    if hard then
      s.modFold p (fun fo =>
        let v := sget VReg.blank fo.vregs (word.toNat / 8)
        let u := { v with data := v.data ^^^ BitVec.ofNat 512 (flips.toNat <<< (64 * k)), err := v.err ||| BitVec.ofNat 8 (2 ^ k) }
        { fo with vregs := sset VReg.blank fo.vregs (word.toNat / 8) u })
    else s

/-- The scrubber reads one word: a single-bit error is corrected and written back, an uncorrectable word handed on. -/
def State.scrubWord (s : State) (w : Nat) : State :=
  match sget .none s.ecc w with
  | .none => s
  | .single => ({ s with ecc := sset .none s.ecc w .none } : State).corrected
  | .hard => s.hand w

/-- SCRUB_SLOT: the fold's scrubber reads the beat of its next slot. -/
def execScrubSlot (phys : BitVec 7) (upsets : List Upset) (s : State) : Host.Outcome State Fault Refusal :=
  let p := phys.toNat
  if 68 ≤ p then .fault .noSuchPart
  else
    let k := (s.fold p).scrub
    .next (if s.live && s.boot.pastureDone && s.usable p && decide (1024 * (k + 1) ≤ s.tick) then
      let s1 := upsets.foldl (fun t u => t.strike p u) s
      let first := sliceWords * p + 8 * (k % 16384)
      ((rangeFrom first 8).foldl State.scrubWord s1).modFold p (fun fo => { fo with scrub := fo.scrub + 1 })
    else s)

/-- INFO of PASTURE_UE: the logical address of a word. A spare's word has none, so the value is free. -/
def State.wordAddr (s : State) (w : Nat) : Nat × State :=
  match s.logical (w / sliceWords) with
  | some f => (slice * f + 8 * (w % sliceWords), s)
  | none => s.choose (2 ^ 26)

/-- The re-read of a handed word `w`. -/
def State.reread (s : State) (w : Nat) : State :=
  let s1 : State := { s with handed := s.handed.filter (fun h => h.1 ≠ w) }
  let s2 : State := if sget .none s1.ecc w = .hard then
      { s1 with ecc := sset .none s1.ecc w .none, raddle := ssetAll false s1.raddle ((List.range 8).map (fun i => (8 * w + i, true))) }
    else s1
  let a := s2.wordAddr w
  ((a.2.event 0x0302 (a.2.logical (w / sliceWords)) nullTag 0 0 a.1).bumpFault 5 1).count 14 1

/-- SCRUB_REREAD: 1,024 FCLK cycles after the read that handed it, word `word` of the slice is read again (R330). -/
def execScrubReread (phys : BitVec 7) (word : Nat) (s : State) : Host.Outcome State Fault Refusal :=
  let p := phys.toNat
  if 68 ≤ p then .fault .noSuchPart
  else
    let w := sliceWords * p + word
    .next (if s.live && decide (word < sliceWords) && s.usable p && s.handed.any (fun h => decide (h.1 = w ∧ h.2 + 64 ≤ s.tick)) then
      s.reread w
    else s)

/-- 32-byte words of an MRAM array (R300). -/
def mramWords (perm : Bool) : Nat := if perm then 65536 else 2097152

/-- An MRAM word is found uncorrectable. -/
def Mram.spoil (m : Mram) (perm : Bool) (w : Nat) : Mram :=
  if perm then { m with badSeals := insertN w (m.badSeals.filter (· ≠ w)) }
  else { m with badRing := insertN w (m.badRing.filter (· ≠ w)) }

/-- MRAM_SCRUB: the Shepherd reads one word of an array (R331, Table 13-1). -/
def execMramScrub (sealArray : Bool) (word : Nat) (corrected bad : Bool) (s : State) : Host.Outcome State Fault Refusal :=
  .next (if s.live && s.ready.shepherd && decide (word < mramWords sealArray) then
    if bad || s.mram.bad sealArray (32 * word) 32 then
      ({ s with mram := s.mram.spoil sealArray word } : State).note 0x030C (b2n sealArray + place word 5 21)
    else if corrected then s.bumpFault 7 1
    else s
  else s)

/-! ### Patrols (R332) -/

/-- PATROL_SLICE: the Shepherd runs a fold's next slice. A failed one retires the fold, whose descriptors end at the units that
`failed` gives. None runs while the block is paused (R290). -/
def execPatrolSlice (phys : BitVec 7) (slice : BitVec 4) (failed : Option (List (Nat × Progress))) (s : State) :
    Host.Outcome State Fault Refusal :=
  let p := phys.toNat
  if 68 ≤ p then .fault .noSuchPart
  else
    .next (if s.live && s.ready.shepherd && !s.pause.paused && s.usable p && s.patrolled p && decide ((s.fold p).patrol = slice.toNat) then
      let s1 := if s.pstate p = .backs then s.modFold p (fun fo => { fo with logicOn := true, lastTick := s.tick }) else s
      match failed with
      | none => s1.modFold p (fun fo => { fo with patrol := (slice.toNat + 1) % 16 })
      | some pts =>
        (s1.event 0x0305 (if s.pstate p = .backs then s.logical p else none) nullTag 0 0 (place p 0 7 + place slice.toNat 8 4)).retire
          p pts
    else s)

/-! ### Twin divergence (R299) -/

/-- Whether a divergence of the descriptor has been seen. -/
def State.diverged (s : State) (did : Nat) : Bool :=
  s.twins.any (fun t => t.active && (s.lfold t.pri.toNat).strikes.any (fun x => decide (x.1 = did)))

/-- A divergence of pair `k` in unit `units` of the primary's share. -/
def State.diverge (s : State) (k : Nat) (t : Twin) (d : Desc) (units : Nat) (pts : Progress) : State :=
  let f := t.pri.toNat
  let s1 := (s.noteD 0x030A (some f) d k).voidBound d.did
  if s.diverged d.did then
    let stop := setProg pts f units
    (s1.advance d.did (progAt stop)).mismatch k d.did f t.shd.toNat
  else
    (s1.advanceOne d.did f units).modPair f (fun fo => { fo with strikes := fo.strikes ++ [(d.did, units)] })

/-- Whether a fold runs unit `units` of the descriptor, or has it before it. -/
def State.strikes (s : State) (d : Desc) (f units : Nat) : Bool :=
  s.live && !s.pause.paused && d.active && d.begun && s.works d f && decide (d.cameTo f ≤ units) &&
    decide (units < (if d.work.any (fun x => decide (x.1 = f)) then d.unitsOn f else d.most))

/-- The fold whose share a fold works on: its own, or, for VMOVE's DFOLD, the source fold's. -/
def Desc.shareFold (d : Desc) (f : Nat) : Nat :=
  if d.work.any (fun x => decide (x.1 = f)) then f else (d.work.head?.map Prod.fst).getD f

/-- TWIN_DIVERGE: the comparator of an active pair finds a difference. -/
def execTwinDiverge (k : BitVec 3) (d : Nat) (units : Nat) (pts : Progress) (s : State) : Host.Outcome State Fault Refusal :=
  .next (match s.twins[k.toNat]?, s.desc? d with
    | some t, some e => if t.active && s.strikes e t.pri.toNat units then s.diverge k.toNat t e units pts else s
    | _, _ => s)

/-! ### Datapath faults (R328, R333) -/

/-- The active pair that a fold belongs to. -/
def State.pairWith (s : State) (f : Nat) : Option (Nat × Twin) :=
  ((List.range 8).zip s.twins).find? (fun x => x.2.active && (decide (x.2.pri.toNat = f) || decide (x.2.shd.toNat = f)))

/-- A detected fault strikes unit `units` of a fold outside any active pair: the unit is run again, or, at the second
strike, the fold is retired. -/
def State.rerun (s : State) (d : Desc) (f units : Nat) (pts : Progress) : State :=
  let s1 := (s.voidBound d.did).advanceOne d.did (d.shareFold f) units
  if (s.lfold f).strikes.any (fun x => decide (x.1 = d.did)) then
    match s1.phys f with
    | some p => s1.retire p [(d.did, pts.filter (fun x => x.1 ≠ f))]
    | none => s1
  else s1.modL f (fun fo => { fo with strikes := fo.strikes ++ [(d.did, units)], latches := Latches.clear })

/-- The checksum of a beat over pieces of `w` bits: their sum and the sum of their squares, modulo 2^16 (R328). -/
def beatSums (w : Nat) (beat : BitVec 512) : Nat × Nat :=
  let l := (List.range (512 / w)).map (fun i => fld beat.toNat (w * i) w)
  (sumN l % 65536, sumN (l.map (fun x => x * x)) % 65536)

/-- Whether the checkers of the beat permuter find a fault between its input and its output: those of a network over the 64 bytes,
that of the nibble stage over the 128 nibbles (R328). -/
def permuterFault (nibble : Bool) (inp out : BitVec 512) : Bool :=
  let w := if nibble then 4 else 8
  beatSums w inp != beatSums w out

/-- DATAPATH_CHECK: a checker of rows 5 to 11 of Table 13-1 finds a fault. Row 5 compares the checksums of a beat as it enters and
as it leaves a stage of the permuter. -/
def execDatapathCheck (d : Nat) (fold : BitVec 6) (found : CheckFault) (units : Nat) (pts : Progress) (s : State) :
    Host.Outcome State Fault Refusal :=
  let f := fold.toNat
  .next (match s.desc? d with
    | none => s
    | some e =>
      let pair := s.pairWith f
      let g := (pair.map (fun x => x.2.pri.toNat)).getD f
      let part := found.part.toNat
      if decide (5 ≤ part ∧ part ≤ 11) && (part ≠ 5 || permuterFault found.nibble found.inp found.out) && s.strikes e g units then
        let s1 := s.noteD 0x0301 (some f) e (place part 0 4 + place units 16 32)
        match pair with
        | some x => s1.diverge x.1 x.2 e units pts
        | none => s1.rerun e f units pts
      else s)

/-! ### Retirement and substitution (R340, R341) -/

/-- FOLD_RETIRE: a fault in a fold's duplicated control, or one that the patrol after TWIN_MISMATCH finds, retires it. -/
def execFoldRetire (phys : BitVec 7) (pts : List (Nat × Progress)) (s : State) : Host.Outcome State Fault Refusal :=
  if 68 ≤ phys.toNat then .fault .noSuchPart
  else .next (if s.live && s.ready.shepherd && !s.pause.paused then s.retire phys.toNat pts else s)

/-- SPARE_IN: a substitution ends; `lost` says that the retired fold's slice could not be read. -/
def execSpareIn (logical : BitVec 6) (lost : Bool) (s : State) : Host.Outcome State Fault Refusal :=
  .next (if s.live && s.ready.shepherd && !s.pause.paused then s.spareIn logical.toNat lost else s)

/-! ### The fatal stop (R335, R352) -/

/-- A descriptor stops at its cancel points and never completes. -/
def State.halt (s : State) (pts : List (Nat × Progress)) (did : Nat) : State :=
  let s1 := s.advance did (progAt (((pts.find? (fun x => decide (x.1 = did))).map Prod.snd).getD []))
  match s1.desc? did with
  | none => s1
  | some d =>
    let s2 := (((s1.flushHeld d).dropLoads d).dropRoutes d).leaveAll did
    { s2 with xfers := s2.xfers.filter (fun x => x.did ≠ did || x.until_.isSome) }

/-- The block stops for cause `cause`. Events wait to be written only where the SN path is sound. -/
def State.fatalStop (s : State) (cause phys : Nat) (pts : List (Nat × Progress)) (mramSound snSound : Bool) : State :=
  let s1 : State := { s with pins := { s.pins with fatalN := false },
                             fatalReg := { cause := BitVec.ofNat 8 cause, phys := BitVec.ofNat 7 (if cause = 6 then phys else 0), valid := true } }
  let s2 := ((s1.descs.filter (fun d => d.active)).map (fun d => d.did)).foldl (fun t did => t.halt pts did) s1
  let s3 : State := if mramSound then s2.cutNow .fatal else { s2 with tally := { s2.tally with stop := .fatal } }
  if snSound then s3.note 0x030E cause else { s3 with evt := { s3.evt with queue := [] }, msgs := [] }

/-- FATAL: a fault in the block-level control, of a cause of Table 14-7. -/
def execFatal (cause : BitVec 8) (phys : BitVec 7) (pts : List (Nat × Progress)) (mramSound snSound : Bool) (s : State) :
    Host.Outcome State Fault Refusal :=
  .next (if s.live && decide (1 ≤ cause.toNat ∧ cause.toNat ≤ 7) then
    s.fatalStop cause.toNat phys.toNat pts mramSound snSound
  else s)

/-- WATCHDOG_TIMEOUT: the Shepherd has not serviced its watchdog within 1 ms. -/
def execWatchdogTimeout (pts : List (Nat × Progress)) (mramSound snSound : Bool) (s : State) :
    Host.Outcome State Fault Refusal :=
  .next (if s.live && s.ready.shepherd then s.fatalStop 5 0 pts mramSound snSound else s)

end Sys2Proof.Machine
end

