-- ==== Sys2Proof/Machine/Opcodes.lean ====
section
/-!
DEFINITION. The opcodes that run on folds (Table 07-6). A command carries out the whole remaining work of a descriptor that
may run now: its start with the checks of R23, its units, and its end with status and digest. Their units are defined in
Reorder, Gather, TableProduct, Neural and VectorFile; what they share is `State.runOpcode`. DELIVER and COLLECT stand with
the ports that they use.
-/
namespace Sys2Proof.Machine

/-- COPY (R385: each SRC0 element with its bits unchanged to the DST element of the same logical index). -/
def execCopy (d : Nat) (s : State) : Host.Outcome State Fault Refusal := .next (s.runOpcode .copy d)

/-- TRANSPOSE (R78: dimensions 0 and 1 exchanged). -/
def execTranspose (d : Nat) (s : State) : Host.Outcome State Fault Refusal := .next (s.runOpcode .transpose d)

/-- PERMUTE (R79: dimensions reordered by the axis map). -/
def execPermute (d : Nat) (s : State) : Host.Outcome State Fault Refusal := .next (s.runOpcode .permute d)

/-- SHUFFLE (R80 to R85: tiles permuted by a BPC, AFFINE or BODY route). -/
def execShuffle (d : Nat) (s : State) : Host.Outcome State Fault Refusal := .next (s.runOpcode .shuffle d)

/-- GATHER (R97 to R109, R114: DST filled in order from the SRC0 elements that an index stream names). -/
def execGather (d : Nat) (s : State) : Host.Outcome State Fault Refusal := .next (s.runOpcode .gather d)

/-- SCATTER (R110 to R114: SRC0 elements written where an index stream names). -/
def execScatter (d : Nat) (s : State) : Host.Outcome State Fault Refusal := .next (s.runOpcode .scatter d)

/-- CONVERT (R193: elements converted by Table 06-5). -/
def execConvert (d : Nat) (s : State) : Host.Outcome State Fault Refusal := .next (s.runOpcode .convert d)

/-- PACK (R194: SRC0 and SRC1 interleaved along dimension 0). -/
def execPack (d : Nat) (s : State) : Host.Outcome State Fault Refusal := .next (s.runOpcode .pack d)

/-- UNPACK (R194: one phase of an interleave taken). -/
def execUnpack (d : Nat) (s : State) : Host.Outcome State Fault Refusal := .next (s.runOpcode .unpack d)

/-- TPROD (R115 to R145: a table product). -/
def execTprod (d : Nat) (s : State) : Host.Outcome State Fault Refusal := .next (s.runOpcode .tprod d)

/-- CBLOAD (R120 to R122: a table image built). -/
def execCbload (d : Nat) (s : State) : Host.Outcome State Fault Refusal := .next (s.runOpcode .cbload d)

/-- REQUANT (R136 to R139: accumulators requantised). -/
def execRequant (d : Nat) (s : State) : Host.Outcome State Fault Refusal := .next (s.runOpcode .requant d)

/-- VLOAD (R152: a view loaded into vector registers). -/
def execVload (d : Nat) (s : State) : Host.Outcome State Fault Refusal := .next (s.runOpcode .vload d)

/-- VSTORE (R153: vector registers stored to a view). -/
def execVstore (d : Nat) (s : State) : Host.Outcome State Fault Refusal := .next (s.runOpcode .vstore d)

/-- VMOVE (R158 to R160: registers or pasture moved to another fold). -/
def execVmove (d : Nat) (s : State) : Host.Outcome State Fault Refusal := .next (s.runOpcode .vmove d)

/-- RELEASE (R161: registers made EMPTY). -/
def execRelease (d : Nat) (s : State) : Host.Outcome State Fault Refusal := .next (s.runOpcode .release d)

/-- ROUTE (R86 to R93: a route body computed and installed). -/
def execRoute (d : Nat) (s : State) : Host.Outcome State Fault Refusal := .next (s.runOpcode .route d)

/-- DIGEST (R197: the PD64 of SRC0). -/
def execDigest (d : Nat) (s : State) : Host.Outcome State Fault Refusal := .next (s.runOpcode .digest d)

/-! ### The NE and NR ports (R262, R269 to R272) -/

/-- Number of a data port: SN0 to SN7 are 0 to 7, NE0 to NE3 8 to 11, NR0 and NR1 12 and 13. -/
def PortName.num : PortName → Nat
  | .sn k => k.toNat
  | .ne k => 8 + k.toNat
  | .nr k => 12 + k.toNat

/-- A transfer on an NE or NR port: its clock gate is open. -/
def State.usePort (s : State) (n : Nat) : State :=
  { s with ports := { s.ports with
      last := sset 0 s.ports.last n s.tick,
      gateNe := if 8 ≤ n ∧ n < 12 then s.ports.gateNe &&& ~~~(BitVec.ofNat 4 (2 ^ (n - 8))) else s.ports.gateNe,
      gateNr := if 12 ≤ n then s.ports.gateNr &&& ~~~(BitVec.ofNat 2 (2 ^ (n - 12))) else s.ports.gateNr } }

/-- The port number of a DELIVER or COLLECT. -/
def Desc.portNum (d : Desc) : Nat := if d.isOpc .deliver then 8 + fld d.p.aux 0 2 else 12 + fld d.p.aux 0 1

/-- Whether the port of a DELIVER or COLLECT is ready. -/
def State.portUp (s : State) (d : Desc) : Bool :=
  if d.isOpc .deliver then bit s.ready.ne.toNat (fld d.p.aux 0 2) else bit s.ready.nr.toNat (fld d.p.aux 0 1)

/-- A bounded DELIVER or COLLECT whose port stalled for `stall` FCLK cycles in all (R272). -/
def State.portStall (s : State) (did stall : Nat) : State :=
  match s.desc? did with
  | none => s
  | some d =>
    if d.active && d.bounded && decide (16 * s.cost.port.toNat < stall) then
      (s.voidBound did).noteD 0x020D d.folds.head? d (cdiv stall 16)
    else s

/-- Run a DELIVER or COLLECT whose port stalled for `stall` FCLK cycles in all. -/
def State.runPort (s : State) (o : Opc) (did stall : Nat) : State :=
  match s.desc? did with
  | none => s
  | some d =>
    if d.isOpc o && s.canRun d && s.portUp d then
      ((((s.ensure did).portStall did stall).usePort d.portNum).armPort d).complete did
    else s

/-- DELIVER (R94 to R96, R270): a projected layout streamed to an NE port. -/
def execDeliver (d stall : Nat) (s : State) : Host.Outcome State Fault Refusal := .next (s.runPort .deliver d stall)

/-- COLLECT (R195): the drain beats that have arrived are written; it ends when all have. -/
def execCollect (d stall : Nat) (s : State) : Host.Outcome State Fault Refusal := .next (s.runPort .collect d stall)

/-- Table 10-7, the rows of an NR beat. NR_OFS is written for a beat at the wrong offset, poisoned or not (Table 13-5). -/
def State.landBeat (s : State) (d : Desc) (ofs : BitVec 26) (data : BitVec 512) (last poison : Bool) : State :=
  match (((d.p.src0.map Grat.drainBeats).getD [])[d.drain.length]?) with
  | none => s
  | some x =>
    let off := decide (ofs.toNat ≠ x.1)
    let t := ((s.usePort d.portNum).armPort d).modDesc d.did (fun e => { e with drain := e.drain ++ [{ data := data, rad := poison || off }] })
    if off then t.noteD 0x020A d.folds.head? d (place ofs.toNat 0 26 + place x.1 32 26)
    else if last ≠ x.2 && !poison then t.noteD 0x020B d.folds.head? d ofs.toNat
    else t

/-- Whether some fold runs the descriptor, or may start it now. -/
def State.runsSome (s : State) (d : Desc) : Bool := if d.begun then d.folds.any (s.runsOn d) else s.canStart d

/-- Whether the drovers that run a COLLECT hold a free landing slot (R270). -/
def State.slotFree (s : State) (d : Desc) : Bool :=
  (d.folds.filter (s.runsOn d)).all (fun f => (s.phys f).all (fun p => decide (s.landingUsed p < 64)))

/-- NR_BEAT: the neural engine's beat is taken by the COLLECT that runs on the port, where its drover holds a free landing slot;
at any other time it waits (R270, R271). -/
def execNrBeat (port : BitVec 1) (ofs : BitVec 26) (data : BitVec 512) (last poison : Bool) (s : State) :
    Host.Outcome State Fault Refusal :=
  .next (match s.descs.find? (fun d => d.active && d.isOpc .collect && d.portNum = 12 + port.toNat && s.portUp d && s.runsSome d) with
    | none => s
    | some d =>
      let s1 := s.ensure d.did
      match s1.desc? d.did with
      | none => s1
      | some e => if e.active && s1.slotFree e then s1.landBeat e ofs data last poison else s1)

/-- The beats of the tile in progress that an NE port has accepted before it stalled. -/
def State.partBeats (s : State) (d : Desc) (n : Nat) : List NeOut :=
  match d.work.find? (fun x => decide (d.at_ x.1 < x.2.length)) with
  | some x => (s.unitOut d x.1 (d.at_ x.1) (x.2.getD (d.at_ x.1) [])).beats.take n
  | none => []

/-- What leaves on the port of a DELIVER whose timeout ends it: the accepted beats of its tile, then ABORT. -/
def State.abortPort (s : State) (did beats : Nat) : State :=
  match s.desc? did with
  | none => s
  | some d =>
    if d.isOpc .deliver then { s with neOut := s.neOut ++ s.partBeats d beats ++ [.abort (fld d.p.aux 0 2)] } else s

/-- A port makes no transfer for its timeout: the descriptor ends PORT_TIMEOUT at units `pts`, `beats` beats of the next tile
having been accepted; a stall beyond R272's total voids its bound. -/
def State.portExpire (s : State) (d : Desc) (pts : Progress) (beats stall : Nat) : State :=
  let info := if d.isOpc .deliver then fld d.p.aux 0 2 else fld d.p.aux 0 1 + 4
  ((((s.portStall d.did stall).advance d.did (progAt pts)).abortPort d.did beats).noteD 0x020C d.folds.head? d info).endEarly d.did
    .portTimeout

/-- PORT_STALL_TIMEOUT: the port of a running DELIVER or COLLECT has made no transfer for its timeout (R271). One that may start
now starts here, and its timeout with it. -/
def execPortStallTimeout (d : Nat) (stop : PortStop) (s : State) : Host.Outcome State Fault Refusal :=
  .next (match s.desc? d with
    | none => s
    | some e =>
      if (e.isOpc .deliver || e.isOpc .collect) && s.runsSome e then
        let s1 := s.ensure d
        match (s1.desc? d).bind (fun x => x.stallFrom.map (fun y => (x, y))) with
        | some (x, since, limit) =>
          if x.active && decide (since + limit ≤ s.tick) && e.begun then s1.portExpire x stop.pts stop.beats (16 * (s.tick - since)) else s1
        | none => s1
      else s)

end Sys2Proof.Machine
end

