-- ==== Sys2Proof/Machine/Period.lean ====
section
/-!
DEFINITION. The period boundary with its plans (08_pens_and_admission.md R233 to R235), the bell and the gate
(11_determinism.md R291 to R294), and the thermal level (14_registers.md R361).
-/
namespace Sys2Proof.Machine

/-! ### Plans -/

/-- Cut an image into descriptors by 1 + popcount(PRES) cells, at most `n` of them. -/
def splitImage : Nat → List Cell → List (List Cell)
  | 0, _ => []
  | _, [] => []
  | n + 1, c :: r =>
    let k := cellCount c.toNat
    (c :: r).take k :: splitImage n ((c :: r).drop k)

/-- The descriptors of an image with the place of their first cells. -/
def placed : Nat → List (List Cell) → List (Nat × List Cell)
  | _, [] => []
  | a, l :: r => (a, l) :: placed (a + l.length) r

/-- Admit one plan descriptor (R234), or refuse it where one of its words is uncorrectable (R334). -/
def State.takePlan (s : State) (plan pen : Nat) (bad : List Nat) (x : Nat × List Cell) : State :=
  let d := Desc.fresh s.nextDid pen 0 x.2 (some plan)
  let s1 : State := { s with nextDid := s.nextDid + 1, descs := s.descs ++ [d] }
  if bad.any (fun b => decide (x.1 ≤ b ∧ b < x.1 + x.2.length)) then
    (s1.noteD 0x0304 none d plan).refuse d.did .refusedEncoding
  else s1.take d

/-- Admit the descriptors of every loaded plan, plans in ascending number and descriptors in image order (R233, step 4). A
plan whose pen is not served admits nothing. -/
def State.admitPlans (s : State) : State :=
  s.plans.foldl (fun t x =>
    match x.2.loaded with
    | none => t
    | some y =>
      let t1 := t.servePen y.1
      if (t1.pen y.1).served then
        (placed 0 (splitImage y.2.length y.2)).foldl (fun u z => u.takePlan x.1 y.1 x.2.bad z) t1
      else t1) s

/-- A PLANLOAD that waited for the boundary completes. -/
def State.finishOpt (s : State) : Option Nat → State
  | none => s
  | some did => s.finish did

/-- What step 3 of R233 leaves of one plan. -/
def Plan.turn (p : Plan) : Plan :=
  let q := if p.clear.isSome then { p with loaded := none, clear := none, bad := [] } else p
  match q.staged with
  | none => q
  | some x => { loaded := some (x.1, x.2.1), staged := none, clear := none, bad := [] }

/-- Install staged images and remove cleared plans (R233, step 3). -/
def State.turnPlans (s : State) : State :=
  let done := s.plans.flatMap (fun x => [x.2.clear, x.2.staged.map (fun y => y.2.2)])
  let s1 : State := { s with plans := smap Plan.blank Plan.turn s.plans }
  done.foldl State.finishOpt s1

/-- A word of the plan store takes an uncorrectable error. -/
def State.upsetPlan (s : State) (x : Nat × Nat) : State :=
  let p := sget Plan.blank s.plans x.1
  match p.loaded with
  | none => s
  | some y => if x.2 < y.2.length then
      { s with plans := sset Plan.blank s.plans x.1 { p with bad := insertN x.2 (p.bad.filter (· ≠ x.2)) } } else s

/-! ### The boundary (R233, R292) -/

/-- P and its pending values after a boundary. -/
def Period.turnP (p : Period) : Nat × List (Nat × Nat) :=
  let l := p.pending.map (fun x => (x.1, x.2 - 1))
  (((l.find? (fun x => decide (x.2 = 0))).map Prod.fst).getD p.inForce, l.filter (fun x => x.2 ≠ 0))

/-- A boundary taken by a snap or, with bells governing, counted as a miss (R292). -/
def State.countBoundary (s : State) : State :=
  let p := s.period
  let s1 := s.modEpoch (fun e => { e with bounds := e.bounds + 1, snaps := e.snaps + b2n p.snapped })
  if p.snapped then ({ s1 with period := { p with snapped := false, locked := true } } : State).count 9 1
  else
    let s2 : State := { s1 with period := { p with locked := false } }
    if s.cfg.bellEn then
      let m := Nat.min 255 (p.misses + 1)
      let s3 := ({ s2 with period := { s2.period with misses := m, freeRun := p.freeRun || decide (4 ≤ m) } } : State).count 10 1
      if m = 4 then s3.note 0x0401 0 else s3
    else s2

/-- Steps 1 and 2 of R233 at the boundary at tick `e`: the number, the tick, the next boundary, FT and XL. -/
def State.openPeriod (s : State) (e : Nat) : State :=
  let x := s.period.turnP
  { s with period := { s.period with num := s.period.num + 1, tb := e, inForce := x.1, pending := x.2, next := some (e + x.1) },
           pens := smap Pen.blank (fun pn => { pn with ft := 0, xl := 0 }) s.pens }

/-- Entries of the cost table that the Shepherd raises at a boundary (R221). -/
def State.raiseCost (s : State) (c : Option (BitVec 16 × BitVec 16 × BitVec 16)) : State :=
  match c with
  | none => s
  | some x =>
    { s with cost := { rd := max16 s.cost.rd x.1, wr := max16 s.cost.wr x.2.1, port := max16 s.cost.port x.2.2 } }

/-- A pause is requested, in force, or ending. -/
def State.pausing (s : State) : Bool := s.pause.req || s.pause.paused || s.pause.busy

/-- PERIOD_BOUNDARY: the boundary that is due is taken. During a pause no plan descriptor is admitted (R289). -/
def execPeriodBoundary (cost : Option (BitVec 16 × BitVec 16 × BitVec 16)) (planUpsets : List (Nat × Nat)) (s : State) :
    Host.Outcome State Fault Refusal :=
  .next (match s.period.next with
    | none => s
    | some e =>
      if !(s.live && s.cfg.enable && decide (e ≤ s.tick)) then s
      else
        let s1 := (((s.closeIfDue e).countBoundary.openPeriod e).raiseCost cost).turnPlans
        let s2 := planUpsets.foldl State.upsetPlan s1
        if s.pausing then s2.note 0x0402 s2.period.num.toNat
        else if s2.admitting then s2.admitPlans
        else s2)

/-! ### The bell (R291, R292) -/

/-- A remainder reduced to (−P/2, P/2]. -/
def reduced (x : Int) (p : Nat) : Int :=
  let r := x % (p : Int)
  if (p : Int) < 2 * r then r - p else r

/-- Whether two ticks lie within P/8 of each other. -/
def nearTick (a b p : Nat) : Bool := decide (8 * ((a : Int) - (b : Int)).natAbs ≤ p)

/-- A snap: the next boundary is taken at tick `at_`. -/
def Period.snap (p : Period) (at_ : Nat) : Period :=
  { p with next := some at_, snapped := true, misses := 0, freeRun := false }

/-- What a bell at tick `b` does to the period (R292). -/
def Period.bell (p : Period) (b : Nat) : Period :=
  match p.next with
  | none => p
  | some e =>
    if p.snapped then { p with ignored := Nat.min 0xFFFF (p.ignored + 1) }
    else if nearTick (b + 32) e p.inForce then p.snap (b + 32)
    else if nearTick (b + 32) p.tb p.inForce then p.snap (b + 32 + p.inForce)
    else
      let lim : Int := (p.inForce / 64 : Nat)
      { p with next := some (((e : Int) + clampI (reduced (((b + 32 : Nat) : Int) - e) p.inForce) (-lim) lim).toNat) }

/-- Whether BELL_IN can have been low for 16 FCLK cycles and high for 16 more since it was last known to be high: two ticks
(R291). -/
def Gate.mayRise (g : Gate) (b : Nat) : Bool := g.high.all (fun h => decide (h + 2 ≤ b))

/-- BELL: a rising edge of BELL_IN is detected. -/
def execBell (s : State) : Host.Outcome State Fault Refusal :=
  .next (if !s.live || !s.gate.mayRise s.tick then s
    else
      let s1 := ({ s with gate := { s.gate with high := some s.tick, lastBell := some (s.tick, s.pins.gateArm) } } : State).count 8 1
      if s.cfg.bellEn && s.cfg.enable then { s1 with period := s1.period.bell s.tick } else s1)

/-- GATE_BELL: BELL_IN is still high 48 ticks after the detection; where the block was armed then, it releases (R294). -/
def execGateBell (s : State) : Host.Outcome State Fault Refusal :=
  .next (match s.gate.lastBell with
    | none => s
    | some x =>
      if s.live && decide (x.1 + 48 ≤ s.tick) then
        { s with gate := { high := some (x.1 + 48), lastBell := none, release := if x.2 then some (x.1 + 48) else s.gate.release } }
      else s)

/-- GATE_RELEASE: every armed GATE and every hold completes and GATE_ARM_OUT falls (R294). -/
def execGateRelease (s : State) : Host.Outcome State Fault Refusal :=
  .next (match s.gate.release with
    | none => s
    | some t =>
      if s.live && decide (t ≤ s.tick) then
        let gates := (s.descs.filter (fun d => d.active && d.isOpc .gate)).map (fun d => d.did)
        (gates.foldl State.finish { s with gate := { s.gate with release := none } }).setArm
      else s)

/-! ### Heat (R228, R361, R377) -/

/-- Void every bound between admission and completion. -/
def State.voidAll (s : State) : State :=
  { s with descs := s.descs.map (fun d => if d.admitted && d.bound.isSome then { d with void := true } else d) }

/-- THERM_LVL_CHANGE: a new THERM_LVL is accepted and applies from the next tick. -/
def execThermLvlChange (lvl : BitVec 2) (s : State) : Host.Outcome State Fault Refusal :=
  .next (if !s.up || s.therm.lvl = lvl then s
    else
      let th := s.therm
      let t1 : State := { s with therm := { th with lvl := lvl, before := th.lvl, from_ := s.tick + 1 } }
      let t2 : State := if lvl = 3 then
          (({ t1 with therm := { t1.therm with l3 := true, l3count := if th.l3count = 0xFFFF then 0xFFFF else th.l3count + 1 } }
            : State).voidAll).modEpoch (fun e => { e with therm3 := true })
        else t1
      if lvl = 3 ∨ th.lvl = 3 then t2.note 0x030D lvl.toNat else t2)

end Sys2Proof.Machine
end

