-- ==== Sys2Proof/Machine/Pause.lean ====
section
/-!
DEFINITION. The block pause (11_determinism.md R289, R290) with the context images that it writes and reads back
(06_fold_files.md R164, R167).
-/
namespace Sys2Proof.Machine

/-! ### PLT_PAUSE.REQ -/

/-- A pause starts: admission stops, the image base is read, every admitted descriptor that has not completed carries
VOID, and the open epoch notes it. -/
def State.startPause (s : State) : State :=
  ({ s with pause := { s.pause with req := true, busy := true, base := s.cfg.ctxBase },
            descs := s.descs.map (fun d => if d.admitted then { d with void := true } else d) } : State).modEpoch
    (fun e => { e with pause := true })

/-- Change one register of a fold (R167): state, data and raddle of V`i`. -/
def Fold.setReg (fo : Fold) (i : Nat) (v : VReg) : Fold := { fo with vregs := sset VReg.blank fo.vregs i v }

/-! ### Context images (R164, R167) -/

/-- A mask of the registers that pass a test. -/
def regMask (p : Nat → Bool) : Nat := sumN (((List.range 32).filter p).map (fun i => 2 ^ i))

/-- State of register `i` of a fold. -/
def Fold.reg (fo : Fold) (i : Nat) : VReg := sget VReg.blank fo.vregs i

/-- The 512 bits of SROW (Table 06-6). -/
def Fold.srowBits (fo : Fold) : Nat :=
  let r := fo.srow
  place r.row.toNat 0 16 + place r.unit.toNat 16 32 + place r.rvalid.toNat 64 32 +
  place (regMask (fun i => (fo.reg i).st = .loading)) 96 32 + place (regMask (fun i => (fo.reg i).st = .full)) 128 32 +
  place (b2n fo.acc) 160 1 + place (b2n r.susp) 161 1 + place (b2n r.sat) 162 1 + place (b2n r.constCh) 163 1 +
  place r.tag.toNat 192 32 + place r.brand.toNat 224 16 + place r.dpart.toNat 256 64 + place r.clamps.toNat 320 32 +
  place r.raddles.toNat 352 32

/-- Registers that an image saves, from its SROW's FULL, TARGET, RVALID and MODE. -/
def savedRegs (n : Nat) : List Nat :=
  (List.range 32).filter (fun i => bit n (128 + i) || (bit n (96 + i) && bit n (64 + i)) || (bit n 160 && decide (16 ≤ i)))

/-- Write one beat of an image: a transaction, poisoned where the beat holds a raddle bit (R267, R273). -/
def State.passImage (s : State) (line : Nat) (data : BitVec 512) (rad : Bool) : State :=
  let t := match s.takeId (snPort line) with
    | none => s
    | some x => x.2.emit { s.ownReq (snPort line) x.1 true false line [] with data := data, strb := BitVec.allOnes 64, poison := rad }
  t.putAll (beatPieces line data (BitVec.allOnes 64) rad)

/-- Write a fold's context image. A register word that holds an uncorrectable error is written raddled, with its event. -/
def State.writeImage (s : State) (f : Nat) : State :=
  let fo := s.lfold f
  let n := fo.srowBits
  let rs := savedRegs n
  let a := (s.pause.base.toNat + 2112 * f) / 64
  let t := ((List.range rs.length).zip rs).foldl (fun u x =>
    let v := (fo.reg x.2).read
    u.passImage (a + x.1 + 1) v.data (decide (v.rad ≠ 0))) (s.passImage a (BitVec.ofNat 512 n) false)
  (s.vfileUe f rs).foldl (fun u e => u.noteF e.1 e.2.1 e.2.2) t

/-- The vector file, the latches and SROW of a fold lose power. -/
def Fold.powerDown (fo : Fold) : Fold :=
  { fo with vregs := [], acc := false, srow := Srow.blank, latches := Latches.clear }

/-- SROW's own fields from 512 bits. -/
def Srow.ofBits (n : Nat) : Srow :=
  { row := BitVec.ofNat 16 (fld n 0 16), unit := BitVec.ofNat 32 (fld n 16 32), rvalid := BitVec.ofNat 32 (fld n 64 32),
    susp := bit n 161, sat := bit n 162, constCh := bit n 163, tag := BitVec.ofNat 32 (fld n 192 32),
    brand := BitVec.ofNat 16 (fld n 224 16), dpart := BitVec.ofNat 64 (fld n 256 64), clamps := BitVec.ofNat 32 (fld n 320 32),
    raddles := BitVec.ofNat 32 (fld n 352 32) }

/-- The register states that an image recreates: one that it does not save is EMPTY. -/
def imageState (n i : Nat) : RegState :=
  if bit n 160 && decide (16 ≤ i) then .tile
  else if bit n (128 + i) then .full
  else if bit n (96 + i) && bit n (64 + i) then .loading
  else .empty

/-- Read a beat of host memory: data, raddle. -/
def State.readBeat (s : State) (a : Nat) : Nat × Nat :=
  let l := (List.range 64).map (fun i => s.hostByte (a + i))
  (leNat (l.map Prod.fst), bitsOf (l.map Prod.snd))

/-- Restore a fold from the image at address `a`. -/
def State.readImage (s : State) (a : Nat) (fo : Fold) : Fold :=
  let n := (s.readBeat a).1
  let rs := savedRegs n
  let saved := (List.range rs.length).zip rs
  let reg := fun i =>
    let st := imageState n i
    match saved.find? (fun x => x.2 = i) with
    | some x =>
      let b := s.readBeat (a + 64 * (x.1 + 1))
      ({ data := BitVec.ofNat 512 b.1, rad := BitVec.ofNat 64 b.2, st := st, err := 0 } : VReg)
    | none => { VReg.blank with st := st }
  (List.range 32).foldl (fun g i => g.setReg i (reg i)) { fo with vregs := [], acc := bit n 160, srow := Srow.ofBits n }

/-! ### PAUSE_COMPLETE -/

/-- Active shadows, which write no image of their own (R289). -/
def State.activeShadow (s : State) (f : Nat) : Bool := s.twins.any (fun t => t.active && decide (t.shd.toNat = f))

/-- Folds that write and read images. -/
def State.imageFolds (s : State) : List Nat := (List.range s.n).filter (fun f => s.present f && !s.activeShadow f)

/-- Descriptors that run. -/
def State.running (s : State) : List Desc :=
  s.descs.filter (fun d => d.active && d.begun && d.folds.any (fun f => (s.lfold f).running = some d.did))

/-- Whether the pause may complete: what still runs can be suspended, no fold waits in place, every write is answered. -/
def State.pauseReady (s : State) : Bool :=
  s.running.all (fun d => s.pausable d) && (List.range s.n).all (fun f => (s.lfold f).inPlace.isNone) &&
  !(s.ports.txns.any (fun t => t.write))

/-- Suspend a running descriptor at its next point; one that has come to its end by then completes. -/
def State.pauseOne (s : State) (pts : List (Nat × Progress)) (did : Nat) : State :=
  let s1 := s.advance did (progAt (((pts.find? (fun x => decide (x.1 = did))).map Prod.snd).getD []))
  match s1.desc? did with
  | none => s1
  | some d =>
    if d.allDone then s1.complete did
    else d.folds.foldl (fun t f => if (t.lfold f).running = some did then t.suspendOn f did .pause else t) s1

/-- PAUSE_COMPLETE: every fold is idle or suspended and every write answered, so the images are written, the folds lose
power and PAUSED is set. -/
def execPauseComplete (pts : List (Nat × Progress)) (s : State) : Host.Outcome State Fault Refusal :=
  .next (if s.live && s.pause.req && s.pause.busy && !s.pause.paused && s.pauseReady then
    let s1 := (s.running.map (fun d => d.did)).foldl (fun t did => t.pauseOne pts did) s
    let s2 := s1.imageFolds.foldl State.writeImage s1
    let s3 := (List.range s2.n).foldl (fun t f => t.modL f Fold.powerDown) s2
    { s3 with pause := { s3.pause with paused := true, busy := false } }
  else s)

/-! ### RESUME -/

/-- What SROW's 512 bits make of the suspended descriptor of fold `f`: its progress, counts and digest partial are those of the
image (R290). An image whose SUSP is 0 leaves none suspended there. DESIGN CHOICE (log 50). -/
def State.takeSrow (s : State) (f n : Nat) : State :=
  let r := Srow.ofBits n
  match (s.lfold f).susp with
  | none => s
  | some u =>
    if !r.susp then s.modPair f (fun fo => { fo with susp := none })
    else match s.desc? u.did with
      | none => s
      | some d =>
        let dp := s.partialDigest d f
        let at_ := Nat.min (if d.byRows then r.row.toNat else r.unit.toNat) (d.unitsOn f)
        s.modDesc u.did (fun e =>
          { e.modAcc f (fun a => { a with clamps := r.clamps.toNat, sat := r.sat, constCh := r.constCh,
                                          xrad := a.xrad + (r.raddles.toNat : Int) - (d.raddlesOn f : Int),
                                          xdig := a.xdig ^^^ r.dpart ^^^ dp }) with
            prog := (f, at_) :: e.prog.filter (fun x => decide (x.1 ≠ f)) })

/-- The lines of an image that a restore reads (R167). -/
def imageLines (base n : Nat) : List Nat := rangeFrom (base / 64) ((savedRegs n).length + 1)

/-- Read one image back. A fold whose SROW beat is poisoned fails to restore and is lost (R290). -/
def State.restore (s : State) (f : Nat) : State :=
  let a := s.pause.base.toNat + 2112 * f
  if (s.readBeat a).2 ≠ 0 then
    match s.phys f with
    | some p => s.retire p []
    | none => s
  else
    let n := (s.readBeat a).1
    ((s.passOwn false [] (imageLines a n)).modL f (s.readImage a)).takeSrow f n

/-- Active shadows restore from their primaries' images. -/
def State.restoreShadow (s : State) (t : Twin) : State :=
  let a := s.pause.base.toNat + 2112 * t.pri.toNat
  if t.active && s.present t.pri.toNat then
    (s.passOwn false [] (imageLines a (s.readBeat a).1)).modL t.shd.toNat (s.readImage a)
  else s

/-- A fold keeps its suspended descriptor where it executes it, itself or as an active shadow; one suspended for the pause
may resume. -/
def State.wakeSusp (s : State) (f : Nat) : State :=
  let mine := fun (u : Susp) => (s.desc? u.did).any (fun d => d.active && (d.folds.contains f || s.activeShadow f))
  s.modL f (fun fo => { fo with susp := (fo.susp.filter mine).map (fun u => if u.why = .pause then { u with ready := true } else u) })

/-- A PLT_XRESUME of the pause takes effect. -/
def State.lateResume (s : State) (x : Nat × Bool) : State :=
  match (s.lfold x.1).fault with
  | none => s
  | some u => if x.2 then s.endFault u.did [] else s.retryOn x.1

/-- The resume (R290): images read back, shadows restored, pairs read again, services of the pause applied. -/
def State.resume (s : State) : State :=
  let s1 := s.imageFolds.foldl State.restore s
  let s2 := s1.twins.foldl State.restoreShadow s1
  let s3 := (List.range s2.n).foldl State.wakeSusp s2
  let s4 := s3.pause.retry.foldl State.lateResume s3
  let s5 := if s4.cfg.enable then (List.range 8).foldl State.readTwin s4 else s4
  { s5 with pause := { s5.pause with req := false, paused := false, busy := false, retry := [] } }

/-- A write of PLT_PAUSE (Table 11-5). -/
def State.writePause (s : State) (req : Bool) : State :=
  if !s.live then s
  else if s.pause.busy then s.note 0x0403 0
  else if req then (if s.pause.req then s else s.startPause)
  else if s.pause.paused then s.resume
  else s

/-- PAUSE: a write of 1 to REQ. -/
def execPause (s : State) : Host.Outcome State Fault Refusal := .next (s.writePause true)

/-- RESUME: a write of 0 to REQ. -/
def execResume (s : State) : Host.Outcome State Fault Refusal := .next (s.writePause false)

end Sys2Proof.Machine
end

