-- ==== Sys2Proof/Machine/StileOps.lean ====
section
/-!
DEFINITION. The opcodes that the stile carries out alone: FENCE, NOP, GATE, CANCEL, PLANLOAD and SEEDSET (07_descriptors.md
R196, R198, R199; 08_pens_and_admission.md R231, R232, R235). TALLY stands with the tally book.
-/
namespace Sys2Proof.Machine

/-- A no-fold descriptor that may act now: admitted, its waits met. -/
def State.stileReady (s : State) (o : Opc) (did : Nat) : Bool :=
  s.live && (s.desc? did).any (fun d => d.active && d.isOpc o && s.waitsMet d)

/-- FENCE: completes once every earlier-admitted descriptor of its pen has completed and its waits are met (R196). -/
def execFence (d : Nat) (s : State) : Host.Outcome State Fault Refusal :=
  .next (match s.desc? d with
    | none => s
    | some e =>
      if s.stileReady .fence d && !(s.descs.any (fun x => x.admitted && decide (x.pen = e.pen ∧ x.step < e.step))) then
        s.finish d
      else s)

/-- NOP: completes once its waits are met (R196). -/
def execNop (d : Nat) (s : State) : Host.Outcome State Fault Refusal :=
  .next (if s.stileReady .nop d then s.finish d else s)

/-- SEEDSET: its seed took effect at its admission (R232); it completes once its waits are met. -/
def execSeedset (d : Nat) (s : State) : Host.Outcome State Fault Refusal :=
  .next (if s.stileReady .seedset d then s.finish d else s)

/-- Mark an admitted GATE as taken up. -/
def State.takeGate (s : State) (did : Nat) (arms : Bool) : State :=
  match s.desc? did with
  | none => s
  | some d =>
    if s.live && d.active && d.isOpc .gate && d.p.arms = arms then
      (s.modDesc did (fun e => { e with begun := true })).setArm
    else s

/-- GATE_ARM: a GATE with ARM = 1 arms this S880 and GATE_ARM_OUT is high until a release (R293). -/
def execGateArm (d : Nat) (s : State) : Host.Outcome State Fault Refusal := .next (s.takeGate d true)

/-- GATE_HOLD: a GATE with ARM = 0 holds its pen until the next release that follows an arming (R198, R293). The hold is
`State.penBlocked`; GATE_RELEASE ends it. -/
def execGateHold (d : Nat) (s : State) : Host.Outcome State Fault Refusal := .next (s.takeGate d false)

/-! ### CANCEL (R231) -/

/-- Whether a VSTORE or VMOVE has issued its first write, after which it runs to its end: a unit or a host line of it, or beats
on the ring (R166). -/
def State.pastWrite (s : State) (d : Desc) (pts : Progress) : Bool :=
  d.begun && (d.isOpc .vstore || d.isOpc .vmove) &&
  (d.work.any (fun x => d.wrote x.1 || decide (0 < progAt pts x.1)) ||
   s.xfers.any (fun x => decide (x.did = d.did) && x.until_.isSome))

/-- A descriptor not admitted is cancelled at once, as a refusal is (R22). -/
def State.cancelFetched (s : State) (did : Nat) : State :=
  (s.refuse did .cancelled)

/-- Cancel a TALLY: a record not yet folded is dropped and leaves its run open; a folded one runs on. -/
def State.cancelTally (s : State) (did : Nat) : State :=
  match s.tally.waiting.find? (fun r => decide (r.did = did)) with
  | none => s.endEarly did .cancelled
  | some r =>
    if r.folded then s
    else
      let s1 := s.reopenRun r
      let s2 : State := { s1 with tally := { s1.tally with waiting := s1.tally.waiting.filter (fun x => x.did ≠ did) } }
      s2.endEarly did .cancelled

/-- Bring one target of a CANCEL to its end. -/
def State.cancelOne (s : State) (did : Nat) (pts : Progress) : State :=
  match s.desc? did with
  | none => s
  | some d =>
    match d.stage with
    | .fetched | .held _ => s.cancelFetched did
    | .ended => s
    | .admitted =>
      if d.isOpc .tally then s.cancelTally did
      else if s.pastWrite d pts then s
      else s.stopAt did pts .cancelled

/-- CANCEL: its targets end, at once or at their cancel points; it completes DONE when all of them have completed. -/
def execCancel (d : Nat) (pts : List (Nat × Progress)) (s : State) : Host.Outcome State Fault Refusal :=
  .next (match s.desc? d with
    | none => s
    | some e =>
      if s.stileReady .cancel d then
        let s1 := e.targets.foldl (fun t i =>
          t.cancelOne i (((pts.find? (fun x => decide (x.1 = i))).map Prod.snd).getD [])) s
        if e.targets.any (fun i => (s1.desc? i).isSome) then s1 else s1.finish d
      else s)

/-! ### PLANLOAD (R235) -/

/-- Cells of an image in host memory. -/
def State.imageCells (s : State) (a n : Nat) : List Cell :=
  (List.range n).map (fun i => BitVec.ofNat 512 (leNat (s.getHost (a + 64 * i) 64)))

/-- The walk of an image ends at its last cell, and every TAG names the plan's pen. -/
def planImageOk (cells : List Cell) (pen : Nat) : Bool :=
  (splitImage cells.length cells).all (fun l =>
    l.length = cellCount ((l[0]?).getD 0).toNat && fld ((l[0]?).getD 0).toNat 52 12 = pen)

/-- Cells of the plan store in use, the staged image of plan `k` aside. -/
def State.storeUsed (s : State) (k : Nat) : Nat :=
  sumN (s.plans.map (fun x => ((x.2.loaded.map (fun y => y.2.length)).getD 0) +
    (if x.1 = k then 0 else (x.2.staged.map (fun y => y.2.1.length)).getD 0)))

/-- An earlier PLANLOAD of the plan that still waits for the boundary completes CANCELLED. -/
def State.replaceLoad (s : State) (p : Plan) : State :=
  let s1 := match p.staged with
    | some x => s.endEarly x.2.2 .cancelled
    | none => s
  match p.clear with
  | some did => s1.endEarly did .cancelled
  | none => s1

/-- Set a plan. -/
def State.setPlan (s : State) (k : Nat) (p : Plan) : State := { s with plans := sset Plan.blank s.plans k p }

/-- The lines of a PLANLOAD's image are read as transactions (R246). -/
def State.readImageLines (s : State) (d : Desc) : State :=
  match d.p.src0 with
  | some g => if bit d.p.aux 10 then s else s.passOwn false [] (rangeFrom (g.addr / 64) (g.sz 0 / 64))
  | none => s

/-- A PLANLOAD whose image is read without a fault. -/
def State.planLoad (s : State) (d : Desc) : State :=
  let a := d.p.aux
  let k := fld a 0 10
  let pen := fld a 32 12
  let p := sget Plan.blank s.plans k
  if bit a 10 then
    if p.loaded.isNone then s.finish d.did
    else (s.replaceLoad p).setPlan k { p with staged := none, clear := some d.did }
  else
    match d.p.src0 with
    | none => s
    | some g =>
      let n := g.sz 0 / 64
      let cells := s.imageCells g.addr n
      if !planImageOk cells pen then s.endEarly d.did .refusedShape
      else if 16384 < s.storeUsed k + cells.length then s.endEarly d.did .refusedRange
      else if p.loaded.isNone then (s.setPlan k { loaded := some (pen, cells), staged := none, clear := none, bad := [] }).finish d.did
      else (s.replaceLoad p).setPlan k { p with staged := some (pen, cells, d.did), clear := none }

/-- PLANLOAD: `fault` says that its image read met a translation fault, which ends it XLAT_FAULT (Table 10-9). One that
waits for the boundary is not begun again. -/
def execPlanload (d : Nat) (fault : Bool) (s : State) : Host.Outcome State Fault Refusal :=
  .next (match s.desc? d with
    | none => s
    | some e =>
      if s.stileReady .planload d && !e.begun then
        if fault && !bit e.p.aux 10 then s.endEarly d .xlatFault
        else ((s.readImageLines e).modDesc d (fun x => { x with begun := true })).planLoad { e with begun := true }
      else s)

end Sys2Proof.Machine
end

