-- ==== Sys2Proof/Machine/Tally.lean ====
section
/-!
DEFINITION. The tally book (12_tally_book.md R302 to R326): TALLY and its run record, the run log, folding, the close and the
commit of epochs, seals, cuts, the power warning, and exports.
-/
namespace Sys2Proof.Machine

/-! ### TALLY (R286, R305) -/

/-- Insert a layer in ascending LAYER order. -/
def insertLayer (a : Layer) : List Layer → List Layer
  | [] => [a]
  | b :: r => if a.layer ≤ b.layer then a :: b :: r else b :: insertLayer a r

/-- Layers in ascending LAYER order. -/
def sortLayers (l : List Layer) : List Layer := l.foldl (fun acc a => insertLayer a acc) []

/-- The 96 bytes of a TALLY's SRC0. -/
def State.tallySrc (s : State) (d : Desc) : List Byte :=
  match d.p.src0 with
  | none => List.replicate 96 0
  | some g => (List.range 96).map (fun i => BitVec.ofNat 8 (s.rdElt s.fold0 d.did g i).val)

/-- Bytes padded with zeros to whole cells. -/
def padCells (l : List Byte) : List Byte := l ++ List.replicate (64 * cdiv l.length 64 - l.length) 0

/-- The run digest (R286). -/
def runDigest (src : List Byte) (layers : List Layer) : List Byte :=
  sha256 (src ++ layers.flatMap (fun l => leBytes l.layer 2 ++ leBytes l.digest.toNat 8))

/-- The record of a run (Table 12-5), EPOCH and INDEX still zero. -/
def runBytes (d : Desc) (src : List Byte) (layers : List Layer) (steps : List Nat) (mv : Bool) (opened : Nat) : List Byte :=
  let listed := steps.take 4096
  let cells := 3 + cdiv layers.length 4 + cdiv listed.length 8
  leBytes 0 12 ++ leBytes d.pen 2 ++ leBytes d.p.tag 4 ++ leBytes layers.length 2 ++
  leBytes (place listed.length 0 13 + place (b2n (decide (4096 < steps.length))) 13 1 + place (b2n mv) 14 1) 4 ++
  leBytes opened 8 ++ leBytes d.step 8 ++ leBytes cells 4 ++ List.replicate 20 0 ++ src ++ runDigest src layers ++
  padCells (layers.flatMap (fun l => leBytes l.layer 2 ++ List.replicate 6 0 ++ leBytes l.digest.toNat 8)) ++
  padCells (listed.flatMap (fun x => leBytes x 8))

/-- Whether a TALLY may start: every DIGEST with RUN = 1 and every TALLY of its pen admitted before it is done with the
run. -/
def State.tallyReady (s : State) (d : Desc) : Bool :=
  decide (s.tally.stop = .no) && !(s.tally.waiting.any (fun r => decide (r.did = d.did))) &&
  !(s.descs.any (fun e => e.admitted && e.isOpc .digest && bit e.p.aux 16 && decide (e.pen = d.pen ∧ e.step < d.step))) &&
  !((s.openTallies d.pen).any (fun t => decide (t < d.step)))

/-- The record is built: it waits to fold, and the pen's next run is open. -/
def State.buildRun (s : State) (d : Desc) : State :=
  let pn := s.pen d.pen
  let opened := pn.stepOpen.getD s.stile.stepOn
  let inside := fun t => decide (opened < t ∧ t < d.step)
  let layers := pn.layers.filter (fun l => decide (l.step < d.step))
  let steps := pn.stoch.filter inside
  let mv := pn.mv.any inside
  let r : RunRec :=
    { did := d.did, pen := d.pen, bytes := runBytes d (s.tallySrc d) (sortLayers layers) steps mv opened, mv := mv,
      folded := false, layers := layers, stepOpen := pn.stepOpen, stoch := steps, mvs := pn.mv.filter inside }
  let s1 := s.modPen d.pen (fun x =>
    { x with layers := x.layers.filter (fun l => decide (d.step ≤ l.step)), stepOpen := some d.step,
             stoch := x.stoch.filter (fun t => decide (d.step < t)), mv := x.mv.filter (fun t => decide (d.step < t)) })
  let s2 : State := { s1 with tally := { s1.tally with waiting := s1.tally.waiting ++ [r] } }
  let s3 := match d.p.src0 with
    | some g => s2.noteReads ((List.range 96).flatMap (fun i => s.errWords s.fold0 g i))
    | none => s2
  if 4096 < steps.length then s3.noteD 0x010E none d 0 else s3

/-- TALLY: closes its pen's run and builds the run record. It completes once the record is folded and in the run log. -/
def execTally (d : Nat) (s : State) : Host.Outcome State Fault Refusal :=
  .next (match s.desc? d with
    | none => s
    | some e => if s.stileReady .tally d && s.tallyReady e then s.buildRun e else s)

/-! ### Folding and the run log (R306, R310) -/

/-- A folded record: EPOCH and INDEX are those of its leaf. -/
def RunRec.fold (r : RunRec) (seq index : Nat) : RunRec :=
  { r with folded := true, bytes := leBytes seq 8 ++ leBytes index 4 ++ r.bytes.drop 12 }

/-- The leaf of a run record (R308). -/
def RunRec.leaf (r : RunRec) : BitVec 256 := sha256n (0x00#8 :: r.bytes)

/-- Replace a record among those that wait. -/
def putRun (r : RunRec) : List RunRec → List RunRec
  | [] => []
  | x :: l => if x.did = r.did then r :: l else x :: putRun r l

/-- LEAF_FOLD: the oldest record not yet folded is folded into the open epoch, once the book is MOUNTED. -/
def execLeafFold (s : State) : Host.Outcome State Fault Refusal :=
  .next (match s.tally.epoch, s.tally.waiting.find? (fun r => !r.folded) with
    | some e, some r =>
      if s.live && decide (s.tally.st = .mounted) && decide (s.tally.stop = .no) then
        let f := r.fold e.seq e.leaves.length
        ({ s with tally := { s.tally with waiting := putRun f s.tally.waiting } } : State).modEpoch (fun x =>
          { x with leaves := x.leaves ++ [f.leaf], nmv := x.nmv + b2n r.mv })
      else s
    | _, _ => s)

/-- Whether the run log has room for a record. -/
def State.runRoom (s : State) (r : RunRec) : Bool :=
  decide ((s.logs.runW + BitVec.ofNat 32 r.cells - s.cfg.runlogCons).toNat ≤ 2 ^ fld s.cfg.runlogBase.toNat 0 5)

/-- Whether run log writes are in flight or wait for their retry. -/
def State.runLogging (s : State) : Bool :=
  s.own.any (fun o => match o.kind with
    | .runLog _ _ => true
    | _ => false)

/-- RUN_LOG_WRITE: the oldest folded record goes to the run log where it has room; else it is held, with one event an
episode. -/
def execRunLogWrite (s : State) : Host.Outcome State Fault Refusal :=
  .next (match s.tally.waiting.find? (fun r => r.folded) with
    | none => s
    | some r =>
      if s.live && s.cfg.enable && !s.runLogging then
        (if s.runRoom r then ({ s with logs := { s.logs with runFull := false } } : State).issueRun r
         else if s.logs.runFull then s
         else ({ s with logs := { s.logs with runFull := true } } : State).note 0x010F 0)
      else s)

/-! ### Epochs and seals (R302, R312, R313, R316) -/

/-- EPOCH_CLOSE: at the start of a boundary tick, before step 1 of R233, the epoch that is due closes. -/
def execEpochClose (s : State) : Host.Outcome State Fault Refusal :=
  .next (match s.period.next with
    | none => s
    | some e => if s.live && s.cfg.enable && decide (e ≤ s.tick) then s.closeIfDue e else s)

/-- EPOCH_COMMIT_DONE: the marker of the record under commit is written, and the counter slot after it. -/
def execEpochCommitDone (s : State) : Host.Outcome State Fault Refusal := .next (if s.up then s.finishCommit else s)

/-- Ticks of committed epochs after which a seal falls due. -/
def sealSpan : Nat := 8100000000000

/-- SEAL_COMMIT: 86,400 s of epochs have been committed since the last seal. -/
def execSealCommit (s : State) : Host.Outcome State Fault Refusal :=
  .next (if s.live && decide (s.tally.st = .mounted) && decide (s.tally.stop = .no) && s.tally.commit.isNone &&
      decide (sealSpan ≤ s.tally.sealTicks) then s.putSeal (s.tally.seq - 1)
  else s)

/-- A write of EPOCH_S (Table 12-2). -/
def State.setEpochS (s : State) (v : BitVec 10) : State :=
  if 10 ≤ v.toNat ∧ v.toNat ≤ 600 then { s with cfg := { s.cfg with epochS := v } } else s.note 0x0406 v.toNat

/-- EPOCH_S_WRITE: a write of EPOCH_S. -/
def execEpochSWrite (v : BitVec 10) (s : State) : Host.Outcome State Fault Refusal := .next (if s.up then s.setEpochS v else s)

/-! ### Cuts and the power warning (R317 to R319) -/

/-- A write of 1 to PLT_TALLY_CFG.CUT. After a warning's cut there is no epoch left to cut. -/
def State.cutBySoftware (s : State) : State :=
  if !s.live || decide (s.tally.stop = .cut) then s
  else
    let t := s.cutNow .cut
    if t.tally.slotDone && t.tally.commit.isNone then t.enterCut else t

/-- CUT: a write of 1 to PLT_TALLY_CFG.CUT. -/
def execCut (s : State) : Host.Outcome State Fault Refusal := .next s.cutBySoftware

/-- PWR_WARN: PWR_WARN_N is treated as asserted; admission and folding stop and the open epoch is cut. -/
def execPwrWarn (s : State) : Host.Outcome State Fault Refusal :=
  .next (if s.live && !s.pins.warn then
    let t : State := { s with pins := { s.pins with warn := true } }
    if s.tally.stop = .no then t.cutNow .warn else t
  else s)

/-- TALLYs abandoned by a warning complete CANCELLED. -/
def State.settleTallies (s : State) : State :=
  ((s.descs.filter (fun d => d.active && d.isOpc .tally && !(s.tally.waiting.any (fun r => decide (r.did = d.did))))).map
    (fun d => d.did)).foldl (fun t did => t.endEarly did .cancelled) s

/-- After a warning's cut: an epoch with WARNREC = 1 opens and its counter slot is written; then admission resumes. -/
def State.warnReturn (s : State) : State :=
  let s1 := s.finishCommit
  let s2 :=
    if s1.tally.slotDone then
      (s1.openEpoch s.tick (s1.tally.seq + 1) (s1.mram.chain s1.tally.seq) false false false true 0).putSlot
        (s1.tally.seq + 1) (s1.stile.step.toNat + 2 ^ 20) s1.tally.mount.toNat
    else s1
  ({ s2 with tally := { s2.tally with stop := .no } } : State).settleTallies

/-- PWR_WARN_RETURN: PWR_WARN_N is high again without a reset. -/
def execPwrWarnReturn (s : State) : Host.Outcome State Fault Refusal :=
  .next (if s.live && s.pins.warn then
    let t : State := { s with pins := { s.pins with warn := false } }
    if s.tally.stop = .warn then t.warnReturn else t
  else s)

/-! ### Exports (R323, R324) -/

/-- A write of 1 to GO with the command and address registers as they stand. -/
def State.startExport (s : State) : State :=
  let c := s.cfg.expCmd.toNat
  let x : Export := { addr := s.cfg.expAddr.toNat, first := fld c 0 18, region := bit c 18, count := fld c 20 12 + 1 }
  if s.tally.export_.isSome || (x.region && decide (sealSlots < x.first + x.count)) then s.note 0x040A 0
  else { s with tally := { s.tally with export_ := some x } }

/-- EXPORT_GO: a write of the upper word of PLT_TALLY_EXP_CMD. -/
def execExportGo (hi : BitVec 32) (s : State) : Host.Outcome State Fault Refusal :=
  .next (if s.live && bit hi.toNat 0 then s.startExport else s)

/-- Whether an export must wait for a slot under commit. -/
def State.exportWaits (s : State) (x : Export) : Bool :=
  !x.region && s.tally.commit.any (fun c => (List.range x.count).any (fun j => decide (x.slotAt j = epochSlot c.seq)))

/-- EXPORT_DONE: the last frame's writes are answered. -/
def execExportDone (s : State) : Host.Outcome State Fault Refusal :=
  .next (match s.tally.export_ with
    | none => s
    | some x =>
      if s.live && !s.exportWaits x then
        let t := s.putFrames x x.count
        ({ t with tally := { t.tally with export_ := none } } : State).note 0x040B (place x.first 0 18 + place (x.count - 1) 18 12)
      else s)

end Sys2Proof.Machine
end

