-- ==== Sys2Proof/Machine/Registers.lean ====
section
/-!
DEFINITION. The register window (14_registers.md R345 to R368): what a write of each register's words does, and what a read
returns.
-/
namespace Sys2Proof.Machine

/-! ### Words of registers (R346) -/

/-- A 64-bit register after a write of one of its words, of which the bits of `mask` can be written. -/
def putWord (old : BitVec 64) (hi : Bool) (w : BitVec 32) (mask : Nat) : BitVec 64 :=
  let v := w.toNat &&& mask
  BitVec.ofNat 64 (if hi then old.toNat % 2 ^ 32 + v * 2 ^ 32 else v + old.toNat / 2 ^ 32 * 2 ^ 32)

/-- One word of a number. -/
def regWord (n i : Nat) : BitVec 32 := BitVec.ofNat 32 (n >>> (32 * i))

/-! ### Twin entries (R296, Table 11-8) -/

/-- A twin entry after an effective write. The pair stays as it is only where its configuration stays and it is active or
about to be; else it is to be read afresh. -/
def Twin.write (t : Twin) (w : BitVec 32) : Twin :=
  let p := w.setWidth 6
  let h := (w >>> 8).setWidth 6
  let e := bit w.toNat 16
  let same := decide (t.pri = p ∧ t.shd = h ∧ t.en = e) && (t.active || t.prep)
  { pri := p, shd := h, en := e, active := same && t.active, fault := t.fault && !bit w.toNat 18, taken := same && t.taken,
    prep := same && t.prep }

/-- A write of PLT_TWINk. -/
def State.writeTwin (s : State) (k : Nat) (w : BitVec 32) : State :=
  if s.cfg.enable && !s.pause.paused then s.note 0x0404 k
  else
    match s.twins[k]? with
    | none => s
    | some t => { s with twins := setNth s.twins k (t.write w) }

/-- TWIN_CFG_WRITE: a write of PLT_TWINk. -/
def execTwinCfgWrite (k : BitVec 3) (word : BitVec 32) (s : State) : Host.Outcome State Fault Refusal :=
  .next (if s.up then s.writeTwin k.toNat word else s)

/-! ### Control registers -/

/-- A write of PLT_NUDGE (Table 08-5). -/
def State.writeNudge (s : State) (w : BitVec 32) : State :=
  let n := fld w.toNat 0 12
  if !bit w.toNat 16 && !bit w.toNat 17 then s.nudgePen n
  else
    let s1 := if bit w.toNat 16 then s.reload n else s
    if bit w.toNat 17 then s1.crload (n % 256) else s1

/-- A write of PLT_PERIOD (R359): it applies from the boundary after the next one. -/
def State.writePeriod (s : State) (w : BitVec 32) : State :=
  let v : BitVec 32 := if w.toNat < 0x10000 then 0x10000 else w
  let late := s.period.pending.filter (fun x => x.2 ≠ 2) ++ [(v.toNat, 2)]
  { s with cfg := { s.cfg with period := v },
           period := { s.period with pending := if s.cfg.enable then late else s.period.pending } }

/-- A write of PLT_THERM (Table 14-16): FORCE_CAP is written, L3 clears where a one is written. -/
def State.writeTherm (s : State) (w : BitVec 32) : State :=
  { s with cfg := { s.cfg with forceCap := bit w.toNat 3 }, therm := { s.therm with l3 := s.therm.l3 && !bit w.toNat 4 } }

/-- A write of PLT_TALLY_CFG (Table 12-2). -/
def State.writeTally (s : State) (w : BitVec 32) : State :=
  let t := s.setEpochS (w.setWidth 10)
  if bit w.toNat 16 then t.cutBySoftware else t

/-- A write of one word of PLT_PORT_TMO (R364). -/
def Cfg.writeTmo (c : Cfg) (i : Nat) (w : BitVec 32) : Cfg :=
  let port := fun (n : Nat) => BitVec.ofNat 12 (Nat.max 16 n)
  if i = 0 then { c with snTmo := BitVec.ofNat 16 (Nat.max 256 (fld w.toNat 0 16)), neTmo := port (fld w.toNat 16 12) }
  else if i = 1 then { c with nrTmo := port (fld w.toNat 0 12) }
  else if i = 2 then { c with xlatWait := w }
  else c

/-- Registers that are read when ENABLE rises, and ignore writes from then on (R348). -/
def Cfg.writeSetup (c : Cfg) (off : Nat) (w : BitVec 32) : Cfg :=
  if off = 0x200 then { c with pentab := putWord c.pentab false w 0xFFFFF000 }
  else if off = 0x204 then { c with pentab := putWord c.pentab true w 0xFFFF }
  else if off = 0x208 then { c with doorbell := putWord c.doorbell false w 0xFFFFF000 }
  else if off = 0x20C then { c with doorbell := putWord c.doorbell true w 0xFFFF }
  else if off = 0x210 then { c with cplring := putWord c.cplring false w 0xFFFFF000 }
  else if off = 0x214 then { c with cplring := putWord c.cplring true w 0xFFFF }
  else if off = 0x218 then { c with evtBase := putWord c.evtBase false w 0xFFFFFFFF }
  else if off = 0x21C then { c with evtBase := putWord c.evtBase true w 0x3FFFF }
  else if off = 0x228 then { c with runlogBase := putWord c.runlogBase false w 0xFFFFFFDF }
  else if off = 0x22C then { c with runlogBase := putWord c.runlogBase true w 0xFFFF }
  else if off = 0x238 then { c with radmapBase := putWord c.radmapBase false w 0xFFFFFFFF }
  else if off = 0x23C then { c with radmapBase := putWord c.radmapBase true w 0xFFFF }
  else if off = 0x248 then { c with smmuSid := w.setWidth 16 }
  else if off = 0x250 then { c with rshare := BitVec.ofNat 11 (Nat.min 1024 (fld w.toNat 0 11)) }
  else c

/-- Registers whose writes only store a value. -/
def Cfg.writePlain (c : Cfg) (off : Nat) (w : BitVec 32) : Cfg :=
  if off = 0x110 then { c with ctxBase := putWord c.ctxBase false w 0xFFFFFFC0 }
  else if off = 0x114 then { c with ctxBase := putWord c.ctxBase true w 0xFFFF }
  else if off = 0x224 then { c with evtCons := w }
  else if off = 0x234 then { c with runlogCons := w }
  else if off = 0x244 then { c with radmapCons := w }
  else if off = 0x308 then { c with bellEn := bit w.toNat 0 }
  else if 0x510 ≤ off ∧ off < 0x52C then { c with dl := setNth c.dl ((off - 0x510) / 4) w }
  else if 0x530 ≤ off ∧ off < 0x540 then c.writeTmo ((off - 0x530) / 4) w
  else if 0x600 ≤ off ∧ off < 0x640 then
    let v := (off - 0x600) / 16
    let i := (off - 0x600) % 16 / 4
    if i = 0 then { c with msgAddr := setNth c.msgAddr v (putWord (c.msgAddr.getD v 0) false w 0xFFFFFFFC) }
    else if i = 1 then { c with msgAddr := setNth c.msgAddr v (putWord (c.msgAddr.getD v 0) true w 0xFFFF) }
    else if i = 2 then { c with msgData := setNth c.msgData v w }
    else c
  else if off = 0xD10 then { c with expAddr := putWord c.expAddr false w 0xFFFFFFC0 }
  else if off = 0xD14 then { c with expAddr := putWord c.expAddr true w 0xFFFF }
  else if off = 0xD18 then { c with expCmd := w &&& 0xFFF7FFFF }
  else c

/-- Offsets of the registers of `Cfg.writeSetup`. -/
def setupOffset (off : Nat) : Bool := decide (0x200 ≤ off ∧ off < 0x260) && !([0x224, 0x234, 0x244].contains off)

/-- A write of one whole word at an aligned offset. -/
def State.writeReg (s : State) (off : Nat) (w : BitVec 32) : State :=
  if off = 0x20 then s.writeCfg (bit w.toNat 0) (bit w.toNat 1) (bit w.toNat 2)
  else if off = 0x100 then s.writeNudge w
  else if off = 0x104 then (if s.live then s.xresume (fld w.toNat 0 6) (bit w.toNat 8) [] else s)
  else if off = 0x108 then s.writePause (bit w.toNat 0)
  else if off = 0x300 then s.writePeriod w
  else if off = 0x400 then s.writeTherm w
  else if off = 0x640 then s.setMask (w.setWidth 4)
  else if 0x800 ≤ off ∧ off < 0xA00 then s.nudgeMap ((off - 0x800) / 4) w.toNat
  else if 0xC00 ≤ off ∧ off < 0xC20 then s.writeTwin ((off - 0xC00) / 4) w
  else if off = 0xD00 then s.writeTally w
  else if off = 0xD1C then (if s.live && bit w.toNat 0 then s.startExport else s)
  else if setupOffset off then (if s.cfg.enable then s else { s with cfg := s.cfg.writeSetup off w })
  else { s with cfg := s.cfg.writePlain off w }

/-- REGISTER_WRITE: a write at the register port. One with a byte strobe missing, or that is not aligned, is ignored, and so
is every write in reset (R345). -/
def execRegisterWrite (offset : BitVec 12) (word : BitVec 32) (strobes : BitVec 4) (s : State) :
    Host.Outcome State Fault Refusal :=
  .next (if s.up && decide (strobes = 15) && decide (offset.toNat % 4 = 0) then s.writeReg offset.toNat word else s)

/-! ### Reads (R9, R10, R345) -/

/-- PLT_FOLD_MAP's entry of a logical fold (Table 14-9). -/
def State.mapEntry (s : State) (f : Nat) : Nat :=
  let absent := s.fmap.absent.contains f
  let p := if f < s.n ∧ !absent then (s.phys f).getD 0 else 0
  place p 0 7 + place (s.standIn f) 8 6 + place (b2n absent) 14 1 + place (b2n (decide (f < s.n))) 15 1

/-- Code of a physical fold's state (Table 14-10). -/
def PhysState.code : PhysState → Nat
  | .backs => 0 | .spare => 1 | .retired => 2 | .fusedOff => 3

/-- STATE of PLT_TALLY_STAT (Table 12-11). -/
def TallyState.code : TallyState → Nat
  | .unmounted => 0 | .verifying => 1 | .mounted => 2 | .cut => 3 | .failed => 4

/-- PLT_ID (Table 14-3). FW is the build of the image, once it runs. -/
def State.idReg (s : State) : Nat :=
  0x47D1 + place 0x9017 16 16 + place 1 32 8 + place 1 40 8 + place (if s.ready.shepherd then s.boot.build.toNat else 0) 48 16

/-- PLT_READY (Table 14-4). -/
def State.readyReg (s : State) : Nat :=
  let r := s.ready
  r.fold.toNat + place (b2n r.stile) 64 1 + place (b2n r.plan) 65 1 + place (b2n r.tally) 66 1 + place (b2n r.shepherd) 67 1 +
    place r.sn.toNat 68 8 + place r.ne.toNat 76 4 + place r.nr.toNat 80 2

/-- PLT_GRADE (Table 14-8). -/
def State.gradeReg (s : State) : Nat :=
  place s.fuses.grade.code 0 8 + place s.n 8 7 + place s.spares.length 16 3 + place 68 24 7

/-- PLT_PHYS_STATE, its 160 bits. -/
def State.physReg (s : State) : Nat := sumN ((List.range 68).map (fun p => place (s.pstate p).code (2 * p) 2))

/-- PLT_BELL_CFG (Table 11-7). -/
def State.bellReg (s : State) : Nat :=
  place (b2n s.cfg.bellEn) 0 1 + place (b2n s.period.locked) 1 1 + place (b2n s.period.freeRun) 2 1 +
    place (b2n s.pins.gateArm) 3 1 + place s.period.misses 8 8 + place s.period.ignored 16 16

/-- PLT_THERM (Table 14-16). The cap applies at levels 2 and 3, and with FORCE_CAP at every level. -/
def State.thermReg (s : State) : Nat :=
  let l := s.therm.lvl.toNat
  place l 0 2 + place (b2n (s.cfg.forceCap || decide (2 ≤ (s.therm.applied s.tick).toNat))) 2 1 +
    place (b2n s.cfg.forceCap) 3 1 + place (b2n s.therm.l3) 4 1 + place s.therm.l3count.toNat 16 16

/-- PLT_PORT_TMO (Table 14-19). -/
def State.tmoReg (s : State) : Nat :=
  place s.cfg.snTmo.toNat 0 16 + place s.cfg.neTmo.toNat 16 12 + place s.cfg.nrTmo.toNat 32 12 + place s.cfg.xlatWait.toNat 64 32

/-- PLT_TWINk (Table 11-8). -/
def Twin.reg (t : Twin) : Nat :=
  place t.pri.toNat 0 6 + place t.shd.toNat 8 6 + place (b2n t.en) 16 1 + place (b2n t.active) 17 1 + place (b2n t.fault) 18 1

/-- PLT_TALLY_STAT (Table 12-11). -/
def State.tallyReg (s : State) : Nat :=
  let t := s.tally
  place t.st.code 0 3 + place (b2n t.brk) 3 1 + place (b2n t.sealFull) 4 1 + place (b2n t.lost) 5 1 +
    place (b2n t.export_.isSome) 6 1 + place ((t.waiting.filter (fun r => !r.folded)).length) 8 13 + place t.seq 32 32

/-- The register that holds a word, as a number of any width, with the offset of its first word; `none` where Table 14-1
assigns none. -/
def State.regAt (s : State) (off : Nat) : Option (Nat × Nat) :=
  if off < 0x8 then some (s.idReg, 0)
  else if 0x10 ≤ off ∧ off < 0x20 then some (s.readyReg, 0x10)
  else if off = 0x20 then some (place (b2n s.cfg.enable) 0 1 + place (b2n s.cfg.remap) 1 1 + place (b2n s.cfg.nudgeEn) 2 1, 0x20)
  else if off = 0x24 then
    some (place s.fatalReg.cause.toNat 0 8 + place s.fatalReg.phys.toNat 8 7 + place (b2n s.fatalReg.valid) 15 1, 0x24)
  else if off = 0x30 then some (s.gradeReg, 0x30)
  else if 0x40 ≤ off ∧ off < 0xC0 then
    let f := (off - 0x40) / 2
    some (s.mapEntry f + place (s.mapEntry (f + 1)) 16 16, off)
  else if 0xC0 ≤ off ∧ off < 0xD4 then some (s.physReg, 0xC0)
  else if off = 0x108 then some (place (b2n s.pause.req) 0 1 + place (b2n s.pause.paused) 1 1 + place (b2n s.pause.busy) 2 1, 0x108)
  else if 0x110 ≤ off ∧ off < 0x118 then some (s.cfg.ctxBase.toNat, 0x110)
  else if 0x200 ≤ off ∧ off < 0x208 then some (s.cfg.pentab.toNat, 0x200)
  else if 0x208 ≤ off ∧ off < 0x210 then some (s.cfg.doorbell.toNat, 0x208)
  else if 0x210 ≤ off ∧ off < 0x218 then some (s.cfg.cplring.toNat, 0x210)
  else if 0x218 ≤ off ∧ off < 0x220 then some (s.cfg.evtBase.toNat, 0x218)
  else if 0x220 ≤ off ∧ off < 0x228 then some (s.evt.w.toNat + place s.cfg.evtCons.toNat 32 32, 0x220)
  else if 0x228 ≤ off ∧ off < 0x230 then some (s.cfg.runlogBase.toNat, 0x228)
  else if 0x230 ≤ off ∧ off < 0x238 then some (s.logs.runW.toNat + place s.cfg.runlogCons.toNat 32 32, 0x230)
  else if 0x238 ≤ off ∧ off < 0x240 then some (s.cfg.radmapBase.toNat, 0x238)
  else if 0x240 ≤ off ∧ off < 0x248 then some (s.logs.radW.toNat + place s.cfg.radmapCons.toNat 32 32, 0x240)
  else if off = 0x248 then some (s.cfg.smmuSid.toNat, 0x248)
  else if off = 0x250 then some (s.cfg.rshare.toNat, 0x250)
  else if off = 0x300 then some (s.cfg.period.toNat, 0x300)
  else if off = 0x308 then some (s.bellReg, 0x308)
  else if 0x310 ≤ off ∧ off < 0x318 then some (s.tick % 2 ^ 64, 0x310)
  else if 0x318 ≤ off ∧ off < 0x320 then some (s.stile.step.toNat, 0x318)
  else if 0x320 ≤ off ∧ off < 0x328 then some (s.period.num.toNat, 0x320)
  else if 0x328 ≤ off ∧ off < 0x330 then some (s.period.tb % 2 ^ 64, 0x328)
  else if off = 0x400 then some (s.thermReg, 0x400)
  else if 0x500 ≤ off ∧ off < 0x508 then
    some (s.cost.rd.toNat + place s.cost.wr.toNat 16 16 + place s.cost.port.toNat 32 16, 0x500)
  else if 0x510 ≤ off ∧ off < 0x52C then some ((s.cfg.dl.getD ((off - 0x510) / 4) 0).toNat, off)
  else if 0x530 ≤ off ∧ off < 0x540 then some (s.tmoReg, 0x530)
  else if 0x600 ≤ off ∧ off < 0x640 then
    let v := (off - 0x600) / 16
    some ((s.cfg.msgAddr.getD v 0).toNat + place (s.cfg.msgData.getD v 0).toNat 64 32, 0x600 + 16 * v)
  else if off = 0x640 then some (s.cfg.intMask.toNat, 0x640)
  else if off = 0x644 then some (s.intPend.toNat, 0x644)
  else if 0xA00 ≤ off ∧ off < 0xC00 then
    let w := (off - 0xA00) / 4
    some (sumN (((List.range 32).filter (fun b => s.nudges.contains (32 * w + b))).map (fun b => 2 ^ b)), off)
  else if 0xC00 ≤ off ∧ off < 0xC20 then some (((s.twins[(off - 0xC00) / 4]?).map Twin.reg).getD 0, off)
  else if off = 0xD00 then some (s.cfg.epochS.toNat, 0xD00)
  else if 0xD08 ≤ off ∧ off < 0xD10 then some (s.tallyReg, 0xD08)
  else if 0xD10 ≤ off ∧ off < 0xD18 then some (s.cfg.expAddr.toNat, 0xD10)
  else if 0xD18 ≤ off ∧ off < 0xD20 then some (s.cfg.expCmd.toNat, 0xD18)
  else if 0xE00 ≤ off ∧ off < 0xE88 then
    let i := (off - 0xE00) / 8
    some ((s.cnt.getD i 0).toNat, 0xE00 + 8 * i)
  else none

/-- What a read at an aligned offset returns; in reset the reset value. Reads have no effect (R10), and no command is one. -/
def State.readReg (s : State) (off : Nat) : BitVec 32 :=
  match (if s.up then s else State.released s.fuses).regAt off with
  | none => 0
  | some x => regWord x.1 ((off - x.2) / 4)

end Sys2Proof.Machine
end

