-- ==== Sys2Proof/Machine/Gating.lean ====
section
/-!
DEFINITION. Gating of fold logic and of port clocks (15_bringup_and_power.md R376, 10_boundary.md R262) and the debug port
(R382).
-/
namespace Sys2Proof.Machine

/-! ### Fold logic (R376) -/

/-- Whether the logical fold of a physical one has work: a descriptor dispatched to it, a prologue read, a ring transfer that
ended less than 256 ticks ago, or a copy in progress. -/
def State.foldBusy (s : State) (p : Nat) : Bool :=
  let reads := s.ports.txns.any (fun t => match t.owner with
    | .drover q _ => decide (q = p)
    | .own _ => false)
  reads || (match s.logical p with
    | none => false
    | some f =>
      s.descs.any (fun d => d.active && d.folds.contains f && s.waitsMet d) ||
      s.xfers.any (fun x => decide (x.src = f ∨ x.dst = f) && x.until_.all (fun u => decide (s.tick < u + 256))) ||
      s.fmap.subst.any (fun x => decide (x.1 = f)) ||
      s.twins.any (fun t => t.prep && decide (t.pri.toNat = f ∨ t.shd.toNat = f)))

/-- FOLD_GATE_OFF: a fold idle for 4,096 FCLK cycles gates its logic domain off. -/
def execFoldGateOff (phys : BitVec 7) (s : State) : Host.Outcome State Fault Refusal :=
  let p := phys.toNat
  if 68 ≤ p then .fault .noSuchPart
  else
    let fo := s.fold p
    .next (if s.live && fo.logicOn && fo.running.isNone && fo.susp.isNone && fo.inPlace.isNone && !s.foldBusy p &&
        decide (fo.lastTick + 256 ≤ s.tick) then s.modFold p (fun x => { x with logicOn := false })
    else s)

/-! ### Port clocks (R262) -/

/-- Whether a port has a transaction in progress. -/
def State.portBusy (s : State) : PortName → Bool
  | .sn k => s.ports.txns.any (fun t => decide (t.port = k.toNat))
  | _ => false

/-- Gate a port's clock. -/
def Ports.gate (p : Ports) : PortName → Ports
  | .sn k => { p with gateSn := p.gateSn ||| BitVec.ofNat 8 (2 ^ k.toNat) }
  | .ne k => { p with gateNe := p.gateNe ||| BitVec.ofNat 4 (2 ^ k.toNat) }
  | .nr k => { p with gateNr := p.gateNr ||| BitVec.ofNat 2 (2 ^ k.toNat) }

/-- PORT_CLOCK_GATE: a port with no transaction for 32 FCLK cycles gates its clock. -/
def execPortClockGate (port : PortName) (s : State) : Host.Outcome State Fault Refusal :=
  .next (if s.up && !s.portBusy port && decide (sget 0 s.ports.last (PortName.num port) + 2 ≤ s.tick) then
    { s with ports := s.ports.gate port }
  else s)

/-! ### The debug port (R382, Tables 15-6 to 15-8) -/

/-- The 128 bits of a route cache entry (Table 03-8). -/
def RouteEntry.bits (e : RouteEntry) : Nat :=
  e.key.toNat + place e.body.toNat 64 26 + place e.rm1.toNat 90 6 + place e.ew.toNat 96 2 + place e.n.toNat 98 13 +
    place (b2n e.valid) 127 1

/-- Fold status word, MOVING and COMPUTING aside (Table 15-8). -/
def State.statusWord (s : State) (p : Nat) : Nat :=
  let fo := s.fold p
  place (s.pstate p).code 0 2 + place (b2n fo.logicOn) 2 1 + place (b2n fo.srow.susp) 5 1 +
    (if s.pstate p = .backs then place ((s.logical p).getD 0) 8 6 else 0)

/-- The word that an open debug port returns. What a fold did in the last FCLK cycle of the RCLK cycle sampled is free while
its logic is on: it moved data, computed, or did neither, and never both (R16). -/
def State.debugWord (s : State) (a : Nat) : Nat × State :=
  let word := fld a 2 4
  let entry := fld a 13 8
  let p := fld a 21 7
  let space := fld a 28 4
  if fld a 0 2 ≠ 0 ∨ fld a 6 7 ≠ 0 then (0, s)
  else if space = 0 then (if word = 0 ∧ entry = 0 ∧ p = 0 then b2n s.boot.debugOpen else 0, s)
  else if 68 ≤ p ∨ ¬(s.pstate p = .backs ∨ s.pstate p = .spare) then (0, s)
  else if space = 1 then
    (if word < 4 then fld (sget RouteEntry.blank (s.fold p).route entry).bits (32 * word) 32 else 0, s)
  else if space = 2 ∧ entry = 0 then (fld (s.fold p).srowBits (32 * word) 32, s)
  else if space = 3 ∧ entry = 0 ∧ word = 0 then
    (if (s.fold p).logicOn then
      let c := s.choose 3
      (s.statusWord p + place c.1 3 2, c.2)
    else (s.statusWord p, s))
  else (0, s)

/-- DEBUG_READ: a read at the debug port; locked, it returns zero. -/
def execDebugRead (addr : BitVec 32) (s : State) : Host.Outcome State Fault Refusal :=
  .next (if s.boot.debugOpen then
    let x := s.debugWord addr.toNat
    { x.2 with debugOut := BitVec.ofNat 32 x.1 }
  else { s with debugOut := 0 })

end Sys2Proof.Machine
end

