-- ==== Sys2Proof/Machine/Dispatch.lean ====
section
/-!
DEFINITION. The meaning of each command: one arm for each row of the table, each one direct call. `exec` leaves the queue
of waiting commands to `step`.
-/
namespace Sys2Proof.Machine

/-- The effect of a command on everything but the queue. -/
def exec (i : Instr) (s : State) : Host.Outcome State Fault Refusal :=
  match i with
  | .blockReset => Sys2Proof.Machine.execBlockReset s
  | .resetRelease => Sys2Proof.Machine.execResetRelease s
  | .pastureClearDone => Sys2Proof.Machine.execPastureClearDone s
  | .planStoreClearDone => Sys2Proof.Machine.execPlanStoreClearDone s
  | .portReady port => Sys2Proof.Machine.execPortReady port s
  | .rootOfTrustSuccess build image => Sys2Proof.Machine.execRootOfTrustSuccess build image s
  | .rootOfTrustFailure => Sys2Proof.Machine.execRootOfTrustFailure s
  | .shepherdRunning => Sys2Proof.Machine.execShepherdRunning s
  | .earlyMount key => Sys2Proof.Machine.execEarlyMount key s
  | .ledgerKeyTimeout => Sys2Proof.Machine.execLedgerKeyTimeout s
  | .lateMountDone => Sys2Proof.Machine.execLateMountDone s
  | .calibrationDone rd wr port => Sys2Proof.Machine.execCalibrationDone rd wr port s
  | .firstPatrolWave wave failing => Sys2Proof.Machine.execFirstPatrolWave wave failing s
  | .enable nudgeEn => Sys2Proof.Machine.execEnable nudgeEn s
  | .twinPrepared k => Sys2Proof.Machine.execTwinPrepared k s
  | .remap => Sys2Proof.Machine.execRemap s
  | .nudgeEnChange on => Sys2Proof.Machine.execNudgeEnChange on s
  | .nudge pen => Sys2Proof.Machine.execNudge pen s
  | .reload pen entry => Sys2Proof.Machine.execReload pen entry s
  | .crload ring entry => Sys2Proof.Machine.execCrload ring entry s
  | .nudgeMapWrite w bits => Sys2Proof.Machine.execNudgeMapWrite w bits s
  | .doorbellSweep => Sys2Proof.Machine.execDoorbellSweep s
  | .doorbellWord pen word => Sys2Proof.Machine.execDoorbellWord pen word s
  | .fetchTurn => Sys2Proof.Machine.execFetchTurn s
  | .descriptorBurst pen cells => Sys2Proof.Machine.execDescriptorBurst pen cells s
  | .admission => Sys2Proof.Machine.execAdmission s
  | .heldAdmission => Sys2Proof.Machine.execHeldAdmission s
  | .stepRefresh => Sys2Proof.Machine.execStepRefresh s
  | .stepRefreshDone => Sys2Proof.Machine.execStepRefreshDone s
  | .periodBoundary cost planUpsets => Sys2Proof.Machine.execPeriodBoundary cost planUpsets s
  | .bell => Sys2Proof.Machine.execBell s
  | .gateBell => Sys2Proof.Machine.execGateBell s
  | .gateRelease => Sys2Proof.Machine.execGateRelease s
  | .pwrWarn => Sys2Proof.Machine.execPwrWarn s
  | .pwrWarnReturn => Sys2Proof.Machine.execPwrWarnReturn s
  | .thermLvlChange lvl => Sys2Proof.Machine.execThermLvlChange lvl s
  | .copy d => Sys2Proof.Machine.execCopy d s
  | .transpose d => Sys2Proof.Machine.execTranspose d s
  | .permute d => Sys2Proof.Machine.execPermute d s
  | .shuffle d => Sys2Proof.Machine.execShuffle d s
  | .gather d => Sys2Proof.Machine.execGather d s
  | .scatter d => Sys2Proof.Machine.execScatter d s
  | .convert d => Sys2Proof.Machine.execConvert d s
  | .pack d => Sys2Proof.Machine.execPack d s
  | .unpack d => Sys2Proof.Machine.execUnpack d s
  | .tprod d => Sys2Proof.Machine.execTprod d s
  | .cbload d => Sys2Proof.Machine.execCbload d s
  | .requant d => Sys2Proof.Machine.execRequant d s
  | .deliver d stall => Sys2Proof.Machine.execDeliver d stall s
  | .collect d stall => Sys2Proof.Machine.execCollect d stall s
  | .nrBeat port ofs data last poison => Sys2Proof.Machine.execNrBeat port ofs data last poison s
  | .portStallTimeout d stop => Sys2Proof.Machine.execPortStallTimeout d stop s
  | .vload d => Sys2Proof.Machine.execVload d s
  | .vstore d => Sys2Proof.Machine.execVstore d s
  | .vmove d => Sys2Proof.Machine.execVmove d s
  | .release d => Sys2Proof.Machine.execRelease d s
  | .route d => Sys2Proof.Machine.execRoute d s
  | .fence d => Sys2Proof.Machine.execFence d s
  | .nop d => Sys2Proof.Machine.execNop d s
  | .gateArm d => Sys2Proof.Machine.execGateArm d s
  | .gateHold d => Sys2Proof.Machine.execGateHold d s
  | .digest d => Sys2Proof.Machine.execDigest d s
  | .tally d => Sys2Proof.Machine.execTally d s
  | .runLogWrite => Sys2Proof.Machine.execRunLogWrite s
  | .leafFold => Sys2Proof.Machine.execLeafFold s
  | .cancel d pts => Sys2Proof.Machine.execCancel d pts s
  | .planload d fault => Sys2Proof.Machine.execPlanload d fault s
  | .seedset d => Sys2Proof.Machine.execSeedset d s
  | .preemptionSuspend d fold units => Sys2Proof.Machine.execPreemptionSuspend d fold units s
  | .suspendedResume fold => Sys2Proof.Machine.execSuspendedResume fold s
  | .crookGrant d fold line write => Sys2Proof.Machine.execCrookGrant d fold line write s
  | .ringTransferStart d index => Sys2Proof.Machine.execRingTransferStart d index s
  | .snReadResponse port id data poison => Sys2Proof.Machine.execSnReadResponse port id data poison s
  | .snWriteResponse port id => Sys2Proof.Machine.execSnWriteResponse port id s
  | .snRetry port id => Sys2Proof.Machine.execSnRetry port id s
  | .retryReissue port id => Sys2Proof.Machine.execRetryReissue port id s
  | .xstall port id units row => Sys2Proof.Machine.execXstall port id units row s
  | .xdeny port id pts => Sys2Proof.Machine.execXdeny port id pts s
  | .derr port rs => Sys2Proof.Machine.execDerr port rs s
  | .snUnexpected port id write => Sys2Proof.Machine.execSnUnexpected port id write s
  | .snTimeout port id pts => Sys2Proof.Machine.execSnTimeout port id pts s
  | .xresumeRetry fold => Sys2Proof.Machine.execXresumeRetry fold s
  | .xresumeAbort fold pts => Sys2Proof.Machine.execXresumeAbort fold pts s
  | .xlatWaitExpiry fold pts => Sys2Proof.Machine.execXlatWaitExpiry fold pts s
  | .completionRecord d => Sys2Proof.Machine.execCompletionRecord d s
  | .consumerReread ring cons fault => Sys2Proof.Machine.execConsumerReread ring cons fault s
  | .interruptMessage => Sys2Proof.Machine.execInterruptMessage s
  | .intMaskWrite mask => Sys2Proof.Machine.execIntMaskWrite mask s
  | .eventRecord => Sys2Proof.Machine.execEventRecord s
  | .ownAccessRetry which fault => Sys2Proof.Machine.execOwnAccessRetry which fault s
  | .scrubSlot phys upsets => Sys2Proof.Machine.execScrubSlot phys upsets s
  | .scrubReread phys word => Sys2Proof.Machine.execScrubReread phys word s
  | .mramScrub sealArray word corrected bad => Sys2Proof.Machine.execMramScrub sealArray word corrected bad s
  | .patrolSlice phys slice failed => Sys2Proof.Machine.execPatrolSlice phys slice failed s
  | .datapathCheck d fold found units pts => Sys2Proof.Machine.execDatapathCheck d fold found units pts s
  | .twinDiverge k d units pts => Sys2Proof.Machine.execTwinDiverge k d units pts s
  | .foldRetire phys pts => Sys2Proof.Machine.execFoldRetire phys pts s
  | .spareIn logical lost => Sys2Proof.Machine.execSpareIn logical lost s
  | .fatal cause phys pts mramSound snSound => Sys2Proof.Machine.execFatal cause phys pts mramSound snSound s
  | .watchdogTimeout pts mramSound snSound => Sys2Proof.Machine.execWatchdogTimeout pts mramSound snSound s
  | .epochClose => Sys2Proof.Machine.execEpochClose s
  | .epochCommitDone => Sys2Proof.Machine.execEpochCommitDone s
  | .sealCommit => Sys2Proof.Machine.execSealCommit s
  | .cut => Sys2Proof.Machine.execCut s
  | .epochSWrite v => Sys2Proof.Machine.execEpochSWrite v s
  | .exportGo hi => Sys2Proof.Machine.execExportGo hi s
  | .exportDone => Sys2Proof.Machine.execExportDone s
  | .pause => Sys2Proof.Machine.execPause s
  | .pauseComplete pts => Sys2Proof.Machine.execPauseComplete pts s
  | .resume => Sys2Proof.Machine.execResume s
  | .twinCfgWrite k word => Sys2Proof.Machine.execTwinCfgWrite k word s
  | .registerWrite offset word strobes => Sys2Proof.Machine.execRegisterWrite offset word strobes s
  | .foldGateOff phys => Sys2Proof.Machine.execFoldGateOff phys s
  | .portClockGate port => Sys2Proof.Machine.execPortClockGate port s
  | .qosAging port id => Sys2Proof.Machine.execQosAging port id s
  | .debugRead addr => Sys2Proof.Machine.execDebugRead addr s
  | .testModeEntry => Sys2Proof.Machine.execTestModeEntry s
  | .shepherdSramClearDone => Sys2Proof.Machine.execShepherdSramClearDone s
  | .debugPortOpen => Sys2Proof.Machine.execDebugPortOpen s

end Sys2Proof.Machine
end

