-- ==== Sys2Proof/Safety.lean ====
section
/-!
DEFINITION. What every state that the block can be in satisfies, in the terms that the statements use: the memories and tables
keep their one canonical form, the registers keep the ranges that their field maps give them, and the cost table stays at or
above its reset values.
-/
namespace Sys2Proof

/-- Numbers of the physical folds that a command names for the Shepherd to act on. -/
def Instr.partsNamed : Instr → List Nat
  | .scrubSlot p _ => [p.toNat]
  | .scrubReread p _ => [p.toNat]
  | .patrolSlice p _ _ => [p.toNat]
  | .foldRetire p _ => [p.toNat]
  | .foldGateOff p => [p.toNat]
  | _ => []

/-- Numbers of the patrol waves that a command names. -/
def Instr.waves : Instr → List Nat
  | .firstPatrolWave w _ => [w.toNat]
  | _ => []

end Sys2Proof

namespace Sys2Proof.Machine

/-- Every memory is in its canonical form: host memory with its poison, pasture with its raddle bits and its words in error,
the Shepherd SRAM, and the two arrays of the MRAM. -/
def State.memoriesWf (s : State) : Bool :=
  swf 0 s.host && swf false s.poison && swf 0 s.past && swf false s.raddle && swf .none s.ecc && swf 0 s.sram &&
    swf 0 s.mram.ring && swf 0 s.mram.seals

/-- The ranges and reserved bits of the registers that software writes: PLT_PERIOD at least 0x10000 (R359), SN_TMO at least
256, NE_TMO and NR_TMO at least 16 (R364), PLT_RSHARE at most 1,024 (R357), EPOCH_S from 10 to 600 (R302), and the base
addresses' reserved bits zero (Tables 11-6, 12-13 and 14-12). -/
def Cfg.inRange (c : Cfg) : Bool :=
  decide (0x10000 ≤ c.period.toNat) && decide (256 ≤ c.snTmo.toNat) && decide (16 ≤ c.neTmo.toNat) &&
    decide (16 ≤ c.nrTmo.toNat) && decide (c.rshare.toNat ≤ 1024) && decide (10 ≤ c.epochS.toNat ∧ c.epochS.toNat ≤ 600) &&
    [c.pentab, c.doorbell, c.cplring].all (fun a => decide (a.toNat % 4096 = 0 ∧ a.toNat < 2 ^ 48)) &&
    [c.ctxBase, c.expAddr].all (fun a => decide (a.toNat % 64 = 0 ∧ a.toNat < 2 ^ 48))

/-- No entry of the cost table lies below its reset value (R221). -/
def Cost.inRange (c : Cost) : Bool := decide (0x30 ≤ c.rd.toNat ∧ 0x20 ≤ c.wr.toNat ∧ 0x8 ≤ c.port.toNat)

/-- The register files keep their numbers of entries: seven PLT_DL, four message vectors, eight PLT_TWIN, 17 counters. -/
def State.shaped (s : State) : Bool :=
  decide (s.cfg.dl.length = 7 ∧ s.cfg.msgAddr.length = 4 ∧ s.cfg.msgData.length = 4 ∧ s.twins.length = 8 ∧
    s.cnt.length = 17 ∧ s.fmap.phys.length = 64 ∧ s.fmap.state.length = 68)

/-- The set-up registers that Polter reads when ENABLE rises and that ignore writes while it is 1 (Table 14-2). -/
def Cfg.setup (c : Cfg) : List (BitVec 64) :=
  [c.pentab, c.doorbell, c.cplring, c.evtBase, c.runlogBase, c.radmapBase, c.smmuSid.setWidth 64, c.rshare.setWidth 64]

/-- The invariant of the block. -/
def State.Inv (s : State) : Bool := s.memoriesWf && s.cfg.inRange && s.cost.inRange && s.shaped

/-! ### Frames: what the statements say is left as it was -/

/-- `t` is `s` but for event records that wait, the counters, and the FAULTS counters of the open epoch. -/
def State.onlyEvents (s t : State) : Prop :=
  t = { s with evt := t.evt, cnt := t.cnt, tally := { s.tally with epoch := t.tally.epoch } } ∧
    t.tally.epoch.isSome = s.tally.epoch.isSome

/-- Where the internal queue has room in `s`, an event record of a code with its INFO waits in `t`, with the tick of `s`. -/
def State.logged (s t : State) (code info : Nat) : Prop :=
  s.evtUsed < s.evtFree + 64 →
    ∃ r ∈ t.evt.queue, r.code = BitVec.ofNat 16 code ∧ r.info = BitVec.ofNat 64 info ∧ r.tick = s.tick

/-- `t` is `s` after the admission of descriptor `d` at price `x`: what the descriptor is given, what its pen is charged, and
what else may differ. -/
def State.tookIn (s t : State) (d : Desc) (x : Priced) : Prop :=
  (∃ e, t.desc? d.did = some e ∧ e.cells = d.cells ∧ e.stage = .admitted ∧ e.admitted = true ∧ e.begun = d.begun ∧
    e.step = (s.stile.step + 1).toNat ∧ e.tAdmit = s.tick ∧ e.bound = x.bound ∧ e.start = x.start ∧ e.xbytes = 64 * x.lines ∧
    e.seed = (s.pen d.pen).seed ∧ e.period = s.period.num.toNat ∧
    (∀ i, i ∈ e.waitOn ↔ ∃ r ∈ s.descs, r.did = i ∧ r.admitted = true ∧ ∃ w ∈ d.p.waits, w ∈ r.p.releases)) ∧
  (∀ i, i ≠ d.did → t.desc? i = s.desc? i) ∧ t.stile = { s.stile with step := s.stile.step + 1 } ∧
  (t.pen d.pen).ft = (s.pen d.pen).ft + x.ft ∧ (t.pen d.pen).xl = (s.pen d.pen).xl + x.lines ∧
  (∀ p, p ≠ d.pen → (t.pen p).ft = (s.pen p).ft ∧ (t.pen p).xl = (s.pen p).xl) ∧
  t.cnt = setNth s.cnt 0 (s.cnt.getD 0 0 + 1) ∧
  t = { s with stile := t.stile, xfers := t.xfers, pens := t.pens, hor := t.hor, descs := t.descs, cnt := t.cnt,
               folds := t.folds, pins := { s.pins with gateArm := t.pins.gateArm } }

/-- The operands of a descriptor whose lines its drovers ask for: those of a DELIVER and of a COLLECT but the port's own. -/
def Desc.lineOperands (d : Desc) : List Grat :=
  (if d.isOpc .deliver then [d.p.src0] else if d.isOpc .collect then [d.p.dst]
   else [d.p.src0, d.p.src1, d.p.idx, d.p.dst]).filterMap id

/-- Nothing holds a started descriptor up: it needs no host line and no ring transfer, every fold of its share runs it, no line
of it is on its way or to be written again, no twin pair compares, the check pass of STRICT meets no index out of range and a
CBLOAD no malformed scale element. -/
def State.unhindered (s : State) (d : Desc) : Prop :=
  d.active = true ∧ d.begun = true ∧ d.lineOperands.all (fun g => g.space) = true ∧ d.stalled = [] ∧
    (d.work.map Prod.fst).Nodup ∧ (∀ x ∈ d.work, s.works d x.1 = true ∧ ∀ u, s.legsFor d x.1 u = []) ∧
    (∀ t ∈ s.ports.txns, ∀ p, t.owner ≠ .drover p d.did) ∧ (∀ w ∈ s.twins, w.active = false) ∧
    (d.checking = true → s.strictHit d = false) ∧ s.cbStop d = false

/-- Where an opcode leaves a descriptor: still admitted with work to do, or ended at this tick, by its own finish or by a check that
it meets on its way. -/
def State.ranTo (s : State) (o : Opc) (e : Desc) : Prop :=
  (e.active = true ∧ (e.begun && e.allDone) = false) ∨
    (e.stage = .ended ∧ e.tDone = s.tick ∧
      ((e.allDone = true ∧ e.status = endStatus (e.raddles + b2n e.marked) e.noted ∧
          e.digest = (if o.noDigest then 0 else e.pd)) ∨
       (e.digest = 0 ∧ e.status ∈ [Status.refusedRange, .refusedEncoding, .refusedShape, .twinMismatch])))

/-- The opcodes that run on folds and use no port, with their commands. -/
def foldOpcodes : List (Opc × (Nat → Instr)) :=
  [(.copy, .copy), (.transpose, .transpose), (.permute, .permute), (.shuffle, .shuffle), (.gather, .gather), (.scatter, .scatter),
   (.convert, .convert), (.pack, .pack), (.unpack, .unpack), (.tprod, .tprod), (.cbload, .cbload), (.requant, .requant),
   (.vload, .vload), (.vstore, .vstore), (.vmove, .vmove), (.release, .release), (.route, .route), (.digest, .digest)]

/-- What a twin pair's own status bits leave: its folds, its enable, whether the entry is in use. -/
def Twin.named (t : Twin) : BitVec 6 × BitVec 6 × Bool × Bool := (t.pri, t.shd, t.en, t.taken)

/-- What the execution of a descriptor never writes: everything but folds, descriptors, host memory, pasture and its error
state, events with their counters, GATE_ARM_OUT, what leaves on an SN or NE port with the port clocks, requests that wait, queued
transfers, free choices, the tokens of a pen's bucket, and the status bits of a twin pair. -/
def State.runFrame (s t : State) : Prop :=
  t = { s with folds := t.folds, descs := t.descs, host := t.host, poison := t.poison, past := t.past, raddle := t.raddle,
               ecc := t.ecc, handed := t.handed, evt := t.evt, cnt := t.cnt, snOut := t.snOut, neOut := t.neOut, waiting := t.waiting,
               xfers := t.xfers, freeCtr := t.freeCtr, pens := t.pens, twins := t.twins,
               tally := { s.tally with epoch := t.tally.epoch }, pins := { s.pins with gateArm := t.pins.gateArm },
               ports := { s.ports with last := t.ports.last, gateSn := t.ports.gateSn, gateNe := t.ports.gateNe,
                                       gateNr := t.ports.gateNr } } ∧
  (∀ p, ∃ k n, t.pen p = { s.pen p with tokens := k, tokTick := n }) ∧ t.twins.map Twin.named = s.twins.map Twin.named

end Sys2Proof.Machine
end

