-- ==== Sys2Proof/Certificates/Slice0/Obligations.lean ====
section
/-!
DEFINITION. The statements for the provers.
-/
open Sys2Proof Sys2Proof.Machine

/-- For every command c, every list r and every state s, a step of s with c at the front of its queue and r behind it is
exec of c on s with the queue r. This is the model's form of a step (assumption log 1). (95_what_each_step_holds.md,
00_scope.md) -/
def Obligations.StepRunsTheFrontCommand : Prop :=
  ∀ (c : Instr) (r : List Instr) (s : State), step { s with pending := c :: r } = exec c { s with pending := r }

/-- With no command waiting a step advances the tick counter of PLT_TICK by one and leaves everything else as it was. That
a tick is what an empty queue does is the model's choice (assumption log 1). (14_registers.md) -/
def Obligations.EmptyQueuePassesOneTick : Prop :=
  ∀ s : State, s.pending = [] → step s = .next { s with tick := s.tick + 1 }

/-- Every one of the 119 commands, with any operands that name physical folds 0 to 67 and patrol waves 0 to 4 only,
completes on every state: exec answers a next state. A command that names a physical fold of number 68 or above
(scrubSlot, scrubReread, patrolSlice, foldRetire, foldGateOff) or a patrol wave above 4 (firstPatrolWave) answers the
fault noSuchPart on every state. No command is refused. The effect that the spec gives each command, with the
conditions under which it acts, is stated by the statements of its family. (95_what_each_step_holds.md, 13_faults.md) -/
def Obligations.EveryCommandCompletes : Prop :=
  (∀ (c : Instr) (s : State), (∀ p ∈ c.partsNamed, p < 68) → (∀ w ∈ c.waves, w < 5) → ∃ t, exec c s = .next t) ∧
  (∀ (c : Instr) (s : State), ((∃ p ∈ c.partsNamed, 68 ≤ p) ∨ (∃ w ∈ c.waves, 5 ≤ w)) → exec c s = .fault .noSuchPart) ∧
  (∀ (c : Instr) (s : State) (r : Refusal), exec c s ≠ .refused r) ∧
  (∀ p u, (Instr.scrubSlot p u).partsNamed = [p.toNat]) ∧ (∀ p w, (Instr.scrubReread p w).partsNamed = [p.toNat]) ∧
  (∀ p k b, (Instr.patrolSlice p k b).partsNamed = [p.toNat]) ∧ (∀ p l, (Instr.foldRetire p l).partsNamed = [p.toNat]) ∧
  (∀ p, (Instr.foldGateOff p).partsNamed = [p.toNat]) ∧ (∀ w l, (Instr.firstPatrolWave w l).waves = [w.toNat])

/-- Right after reset, reads at the register port return the Reset columns of the register chapter: PLT_ID, PLT_READY (all
zero), PLT_CFG, PLT_FATAL, PLT_EVT_BASE, PLT_RUNLOG_BASE and PLT_RADMAP_BASE with their ring sizes, PLT_PERIOD,
PLT_COST, PLT_PORT_TMO, EPOCH_S and PLT_INT_MASK; PLT_FATAL_N is high and GATE_ARM_OUT low; no command waits; every
pen's seed is zero; every vector register of every fold is EMPTY and clear, every file mode VEC, every SROW zero and
every route cache entry clear. (R347, R350, R352, R359, R364, R302, R199, R146, R93) -/
def Obligations.ResetRegistersReadTheirResetValues : Prop :=
  State.reset.readReg 0x000 = 0x901747D1 ∧ State.reset.readReg 0x004 = 0x0101 ∧
  State.reset.readReg 0x010 = 0 ∧ State.reset.readReg 0x014 = 0 ∧ State.reset.readReg 0x018 = 0 ∧
  State.reset.readReg 0x020 = 0 ∧ State.reset.readReg 0x024 = 0 ∧
  State.reset.readReg 0x218 = 8 ∧ State.reset.readReg 0x228 = 10 ∧ State.reset.readReg 0x238 = 10 ∧
  State.reset.readReg 0x300 = 0x005F5E10 ∧ State.reset.readReg 0x308 = 0 ∧ State.reset.readReg 0x318 = 0 ∧
  State.reset.readReg 0x500 = 0x00200030 ∧ State.reset.readReg 0x504 = 0x8 ∧
  State.reset.readReg 0x530 = 0x04001000 ∧ State.reset.readReg 0x534 = 0x400 ∧ State.reset.readReg 0x538 = 0x008F0D18 ∧
  State.reset.readReg 0x640 = 0 ∧ State.reset.readReg 0xD00 = 0x3C ∧
  State.reset.pins.fatalN = true ∧ State.reset.pins.gateArm = false ∧ State.reset.pending = [] ∧
  (∀ p, (State.reset.pen p).seed = 0) ∧
  (∀ p i, ((State.reset.fold p).reg i).st = .empty ∧ ((State.reset.fold p).reg i).data = 0 ∧ ((State.reset.fold p).reg i).rad = 0) ∧
  (∀ p, (State.reset.fold p).acc = false ∧ (State.reset.fold p).srow = Srow.blank ∧
    ∀ k, (sget RouteEntry.blank (State.reset.fold p).route k).valid = false)

/-- At reset every memory is in its canonical form, every register lies in the range its field map gives it, the cost
table is at or above its reset values and every register file has its number of entries. (R301, R372, R221, R359,
R364) -/
def Obligations.InvariantHoldsAtReset : Prop :=
  State.Inv State.reset = true

/-- For every state s, whether or not a run reaches it: if Inv holds of s and a step of s answers a next state, Inv holds
of that state. Inv says that host memory, poison, pasture, raddle bits, error words, Shepherd SRAM and both MRAM
arrays are in canonical form; that PLT_PERIOD, the timeouts, PLT_RSHARE, EPOCH_S and the base addresses keep their
ranges and reserved bits; that no entry of the cost table lies below its reset value; and that the register files keep
their sizes. (R348, R221, R359, R364, R302, R357, 14_registers.md, 12_tally_book.md) -/
def Obligations.EveryStepKeepsTheInvariant : Prop :=
  ∀ s t : State, s.Inv = true → step s = .next t → t.Inv = true

/-- For every command but BLOCK_RESET, RESET_RELEASE and TEST_MODE_ENTRY and for every state with PLT_CFG.ENABLE = 1: the
state that the command leaves has ENABLE = 1 and the same PLT_PENTAB_BASE, PLT_DOORBELL_BASE, PLT_CPLRING_BASE,
PLT_EVT_BASE, PLT_RUNLOG_BASE, PLT_RADMAP_BASE, PLT_SMMU_SID and PLT_RSHARE, and the same fuses. The fuses stay as
they are under the three other commands as well. (R348, R351) -/
def Obligations.SetupRegistersHoldWhileEnabled : Prop :=
  ∀ (c : Instr) (s t : State), exec c s = .next t →
    t.fuses = s.fuses ∧
    (c ≠ .blockReset → c ≠ .resetRelease → c ≠ .testModeEntry → s.cfg.enable = true →
      t.cfg.enable = true ∧ t.cfg.pentab = s.cfg.pentab ∧ t.cfg.doorbell = s.cfg.doorbell ∧ t.cfg.cplring = s.cfg.cplring ∧
      t.cfg.evtBase = s.cfg.evtBase ∧ t.cfg.runlogBase = s.cfg.runlogBase ∧ t.cfg.radmapBase = s.cfg.radmapBase ∧
      t.cfg.smmuSid = s.cfg.smmuSid ∧ t.cfg.rshare = s.cfg.rshare)

/-- For every command but BLOCK_RESET, RESET_RELEASE and TEST_MODE_ENTRY and for every state with PLT_FATAL_N low: after
the command PLT_FATAL_N is still low, PLT_FATAL holds the same cause, PLT_STEP has not moved, so that no descriptor
has been admitted, and the cost table and the fold map are as they were. (R335, R352) -/
def Obligations.FatalStopLastsUntilReset : Prop :=
  ∀ (c : Instr) (s t : State), c ≠ .blockReset → c ≠ .resetRelease → c ≠ .testModeEntry →
    s.pins.fatalN = false → exec c s = .next t →
    t.pins.fatalN = false ∧ t.fatalReg = s.fatalReg ∧ t.stile.step = s.stile.step ∧ t.cost = s.cost ∧ t.fmap = s.fmap

/-- For every command but RESET_RELEASE and TEST_MODE_ENTRY and for every state in which block reset is held and test mode
is off: the command leaves the registers, the folds, pasture, the pens, the descriptors and the MRAM as they were.
Only responses of SN transactions are still taken, and the debug port's own output may change; host memory changes
only where an SN_WRITE_RESPONSE ends a write that was accepted before the reset. (R371, R345) -/
def Obligations.NothingActsWhileResetIsHeld : Prop :=
  ∀ (c : Instr) (s t : State), c ≠ .resetRelease → c ≠ .testModeEntry → s.pins.rstLow = true → s.pins.testMode = false →
    exec c s = .next t →
    t = { s with ports := t.ports, host := t.host, poison := t.poison, debugOut := t.debugOut, freeCtr := t.freeCtr } ∧
    ((∀ p i, c ≠ .snWriteResponse p i) → t.host = s.host ∧ t.poison = s.poison)

/-- Out of reset, PASTURE_CLEAR_DONE from 1,024 ticks (16,384 FCLK cycles) after release answers the state whose pasture
is all zero with every raddle bit clear and no word in error; PLAN_STORE_CLEAR_DONE from 1,024 ticks on answers the
state whose plan store is empty with PLT_READY.PLAN set; SHEPHERD_SRAM_CLEAR_DONE from 256 ticks on answers the state
whose Shepherd SRAM is zero. Each happens once; nothing else changes. Out of reset and from 64 ticks (1,024 FCLK
cycles) after release, PORT_READY of a port answers the state in which bit k of SN, NE or NR in PLT_READY is 1 for
that port, every other bit of the three fields is as it was, and nothing else has changed. (R372,
15_bringup_and_power.md, R350) -/
def Obligations.BringUpClearsMemoriesAndRaisesPorts : Prop :=
  ((∀ s : State, s.up = true → s.boot.pastureDone = false → 1024 ≤ s.tick →
    ∃ t, exec .pastureClearDone s = .next t ∧
      (∀ k, sget 0 t.past k = 0 ∧ sget false t.raddle k = false ∧ sget .none t.ecc k = .none) ∧ t.boot.pastureDone = true ∧
      t = { s with past := t.past, raddle := t.raddle, ecc := t.ecc, handed := [], boot := { s.boot with pastureDone := true } }) ∧
  (∀ s : State, s.up = true → s.boot.planDone = false → 1024 ≤ s.tick →
    ∃ t, exec .planStoreClearDone s = .next t ∧ (∀ k, sget Plan.blank t.plans k = Plan.blank) ∧
      t = { s with plans := t.plans, ready := { s.ready with plan := true }, boot := { s.boot with planDone := true } }) ∧
  (∀ s : State, s.up = true → s.boot.sramDone = false → 256 ≤ s.tick →
    ∃ t, exec .shepherdSramClearDone s = .next t ∧ (∀ a, sget 0 t.sram a = 0) ∧
      t = { s with sram := t.sram, boot := { s.boot with sramDone := true } })) ∧
  (∀ s : State, s.up = true → 64 ≤ s.tick →
    (∀ k : BitVec 3, ∃ t, exec (.portReady (.sn k)) s = .next t ∧
      (∀ j < 8, t.ready.sn.getLsbD j = (s.ready.sn.getLsbD j || decide (j = k.toNat))) ∧
      t = { s with ready := { s.ready with sn := t.ready.sn } }) ∧
    (∀ k : BitVec 2, ∃ t, exec (.portReady (.ne k)) s = .next t ∧
      (∀ j < 4, t.ready.ne.getLsbD j = (s.ready.ne.getLsbD j || decide (j = k.toNat))) ∧
      t = { s with ready := { s.ready with ne := t.ready.ne } }) ∧
    (∀ k : BitVec 1, ∃ t, exec (.portReady (.nr k)) s = .next t ∧
      (∀ j < 2, t.ready.nr.getLsbD j = (s.ready.nr.getLsbD j || decide (j = k.toNat))) ∧
      t = { s with ready := { s.ready with nr := t.ready.nr } }))

/-- ROOT_OF_TRUST_SUCCESS, once and after the SRAM clear, puts byte i of the image at address i of the Shepherd SRAM
through the load port's alias while REMAP is 0 (once it is 1 the port has no path and the SRAM stays), leaves every
byte beyond the image, keeps the build number and sets REMAP; ROOT_OF_TRUST_FAILURE only records the failure. A REMAP
write of 1 sets REMAP after the success signal, and before it leaves REMAP as it is and queues one REMAP_EARLY record
where the queue has room. DEBUG_PORT_OPEN opens the debug port before the Shepherd image runs, and afterwards changes
nothing. SHEPHERD_RUNNING after the success signal raises PLT_READY.SHEPHERD and notes the tick. CALIBRATION_DONE,
once the Shepherd runs, sets each entry of the cost table to the larger of its reset value (0x30, 0x20, 0x8) and the
calibrated one, and PLT_READY.STILE rises where the mount's counter slot is written or the tally book has FAILED, and
stays as it was otherwise. Nothing else changes. (R263, R373, R382, 15_bringup_and_power.md, R221, R374) -/
def Obligations.ShepherdStartsFromTheRootOfTrust : Prop :=
  ((∀ (s : State) (build : BitVec 16) (image : List Byte), s.up = true → s.boot.sramDone = true → s.boot.rot = .none →
    image.length ≤ 262144 →
    ∃ t, exec (.rootOfTrustSuccess build image) s = .next t ∧
      (s.cfg.remap = false → ∀ i (h : i < image.length), sget 0 t.sram i = image[i]) ∧
      (∀ i, image.length ≤ i → sget 0 t.sram i = sget 0 s.sram i) ∧ (s.cfg.remap = true → t.sram = s.sram) ∧
      t.cfg.remap = true ∧ t.boot.build = build ∧
      t = { s with sram := t.sram, boot := { s.boot with rot := .success, build := build }, cfg := { s.cfg with remap := true } }) ∧
  (∀ s : State, s.up = true → s.boot.rot = .none →
    exec .rootOfTrustFailure s = .next { s with boot := { s.boot with rot := .failure } }) ∧
  (∀ s : State, s.up = true → s.boot.rot = .success → exec .remap s = .next { s with cfg := { s.cfg with remap := true } }) ∧
  (∀ s : State, s.up = true → s.boot.rot ≠ .success →
    ∃ t, exec .remap s = .next t ∧ t.cfg = s.cfg ∧ s.logged t 0x0405 0 ∧ s.onlyEvents t) ∧
  (∀ s : State, s.up = true → s.ready.shepherd = false →
    exec .debugPortOpen s = .next { s with boot := { s.boot with debugOpen := true } }) ∧
  (∀ s : State, s.ready.shepherd = true → exec .debugPortOpen s = .next s)) ∧
  ((∀ s : State, s.live = true → s.boot.rot = .success → s.ready.shepherd = false →
    exec .shepherdRunning s =
      .next { s with ready := { s.ready with shepherd := true }, boot := { s.boot with shepherdTick := some s.tick } }) ∧
  (∀ (s : State) (rd wr port : BitVec 16), s.live = true → s.ready.shepherd = true → s.boot.calibrated = false →
    ∃ t, exec (.calibrationDone rd wr port) s = .next t ∧
      t.cost.rd.toNat = max 0x30 rd.toNat ∧ t.cost.wr.toNat = max 0x20 wr.toNat ∧ t.cost.port.toNat = max 0x8 port.toNat ∧
      t.ready.stile = (s.ready.stile || s.tally.slotDone || decide (s.tally.st = .failed)) ∧
      t = { s with cost := t.cost, boot := { s.boot with calibrated := true }, ready := { s.ready with stile := t.ready.stile } }))

/-- EARLY_MOUNT completes in two ways and LEDGER_KEY_TIMEOUT in one. EARLY_MOUNT within its limit, with a valid format
record and counter slot j current, keeps the key, restores PLT_STEP from the slot's reservation, opens the epoch that
the slot names, or the one after it where that epoch's record is already held, writes the next counter slot, and STATE
becomes VERIFYING; PLT_READY.STILE rises if calibration is done. Without a valid format record or counter slot, and at
LEDGER_KEY_TIMEOUT after 50 ms, STATE becomes FAILED and a TALLY_FAILED record is queued with the cause, and no epoch
opens. LATE_MOUNT_DONE completes as follows: while STATE is VERIFYING and nothing has stopped the book, it sets STATE
to MOUNTED and raises PLT_READY.TALLY; BREAK is set where it was or where the verification finds a broken record, and
a TALLY_BREAK record is then queued where there is room. The ledger key, the folds, the pens, the memories outside the
MRAM and the registers stay as they were. (R320, R322, 12_tally_book.md, R321, R350) -/
def Obligations.MountRestoresTheTallyBook : Prop :=
  ((∀ (s : State) (key : BitVec 256) (n j : Nat), s.live = true → s.boot.shepherdTick = some n → s.tick ≤ n + 4687500 →
    s.tally.st = .unmounted → s.tally.key = none → s.tally.stop = .no → s.mram.formatOk = true → s.mram.current = some j →
    ∃ t e, exec (.earlyMount key) s = .next t ∧ t.tally.key = some key ∧ t.tally.st = .verifying ∧
      t.stile.step = BitVec.ofNat 64 (leNat (s.mram.read true (counterOff j + 16) 8)) ∧ t.tally.epoch = some e ∧
      e.seq = (if s.mram.holds (leNat (s.mram.read true (counterOff j + 8) 8)) then leNat (s.mram.read true (counterOff j + 8) 8) + 1
        else leNat (s.mram.read true (counterOff j + 8) 8)) ∧ e.leaves = [] ∧ t.tally.slotDone = true ∧
      t.mram.ring = s.mram.ring ∧ t.ready.stile = (s.ready.stile || s.boot.calibrated) ∧
      t = { s with stile := { s.stile with step := t.stile.step }, tally := t.tally, mram := t.mram,
                   ready := { s.ready with stile := t.ready.stile } }) ∧
  (∀ (s : State) (key : BitVec 256) (n : Nat), s.live = true → s.boot.shepherdTick = some n → s.tick ≤ n + 4687500 →
    s.tally.st = .unmounted → s.tally.key = none → (s.mram.formatOk = false ∨ s.mram.current = none) →
    ∃ t, exec (.earlyMount key) s = .next t ∧ t.tally.st = .failed ∧ t.tally.epoch.isSome = s.tally.epoch.isSome ∧
      s.logged t 0x0408 (if s.mram.formatOk then 1 else 0) ∧ t.mram = s.mram ∧ t.stile = s.stile) ∧
  (∀ (s : State) (n : Nat), s.live = true → s.boot.shepherdTick = some n → n + 4687500 < s.tick →
    s.tally.st = .unmounted → s.tally.key = none →
    ∃ t, exec .ledgerKeyTimeout s = .next t ∧ t.tally.st = .failed ∧ t.tally.keyLate = true ∧ s.logged t 0x0408 2 ∧
      t.mram = s.mram ∧ t.stile = s.stile ∧ t.ready.stile = (s.ready.stile || s.boot.calibrated))) ∧
  (∀ s : State, s.live = true → s.tally.st = .verifying → s.tally.stop = .no →
    ∃ t, exec .lateMountDone s = .next t ∧ t.tally.st = .mounted ∧ t.ready = { s.ready with tally := true } ∧
      t.tally.brk = (s.tally.brk || (s.mram.lateBreak (s.tally.key.getD 0) s.tally.seq).isSome) ∧
      (t.tally.brk = true → ∃ k, s.logged t 0x0409 k) ∧ t.tally.key = s.tally.key ∧
      t = { s with tally := t.tally, ready := t.ready, evt := t.evt, cnt := t.cnt, mram := t.mram })

/-- FIRST_PATROL_WAVE of wave w with no failing fold, in its turn, with no fold of the wave patrolled before and none
retired, notes every fold of the wave as passed; every logical fold that a backing fold of the wave backs has its
PLT_READY.FOLD bit set and its logic on; no other bit of FOLD falls; the fold map, the registers and the memories stay
as they were. A wave whose turn has not come changes nothing. (R374, R376) -/
def Obligations.FirstPatrolMakesFoldsReady : Prop :=
  (∀ (s : State) (w : BitVec 3), s.live = true → s.ready.shepherd = true → s.boot.pastureDone = true → s.pause.paused = false →
    w.toNat ≤ 4 → (∀ v < w.toNat, s.waveDone v = true) → s.waveDone w.toNat = false →
    (∀ p ∈ s.waveFolds w.toNat, s.patrolled p = false) → s.waitingFolds = [] →
    ∃ t, exec (.firstPatrolWave w []) s = .next t ∧ (∀ p ∈ s.waveFolds w.toNat, p ∈ t.boot.passed) ∧
      (∀ p ∈ s.waveFolds w.toNat, ∀ f, s.pstate p = .backs → s.logical p = some f →
        t.ready.fold.getLsbD f = true ∧ (t.fold p).logicOn = true) ∧
      (∀ f, s.ready.fold.getLsbD f = true → t.ready.fold.getLsbD f = true) ∧
      t = { s with boot := { s.boot with passed := t.boot.passed }, ready := { s.ready with fold := t.ready.fold },
                   folds := t.folds }) ∧
  (∀ (s : State) (w : BitVec 3) (l : List (BitVec 7)) (v : Nat), w.toNat ≤ 4 → v < w.toNat → s.waveDone v = false →
    exec (.firstPatrolWave w l) s = .next s)

/-- A write of ENABLE = 1 in a running block with PLT_READY.STILE = 1 and some FOLD bit 1 sets ENABLE, writes NUDGE_EN,
sets the write indices of the event ring, the run log and the raddle map ring to zero, starts period 0 at that tick
with the next boundary one PLT_PERIOD later, and reads every entry of the completion ring table with W = 0. Every
other register, host memory, pasture and the MRAM stay as they were. With STILE = 0, or no FOLD bit, or ENABLE already
1, the write changes NUDGE_EN alone, as NUDGE_EN_CHANGE does. (R351, R348, R214, R292, R296, R306, R343) -/
def Obligations.EnableReadsTheSetUp : Prop :=
  (∀ (s : State) (ne : Bool), s.live = true → s.cfg.enable = false → s.ready.stile = true → s.ready.fold ≠ 0 →
    ∃ t, exec (.enable ne) s = .next t ∧ t.cfg = { s.cfg with enable := true, nudgeEn := ne } ∧
      t.evt.w = 0 ∧ t.evt.issue = 0 ∧ t.logs.runW = 0 ∧ t.logs.radW = 0 ∧
      t.period.num = 0 ∧ t.period.tb = s.tick ∧ t.period.next = some (s.tick + s.cfg.period.toNat) ∧
      t.period.inForce = s.cfg.period.toNat ∧ t.period.pending = [] ∧
      (∀ r < 256, (t.ring r).loaded = true ∧ (t.ring r).w = 0) ∧
      (∀ k x, k < 8 → s.twins[k]? = some x → x.en = true → x.taken = false → s.twinBad k x = false →
        ∃ y, t.twins[k]? = some y ∧ y = { x with taken := true, prep := true }) ∧
      t.host = s.host ∧ t.past = s.past ∧ t.mram = s.mram ∧ t.sram = s.sram ∧ t.folds = s.folds ∧ t.descs = s.descs ∧
      t.stile.step = s.stile.step) ∧
  (∀ (s : State) (ne : Bool), s.up = true →
    (s.live = false ∨ s.cfg.enable = true ∨ s.ready.stile = false ∨ s.ready.fold = 0) →
    exec (.enable ne) s = exec (.nudgeEnChange ne) s ∧ ∃ t, exec (.enable ne) s = .next t ∧ t.cfg = { s.cfg with nudgeEn := ne })

/-- Out of reset: a change of NUDGE_EN from 0 to 1 ends further sweeps; a change from 1 to 0 discards the pending nudges
and, while ENABLE is 1, makes a sweep due in the same tick; a write of the value that NUDGE_EN has changes nothing.
Nothing else changes. With NUDGE_EN = 0 a nudge and a nudge bitmap write change nothing. With NUDGE_EN = 1 and ENABLE
= 0 the pens named become pending, the others stay as they were, and nothing else changes. A bitmap write of one bit
is the nudge of that pen. With both 1, the pen nudged is pending afterwards, or is not served, or its doorbell read is
in flight; a pen whose entry is read and served, with no doorbell read in flight and a free ID on its port, is no
longer pending and its read has been issued. Registers, host memory, folds and descriptors stay as they were. (R209,
R351, R210, R367) -/
def Obligations.NudgesBecomeDoorbellReads : Prop :=
  (∀ s : State, s.up = true →
    (s.cfg.nudgeEn = false → exec (.nudgeEnChange true) s =
      .next { s with cfg := { s.cfg with nudgeEn := true }, stile := { s.stile with sweepAt := none } }) ∧
    (s.cfg.nudgeEn = true → ∃ t, exec (.nudgeEnChange false) s = .next t ∧ t.nudges = [] ∧
      t.stile.sweepAt = (if s.cfg.enable then some s.tick else none) ∧
      t = { s with cfg := { s.cfg with nudgeEn := false }, nudges := [],
                   stile := { s.stile with sweepAt := t.stile.sweepAt, sweepLong := false } }) ∧
    exec (.nudgeEnChange s.cfg.nudgeEn) s = .next s) ∧
  ((∀ (s : State) (p : BitVec 12) (w : BitVec 7) (b : BitVec 32), s.cfg.nudgeEn = false →
    exec (.nudge p) s = .next s ∧ exec (.nudgeMapWrite w b) s = .next s) ∧
  (∀ (s : State) (p : BitVec 12), s.up = true → s.cfg.nudgeEn = true → s.cfg.enable = false →
    ∃ t, exec (.nudge p) s = .next t ∧ (∀ q, q ∈ t.nudges ↔ q = p.toNat ∨ q ∈ s.nudges) ∧ t = { s with nudges := t.nudges }) ∧
  (∀ (s : State) (w : BitVec 7) (b : BitVec 32), s.up = true → s.cfg.nudgeEn = true → s.cfg.enable = false →
    ∃ t, exec (.nudgeMapWrite w b) s = .next t ∧
      (∀ q, q ∈ t.nudges ↔ (q / 32 = w.toNat ∧ b.getLsbD (q % 32) = true) ∨ q ∈ s.nudges) ∧ t = { s with nudges := t.nudges }) ∧
  (∀ (s : State) (w : BitVec 7) (k : Nat) (p : BitVec 12), k < 32 → p.toNat = 32 * w.toNat + k →
    exec (.nudgeMapWrite w (BitVec.ofNat 32 (2 ^ k))) s = exec (.nudge p) s) ∧
  (∀ (s : State) (p : BitVec 12), s.up = true → s.cfg.nudgeEn = true →
    ∃ t, exec (.nudge p) s = .next t ∧
      (p.toNat ∈ t.nudges ∨ (t.pen p.toNat).served = false ∨ t.own.any (fun o => o.kind = .doorbell p.toNat) = true) ∧
      t.cfg = s.cfg ∧ t.host = s.host ∧ t.past = s.past ∧ t.mram = s.mram ∧ t.folds = s.folds ∧ t.descs = s.descs) ∧
  (∀ (s : State) (p : BitVec 12), s.live = true → s.cfg.nudgeEn = true → s.cfg.enable = true →
    (s.pen p.toNat).loaded = true → (s.pen p.toNat).served = true → s.own.any (fun o => o.kind = .doorbell p.toNat) = false →
    bit s.ready.sn.toNat (snPort ((s.cfg.doorbell.toNat + 8 * p.toNat) / 64)) = true →
    s.freeIds (snPort ((s.cfg.doorbell.toNat + 8 * p.toNat) / 64)) ≠ [] →
    ∃ t, exec (.nudge p) s = .next t ∧ p.toNat ∉ t.nudges ∧ (∃ o ∈ t.own, o.kind = .doorbell p.toNat ∧ o.writes = []) ∧
      (∀ q, q ≠ p.toNat → (q ∈ t.nudges ↔ q ∈ s.nudges)) ∧
      t = { s with nudges := t.nudges, own := t.own, ports := t.ports, freeCtr := t.freeCtr, nextKey := t.nextKey,
                   snOut := t.snOut }))

/-- In a running block with ENABLE = 1, RELOAD of a pen with no descriptor fetched or admitted takes the entry that host
memory holds: the entry's fields are in force, the pen is served exactly where EN is 1 and the entry is well formed,
its producer and consumer indices are zero and it holds no partial descriptor; a malformed entry queues a PENTAB_BAD
record with row 3. A pen with descriptors keeps its entry and indices, and a RELOAD_BUSY record is queued. The bytes
of the entry stand in host memory; no other byte of host memory, no register and no descriptor changes. In a running
block with ENABLE = 1, CRLOAD of a ring that is not loaded or is malformed takes base, log size, vector and IE from
the entry that host memory holds, and the ring is bad exactly where the entry is malformed. CRLOAD of a well-formed
ring whose consumer word, as host memory holds it, differs from W leaves the ring's entry and W as they were and
queues a CRLOAD_BUSY record. Only the entry's 16 bytes of host memory change; registers, pasture and the MRAM stay.
(R203, R205, R202, R214, R215) -/
def Obligations.ReloadsReadTableEntries : Prop :=
  (∀ (s : State) (p : BitVec 12) (x : BitVec 512), s.live = true → s.cfg.enable = true →
    ∃ t, exec (.reload p x) s = .next t ∧
      (s.penBusy p.toNat = false → (t.pen p.toNat).loaded = true ∧ (t.pen p.toNat).ent = PenEntry.ofNat x.toNat ∧
        (t.pen p.toNat).served = (bit x.toNat 0 && !penBad x.toNat) ∧ (t.pen p.toNat).pidx = 0 ∧ (t.pen p.toNat).cidx = 0 ∧
        (t.pen p.toNat).partial_ = [] ∧ (bit x.toNat 0 = true → penBad x.toNat = true → s.logged t 0x0104 3)) ∧
      (s.penBusy p.toNat = true → (s.pen p.toNat).loaded = true → t.pen p.toNat = s.pen p.toNat ∧ s.logged t 0x0105 0) ∧
      (∀ i < 64, sget 0 t.host (s.cfg.pentab.toNat + 64 * p.toNat + i) = x.extractLsb' (8 * i) 8) ∧
      (∀ a, (a < s.cfg.pentab.toNat + 64 * p.toNat ∨ s.cfg.pentab.toNat + 64 * p.toNat + 64 ≤ a) →
        sget 0 t.host a = sget 0 s.host a) ∧
      t.cfg = s.cfg ∧ t.descs = s.descs ∧ t.folds = s.folds ∧ t.past = s.past ∧ t.mram = s.mram) ∧
  (∀ (s : State) (r : BitVec 8) (x : BitVec 128), s.live = true → s.cfg.enable = true →
    ∃ t, exec (.crload r x) s = .next t ∧
      ((s.ring r.toNat).loaded = false ∨ (s.ring r.toNat).bad = true →
        (t.ring r.toNat).loaded = true ∧ (t.ring r.toNat).base = fld x.toNat 0 64 ∧ (t.ring r.toNat).logsz = fld x.toNat 64 5 ∧
        (t.ring r.toNat).vec = fld x.toNat 69 2 ∧ (t.ring r.toNat).ie = bit x.toNat 71 ∧
        (t.ring r.toNat).bad = decide (fld x.toNat 72 56 ≠ 0 ∨ fld x.toNat 64 5 < 4 ∨ 20 < fld x.toNat 64 5 ∨
          fld x.toNat 0 6 ≠ 0 ∨ fld x.toNat 48 16 ≠ 0)) ∧
      (∀ u : State, u = s.putHost (s.cfg.cplring.toNat + 16 * r.toNat) (leBytes x.toNat 16) →
        (s.ring r.toNat).loaded = true → (s.ring r.toNat).bad = false → (s.ring r.toNat).consFault = false →
        (s.ring r.toNat).w ≠ BitVec.ofNat 32 (leNat (u.getHost (s.cfg.doorbell.toNat + 32768 + 8 * r.toNat) 4)) →
        (t.ring r.toNat).w = (s.ring r.toNat).w ∧ (t.ring r.toNat).base = (s.ring r.toNat).base ∧ s.logged t 0x010A r.toNat) ∧
      (∀ i < 16, sget 0 t.host (s.cfg.cplring.toNat + 16 * r.toNat + i) = x.extractLsb' (8 * i) 8) ∧
      (∀ a, (a < s.cfg.cplring.toNat + 16 * r.toNat ∨ s.cfg.cplring.toNat + 16 * r.toNat + 16 ≤ a) →
        sget 0 t.host a = sget 0 s.host a) ∧
      t.cfg = s.cfg ∧ t.past = s.past ∧ t.mram = s.mram)

/-- DOORBELL_SWEEP when a sweep is due at tick n makes the next one due 187 or 188 ticks after n, by turns, so that two
sweeps take 375 ticks (4 µs); afterwards the entry of each of the 4,096 pens has been read, and every served pen's
doorbell read is in flight or waits for an ID. Before it is due a sweep changes nothing. Registers, host memory, folds
and descriptors stay as they were. A doorbell word that arrives for a served pen with a read out: where its bits 63 to
48 are not zero or bits 47 to 32 are not the pass bits of its PIDX, the producer index stays and a DOORBELL_BAD record
is queued; else where PIDX − CIDX modulo 2^32 is 2^31 or more, it stays and a DOORBELL_BEHIND record is queued; else
where PIDX − RIDX exceeds the ring's size, it becomes RIDX plus the size and a DOORBELL_CLAMP record is queued; else
it becomes PIDX. The word stands in host memory at the pen's doorbell address, and no other byte of host memory
changes. (R209, R203, R208, R204) -/
def Obligations.DoorbellsMoveTheProducerIndex : Prop :=
  ((∀ (s : State) (n : Nat), s.live = true → s.cfg.enable = true → s.stile.sweepAt = some n → n ≤ s.tick →
    ∃ t, exec .doorbellSweep s = .next t ∧ t.stile.sweepAt = some (n + if s.stile.sweepLong then 188 else 187) ∧
      t.stile.sweepLong = !s.stile.sweepLong ∧
      (∀ p < 4096, (t.pen p).loaded = true ∧
        ((t.pen p).served = true → t.own.any (fun o => o.kind = .doorbell p) = true ∨ p ∈ t.stile.doorbells)) ∧
      t.cfg = s.cfg ∧ t.host = s.host ∧ t.past = s.past ∧ t.folds = s.folds ∧ t.descs = s.descs ∧ t.mram = s.mram) ∧
  (∀ (s : State) (n : Nat), s.stile.sweepAt = some n → s.tick < n → exec .doorbellSweep s = .next s)) ∧
  (∀ (s : State) (p : BitVec 12) (w : BitVec 64) (v : BitVec 32) (l : Nat), s.live = true → s.cfg.enable = true →
    (s.pen p.toNat).loaded = true → (s.pen p.toNat).served = true → s.awaitsWord p.toNat = true →
    v = w.setWidth 32 → l = (s.pen p.toNat).ent.logsz →
    ∃ t, exec (.doorbellWord p w) s = .next t ∧
      (w.toNat / 2 ^ 48 ≠ 0 ∨ w.toNat / 2 ^ 32 % 2 ^ 16 ≠ v.toNat / 2 ^ l % 2 ^ 16 →
        (t.pen p.toNat).pidx = (s.pen p.toNat).pidx ∧ s.logged t 0x0106 w.toNat) ∧
      (w.toNat / 2 ^ 48 = 0 → w.toNat / 2 ^ 32 % 2 ^ 16 = v.toNat / 2 ^ l % 2 ^ 16 →
        (2 ^ 31 ≤ (v - (s.pen p.toNat).cidx).toNat → (t.pen p.toNat).pidx = (s.pen p.toNat).pidx ∧ s.logged t 0x0107 v.toNat) ∧
        ((v - (s.pen p.toNat).cidx).toNat < 2 ^ 31 → 2 ^ l < (v - s.ridx p.toNat).toNat →
          (t.pen p.toNat).pidx = s.ridx p.toNat + BitVec.ofNat 32 (2 ^ l) ∧
          s.logged t 0x0108 (v.toNat + (s.ridx p.toNat + BitVec.ofNat 32 (2 ^ l)).toNat * 2 ^ 32)) ∧
        ((v - (s.pen p.toNat).cidx).toNat < 2 ^ 31 → (v - s.ridx p.toNat).toNat ≤ 2 ^ l → (t.pen p.toNat).pidx = v)) ∧
      (t.pen p.toNat).ent = (s.pen p.toNat).ent ∧ (t.pen p.toNat).cidx = (s.pen p.toNat).cidx ∧
      (∀ i < 8, sget 0 t.host (s.cfg.doorbell.toNat + 8 * p.toNat + i) = w.extractLsb' (8 * i) 8) ∧
      (∀ a, (a < s.cfg.doorbell.toNat + 8 * p.toNat ∨ s.cfg.doorbell.toNat + 8 * p.toNat + 8 ≤ a) →
        sget 0 t.host a = sget 0 s.host a) ∧
      t.cfg = s.cfg ∧ t.descs = s.descs ∧ t.folds = s.folds ∧ t.past = s.past ∧ t.mram = s.mram)

/-- FETCH_TURN in a running block with ENABLE = 1, fewer than eight bursts outstanding and a pen p whose turn it is, with
IDs free for the lines, adds one burst of p's next cells, at most 16 and none past the ring's last slot, to the
outstanding ones, sets serial numbers aside for its cells, and adds one read of those lines to Polter's own accesses.
Descriptors, pens, registers and memories stay as they were. With eight bursts outstanding nothing changes. When the
cells of a pen's oldest burst arrive, CIDX moves past them, the burst is no longer outstanding, and every descriptor
fetched before stays. Where the pen holds no partial descriptor and the cells are exactly one descriptor, as its
legend's presence mask counts them, that descriptor is fetched: it has the serial number that the burst's fetch turn
set aside for its legend, the pen, the index of its legend and those cells, and its stage is fetched. Registers,
folds, pasture and the MRAM stay as they were. (R211, R242, R205, R212, R20) -/
def Obligations.BurstsBecomeDescriptors : Prop :=
  ((∀ (s u : State) (p : Nat), s.live = true → s.cfg.enable = true → s.stile.bursts.length < 8 → s.turnPen = some p →
    s.issueOwn (.burst p) false ((List.range (s.burstCells p)).map (fun k =>
      ((s.pen p).ent.ring + 64 * ((s.nextCell p).toNat % 2 ^ (s.pen p).ent.logsz)) / 64 + k)) [] = some u →
    ∃ t, exec .fetchTurn s = .next t ∧ t.stile.bursts = s.stile.bursts ++
        [{ pen := p, first := s.nextCell p, cells := s.burstCells p, base := s.nextDid }] ∧
      s.burstCells p ≤ 16 ∧ s.burstCells p ≤ 2 ^ (s.pen p).ent.logsz - (s.nextCell p).toNat % 2 ^ (s.pen p).ent.logsz ∧
      t.own = s.own ++ [{ key := s.nextKey, kind := .burst p, writes := [], waiting := false }] ∧
      (∀ q x, q ≠ p → ((q, x) ∈ t.stile.queue ↔ (q, x) ∈ s.stile.queue)) ∧
      t = { s with stile := { s.stile with bursts := t.stile.bursts, queue := t.stile.queue }, own := t.own, ports := t.ports,
                   freeCtr := t.freeCtr, nextKey := t.nextKey, snOut := t.snOut,
                   nextDid := s.nextDid + s.burstCells p }) ∧
  (∀ s : State, 8 ≤ s.stile.bursts.length → exec .fetchTurn s = .next s)) ∧
  (∀ (s : State) (p : BitVec 12) (cells : List Cell) (b : Burst) (o : Own), s.live = true →
    s.stile.bursts.find? (fun x => decide (x.pen = p.toNat)) = some b → s.own.find? (fun x => x.kind = .burst p.toNat) = some o →
    o.waiting = false → cells.length = b.cells →
    ∃ t, exec (.descriptorBurst p cells) s = .next t ∧
      (t.pen p.toNat).cidx = (s.pen p.toNat).cidx + BitVec.ofNat 32 cells.length ∧
      t.stile.bursts = eraseBurst p.toNat s.stile.bursts ∧ (∀ d ∈ s.descs, d ∈ t.descs) ∧
      ((s.pen p.toNat).partial_ = [] → 0 < cells.length → cellCount ((cells[0]?).getD 0).toNat = cells.length →
        Desc.fresh b.base p.toNat (s.pen p.toNat).cidx cells none ∈ t.descs ∧
        (t.pen p.toNat).partial_ = [] ∧ ∀ d ∈ t.descs, d ∈ s.descs ∨ d.did = b.base) ∧ t.nextDid = s.nextDid ∧
      t.cfg = s.cfg ∧ t.folds = s.folds ∧ t.past = s.past ∧ t.raddle = s.raddle ∧ t.mram = s.mram ∧ t.stile.step = s.stile.step)

/-- ADMISSION while the stile admits: the next fetched descriptor, where it passes every check, need not be held and meets
its budget or has no price, is admitted. STEP rises by one and is the descriptor's; its T_ADMIT is the tick; its
bound, start and external bytes are those of its price (none on pen 0 and for the opcodes that run on no fold), its
seed is its pen's, its period the current one, and it waits for exactly the admitted descriptors that release one of
its tags; its fold-ticks and lines are added to its pen's FT and XL. HELD_ADMISSION does the same for the first held
descriptor that need no longer wait. Only event records of the checks, STEP, pens, horizons, ring transfers asked for,
descriptors, counters, fold power and GATE_ARM_OUT change: registers and memories stay. (R236, R219, R220, R222, R181,
R199, R213, R12) -/
def Obligations.AdmissionGivesStepBoundAndSeed : Prop :=
  (∀ (s u : State) (d : Desc) (x : Priced), s.admitting = true → s.nextFetched = some d → s.check d = (u, true) →
    u.holdWhy d = none →
    ((d.pen = 0 ∨ d.p.opc.any Opc.noFold = true) ∧ x = u.noPrice ∨
      (d.pen ≠ 0 ∧ d.p.opc.any Opc.noFold = false) ∧ x = u.priceOf d ∧ u.budget d x = none) →
    s.onlyEvents u ∧ ∃ t, exec .admission s = .next t ∧ u.tookIn t d x) ∧
  (∀ (s : State) (d : Desc) (x : Priced), s.admitting = true →
    s.descs.find? (fun e => e.isHeld && (s.holdWhy e).isNone && !s.noCredit e && !s.cancelled e) = some d →
    ((d.pen = 0 ∨ d.p.opc.any Opc.noFold = true) ∧ x = s.noPrice ∨
      (d.pen ≠ 0 ∧ d.p.opc.any Opc.noFold = false) ∧ x = s.priceOf d ∧ s.budget d x = none) →
    ∃ t, exec .heldAdmission s = .next t ∧ s.tookIn t d x)

/-- Where ADMISSION refuses the next fetched descriptor, by a check, by the budget or by its deadline: host memory,
pasture, vector registers and the NE ports are as they were; every pen's FT and XL and every horizon are as they were;
no descriptor waits for fewer or more descriptors than before, and STEP has not moved; the refused descriptor has
ended without having been admitted, with T_ADMIT = T_DONE = the tick and no bound, and its completion record, whatever
its status, carries T_ADMIT in its ticks field, zero for T_DONE − T_ADMIT and BOUND = 0. (R22) -/
def Obligations.RefusalWritesNothingAndTakesNothing : Prop :=
  ∀ (s : State) (d : Desc), s.admitting = true → s.nextFetched = some d →
    ((s.check d).2 = false ∨ ((s.check d).1.holdWhy d = none ∧ d.pen ≠ 0 ∧ d.p.opc.any Opc.noFold = false ∧
      ∃ st, (s.check d).1.budget d ((s.check d).1.priceOf d) = some st)) →
    ∃ t e, exec .admission s = .next t ∧ t.desc? d.did = some e ∧ e.stage = .ended ∧ e.tAdmit = s.tick ∧ e.tDone = s.tick ∧
      e.bound = none ∧
      (∀ w l, (recordBytes e w l).length = 32 ∧ leNat ((recordBytes e w l).drop 26) = 0 ∧
        leNat (((recordBytes e w l).drop 21).take 5) = s.tick % 2 ^ 40) ∧
      (∀ p, t.pen p = s.pen p) ∧ t.hor = s.hor ∧ t.stile = s.stile ∧ t.host = s.host ∧ t.poison = s.poison ∧ t.past = s.past ∧
      t.raddle = s.raddle ∧ t.folds = s.folds ∧ t.neOut = s.neOut ∧ t.cfg = s.cfg ∧ t.mram = s.mram ∧
      t.descs.map (fun x => (x.did, x.waitOn)) = s.descs.map (fun x => (x.did, x.waitOn)) ∧
      t.descs.map (fun x => x.admitted) = s.descs.map (fun x => x.admitted)

/-- Where the next fetched descriptor passes every check but must wait for the order of its pen, a scoreboard entry, a
STEP refresh or the tally book, ADMISSION holds it with that reason: STEP, pens, horizons, memories, registers and
every other descriptor stay as they were; the counter of held admissions advances by one for an entry and for a
refresh. While no fetched descriptor may come next, because its pen is held or lacks a credit, ADMISSION changes
nothing, and it changes nothing while the stile admits nothing. (R18, R180, R315, R213, R368) -/
def Obligations.AdmissionHoldsInsteadOfRefusing : Prop :=
  (∀ (s u : State) (d : Desc) (w : HoldWhy), s.admitting = true → s.nextFetched = some d → s.check d = (u, true) →
    u.holdWhy d = some w →
    s.onlyEvents u ∧ ∃ t, exec .admission s = .next t ∧
      t.descs = u.descs.map (fun e => if e.did = d.did then { e with stage := .held w } else e) ∧
      t.cnt = (if w = .entry ∨ w = .step then setNth u.cnt 7 (u.cnt.getD 7 0 + 1) else u.cnt) ∧
      t = { u with descs := t.descs, cnt := t.cnt }) ∧
  (∀ s : State, (s.admitting = false ∨ s.nextFetched = none) → exec .admission s = .next s) ∧
  (∀ (s : State) (d : Desc), d ∈ s.descs → d.stage = .fetched → d.plan = none → (s.pen d.pen).ent.credit ≤ s.creditUsed d.pen →
    s.nextFetched ≠ some d)

/-- Every pen's seed is zero at reset. Admitting a SEEDSET sets the seed of the pen that its AUX names to the 64 bits of
its AUX, at that admission, and no other pen's; admitting any other descriptor changes no seed. A descriptor admitted
carries the seed that its pen had just before. No later admission changes the seed that an admitted descriptor
carries. (R232) -/
def Obligations.SeedsAreSetAtAdmission : Prop :=
  (∀ p, (State.reset.pen p).seed = 0) ∧
  (∀ (s : State) (d : Desc) (x : Priced), (s.desc? d.did).isSome = true →
    (∀ q, ((s.takeIn d x).pen q).seed =
      (if d.isOpc .seedset = true ∧ q = fld d.p.aux 0 12 then BitVec.ofNat 64 (fld d.p.aux 64 64) else (s.pen q).seed)) ∧
    (∃ e, (s.takeIn d x).desc? d.did = some e ∧ e.seed = (s.pen d.pen).seed) ∧
    (∀ i e, i ≠ d.did → s.desc? i = some e → ∃ e', (s.takeIn d x).desc? i = some e' ∧ e'.seed = e.seed)) ∧
  (∀ (s : State) (d : Desc), s.admitting = true → s.nextFetched = some d → d.pen = 0 → d.isOpc .seedset = true →
    (s.check d).2 = true → (s.check d).1.holdWhy d = none →
    ∃ t, exec .admission s = .next t ∧ (t.pen (fld d.p.aux 0 12)).seed = BitVec.ofNat 64 (fld d.p.aux 64 64))

/-- A descriptor that passes the admission checks on pen 0 is a CANCEL, PLANLOAD, SEEDSET, arming GATE, FENCE or NOP; one
that passes them on another pen is no CANCEL, PLANLOAD, SEEDSET or arming GATE. (R185, R200) -/
def Obligations.ControlPenTakesControlOpcodesOnly : Prop :=
  ∀ (s : State) (d : Desc), (s.check d).2 = true →
    (d.pen = 0 → d.isOpc .cancel = true ∨ d.isOpc .planload = true ∨ d.isOpc .seedset = true ∨
      (d.isOpc .gate = true ∧ d.p.arms = true) ∨ d.isOpc .fence = true ∨ d.isOpc .nop = true) ∧
    (d.pen ≠ 0 → d.isOpc .cancel = false ∧ d.isOpc .planload = false ∧ d.isOpc .seedset = false ∧
      ¬(d.isOpc .gate = true ∧ d.p.arms = true))

/-- STEP_REFRESH when STEP has come within 2^19 of the reservation, with no refresh and no commit under way, starts a
refresh to STEP + 2^20; before that it changes nothing. STEP_REFRESH_DONE, with no epoch record under commit, writes
the next of the 64 counter slots with the next generation, the open epoch, the new reservation and the mount count,
and the reservation takes effect; every other byte of the MRAM stays, and so does everything else. While a record is
under commit it changes nothing. (R315, R314) -/
def Obligations.StepRefreshExtendsTheReservation : Prop :=
  (∀ s : State, s.live = true → s.tally.stop = .no → s.tally.slotDone = true → s.tally.refresh = none → s.tally.commit = none →
    (s.tally.resv ≤ s.stile.step.toNat + 2 ^ 19 → exec .stepRefresh s =
      .next { s with tally := { s.tally with refresh := some (s.stile.step.toNat + 2 ^ 20) } }) ∧
    (s.stile.step.toNat + 2 ^ 19 < s.tally.resv → exec .stepRefresh s = .next s)) ∧
  (∀ s : State, s.up = true → s.tally.commit.isSome = true → exec .stepRefreshDone s = .next s) ∧
  (∀ (s : State) (r : Nat), s.up = true → s.tally.commit = none → s.tally.refresh = some r →
    ∃ t, exec .stepRefreshDone s = .next t ∧ t.tally = { s.tally with refresh := none, resv := r, gen := s.tally.gen + 1 } ∧
      t.mram.read true (counterOff ((s.tally.gen + 1) % 64)) 64 =
        counterSlot (s.tally.gen + 1) s.seqOpen r s.tally.mount.toNat ∧
      (∀ a, (a < counterOff ((s.tally.gen + 1) % 64) ∨ counterOff ((s.tally.gen + 1) % 64) + 64 ≤ a) →
        sget 0 t.mram.seals a = sget 0 s.mram.seals a) ∧ t.mram.ring = s.mram.ring ∧
      t = { s with tally := t.tally, mram := t.mram })

/-- DG64 depends on seed and step only through seed xor (step × 0x9E37_79B9_7F4A_7C15 mod 2^64). An output element that a
descriptor with RND = 1 requantises takes, as its dither, DG64 of the seed that the descriptor carries, its STEP and
the element's logical index in DST. (R135, R287, R199) -/
def Obligations.DitherDependsOnSeedAndStepAlone : Prop :=
  (∀ a b st st' i : BitVec 64, a ^^^ (st * 0x9E3779B97F4A7C15#64) = b ^^^ (st' * 0x9E3779B97F4A7C15#64) →
    dg64 a st i = dg64 b st' i) ∧
  (∀ (fp : Bool) (y : Grat) (a : TParams) (d : Desc) (bad : Bool) (o : ChanOut) (l : Nat) (v : Val), a.rnd = true →
    y.ty ≠ .s48 → y.ty ≠ .fp32 →
    (chanStep fp y a d bad o l v).elts = o.elts ++ [(l, {
                                                         val := toBits (requantOne fp y.ty a (o.stat.map (fun r => r.update a (if y.w = 8 then 127 else 32767) d.period)) v.v
        (some (dg64 d.seed (BitVec.ofNat 64 d.step) (BitVec.ofNat 64 l)))).y y.w,
                                                         rad := radAll y.w (v.rad || bad) })])

/-- PERIOD_BOUNDARY when the boundary at tick e is due: PLT_PERIOD_NUM rises by one, PLT_TB becomes e, the next boundary
lies the period in force after e, every entry of the cost table that the Shepherd raises is at least what it was, host
memory and pasture stay, and the set-up registers stay. During a pause no plan descriptor is admitted: every pen's FT
and XL are zero, STEP has not moved and a PAUSE_BOUNDARY record with the new period number is queued where there is
room. Where no plan is held or loaded, with admission running, FT and XL are zero as well and no descriptor is added.
Before the tick e nothing changes. (R233, R292, R221, R222, R235) -/
def Obligations.PeriodBoundaryTurnsThePeriod : Prop :=
  (∀ (s : State) (c : Option (BitVec 16 × BitVec 16 × BitVec 16)) (l : List (Nat × Nat)) (e : Nat), s.live = true →
    s.cfg.enable = true → s.period.next = some e → e ≤ s.tick →
    ∃ t, exec (.periodBoundary c l) s = .next t ∧ t.period.num = s.period.num + 1 ∧ t.period.tb = e ∧
      t.period.next = some (e + t.period.inForce) ∧
      s.cost.rd.toNat ≤ t.cost.rd.toNat ∧ s.cost.wr.toNat ≤ t.cost.wr.toNat ∧ s.cost.port.toNat ≤ t.cost.port.toNat ∧
      (∀ r w p, c = some (r, w, p) → r.toNat ≤ t.cost.rd.toNat ∧ w.toNat ≤ t.cost.wr.toNat ∧ p.toNat ≤ t.cost.port.toNat) ∧
      t.host = s.host ∧ t.past = s.past ∧ t.raddle = s.raddle ∧ t.cfg = s.cfg ∧
      (s.pausing = true → (∀ p, (t.pen p).ft = 0 ∧ (t.pen p).xl = 0) ∧ t.stile.step = s.stile.step ∧
        (s.evtUsed + 4 < s.evtFree + 64 → s.logged t 0x0402 t.period.num.toNat)) ∧
      (s.pausing = false → s.plans = [] → (∀ p, (t.pen p).ft = 0 ∧ (t.pen p).xl = 0) ∧ t.descs = s.descs ∧
        t.stile.step = s.stile.step)) ∧
  (∀ (s : State) (c : Option (BitVec 16 × BitVec 16 × BitVec 16)) (l : List (Nat × Nat)) (e : Nat),
    s.period.next = some e → s.tick < e → exec (.periodBoundary c l) s = .next s)

/-- PLT_PERIOD reads 0x005F_5E10 after reset. A write of less than 0x0001_0000 is taken as 0x0001_0000 and any other as
itself, and the register reads so. While ENABLE is 1 the next boundary and the period in force after it are as without
the write, and the boundary after that one puts the value written in force; before ENABLE the value written is the one
that ENABLE puts in force. (R359) -/
def Obligations.PeriodRegisterAppliesTwoBoundariesOn : Prop :=
  State.reset.readReg 0x300 = 0x005F5E10 ∧
  (∀ (s : State) (w : BitVec 32), s.up = true →
    ∃ t, exec (.registerWrite 0x300 w 15) s = .next t ∧
      t.readReg 0x300 = (if w.toNat < 0x10000 then 0x10000 else w) ∧ t.period.inForce = s.period.inForce ∧
      (s.cfg.enable = false → t.period = s.period) ∧
      (s.cfg.enable = true → ∀ (e : Nat) (u v : State), (∀ x ∈ s.period.pending, 0 < x.2 ∧ x.2 ≤ 2) →
        u = t.openPeriod e → v = u.openPeriod (e + u.period.inForce) →
        u.period.inForce = (s.openPeriod e).period.inForce ∧ u.period.next = (s.openPeriod e).period.next ∧
        v.period.inForce = (if w.toNat < 0x10000 then 0x10000 else w.toNat) ∧
        v.period.next = some (e + u.period.inForce + (if w.toNat < 0x10000 then 0x10000 else w.toNat))) ∧
      t = { s with cfg := { s.cfg with period := t.cfg.period }, period := { s.period with pending := t.period.pending } }) ∧
  (∀ (s : State) (ne : Bool), s.live = true → s.cfg.enable = false → s.ready.stile = true → s.ready.fold ≠ 0 →
    ∃ t, exec (.enable ne) s = .next t ∧ t.period.inForce = s.cfg.period.toNat)

/-- BELL while the block runs and BELL_IN can have risen counts the bell and notes whether the block was armed. With the
bell and ENABLE on and a boundary e to come that is not yet snapped, B = tick + 32: where B lies within P/8 of e the
next boundary is at B and is a snap; else where it lies within P/8 of the last boundary the next is at B + P and is a
snap; else, with x = B − e brought into (−P/2, P/2] by whole periods, the next boundary is at e + x, x cut to
floor(P/64) either way. A snap clears MISSES and FREE_RUN. A second bell before a snapped boundary is taken only
counts as ignored. With the bell off nothing but the count and the note changes. An edge less than two ticks (16 FCLK
cycles low and 16 high) after BELL_IN was last known high is no bell. GATE_BELL, 48 ticks after a bell or later,
clears the noted bell and, where the block was armed at it, makes a release due at its tick plus 48. GATE_RELEASE when
due ends every admitted GATE, arming or holding, and leaves no arming GATE admitted, so that GATE_ARM_OUT is low; no
other descriptor, no register and no memory changes. (R291, R292, R294, R293, R198) -/
def Obligations.BellsMoveBoundariesAndReleaseGates : Prop :=
  ((∀ (s : State) (e : Nat), s.live = true → s.gate.mayRise s.tick = true → s.cfg.bellEn = true → s.cfg.enable = true → s.period.next = some e →
    ∃ t, exec .bell s = .next t ∧ t.gate = { s.gate with high := some s.tick, lastBell := some (s.tick, s.pins.gateArm) } ∧
      t.cnt = setNth s.cnt 8 (s.cnt.getD 8 0 + 1) ∧
      (s.period.snapped = true → t.period = { s.period with ignored := min 0xFFFF (s.period.ignored + 1) }) ∧
      (s.period.snapped = false →
        (8 * ((s.tick + 32 : Nat) - (e : Int)).natAbs ≤ s.period.inForce →
          t.period = { s.period with next := some (s.tick + 32), snapped := true, misses := 0, freeRun := false }) ∧
        (s.period.inForce < 8 * ((s.tick + 32 : Nat) - (e : Int)).natAbs →
          8 * ((s.tick + 32 : Nat) - (s.period.tb : Int)).natAbs ≤ s.period.inForce →
          t.period = { s.period with next := some (s.tick + 32 + s.period.inForce), snapped := true, misses := 0, freeRun := false }) ∧
        (s.period.inForce < 8 * ((s.tick + 32 : Nat) - (e : Int)).natAbs →
          s.period.inForce < 8 * ((s.tick + 32 : Nat) - (s.period.tb : Int)).natAbs →
          ∀ x k : Int, 0 < s.period.inForce → x = ((s.tick + 32 : Nat) : Int) - (e : Int) + k * (s.period.inForce : Int) →
            -(s.period.inForce : Int) < 2 * x → 2 * x ≤ (s.period.inForce : Int) → t.period = { s.period with
                                                                                                next := some ((e : Int) + max (-((s.period.inForce / 64 : Nat) : Int)) (min x ((s.period.inForce / 64 : Nat) : Int))).toNat })) ∧
      t = { s with gate := t.gate, cnt := t.cnt, period := t.period }) ∧
  (∀ s : State, s.live = true → s.gate.mayRise s.tick = true → (s.cfg.bellEn = false ∨ s.cfg.enable = false) →
    exec .bell s = .next { s with gate := { s.gate with high := some s.tick, lastBell := some (s.tick, s.pins.gateArm) },
                                  cnt := setNth s.cnt 8 (s.cnt.getD 8 0 + 1) }) ∧
  (∀ (s : State) (h : Nat), s.gate.high = some h → s.tick < h + 2 → exec .bell s = .next s)) ∧
  ((∀ (s : State) (n : Nat) (a : Bool), s.live = true → s.gate.lastBell = some (n, a) → n + 48 ≤ s.tick →
    exec .gateBell s = .next { s with gate := { high := some (n + 48), lastBell := none, release := if a then some (n + 48) else s.gate.release } }) ∧
  (∀ (s : State) (n : Nat), s.live = true → s.gate.release = some n → n ≤ s.tick →
    (∀ d ∈ s.descs, ∀ e ∈ s.descs, d.did = e.did → d = e) →
    ∃ t, exec .gateRelease s = .next t ∧ t.gate.release = none ∧ t.pins.gateArm = false ∧
      (∀ d ∈ s.descs, d.active = true → d.isOpc .gate = true → ∃ e ∈ t.descs, e.did = d.did ∧ e.stage = .ended ∧ e.tDone = s.tick) ∧
      (∀ d ∈ s.descs, ¬(d.active = true ∧ d.isOpc .gate = true) → d ∈ t.descs) ∧
      t = { s with gate := { s.gate with release := none }, pins := { s.pins with gateArm := false }, descs := t.descs,
                   folds := t.folds, xfers := t.xfers, waiting := t.waiting }))

/-- PWR_WARN stops admission: afterwards the stile admits nothing, no epoch is open, every TALLY's record is abandoned,
the record of the epoch that was open is under commit with no counter slot to follow, and STATE, the registers, the
folds and the pens' entries stay. PWR_WARN_RETURN after such a warning, once the commit's marker is written, opens the
next epoch with WARNREC = 1, writes its counter slot with a reservation of STEP + 2^20, and the stile no longer stops
for the warning. A warning during a cut leaves the cut's stop. (R317, R318, R319) -/
def Obligations.PowerWarningStopsAdmissionAndReturns : Prop :=
  (∀ (s : State) (e : Epoch), s.live = true → s.pins.warn = false → s.tally.stop = .no → s.tally.epoch = some e →
    s.tally.commit = none → s.tally.refresh = none → s.tally.export_ = none →
    ∃ t c, exec .pwrWarn s = .next t ∧ t.admitting = false ∧ t.tally.stop = .warn ∧ t.tally.epoch = none ∧
      t.tally.commit = some c ∧ c.seq = e.seq ∧ c.slot = false ∧ t.tally.st = s.tally.st ∧ t.pins = { s.pins with warn := true } ∧
      t.tally.waiting = [] ∧ t.stile = s.stile ∧ t.cfg = s.cfg ∧ t.folds = s.folds ∧ t.descs = s.descs ∧
      t.host = s.host ∧ t.past = s.past ∧ ∀ p, (t.pen p).ent = (s.pen p).ent) ∧
  (∀ s : State, s.live = true → s.pins.warn = false → s.tally.stop ≠ .no →
    exec .pwrWarn s = .next { s with pins := { s.pins with warn := true } }) ∧
  (∀ s : State, s.live = true → s.pins.warn = true → s.tally.stop = .warn → s.tally.slotDone = true →
    ∃ t e, exec .pwrWarnReturn s = .next t ∧ t.tally.stop = .no ∧ t.pins.warn = false ∧ t.tally.commit = none ∧
      t.tally.epoch = some e ∧ e.warnrec = true ∧ e.seq = s.tally.seq + 1 ∧ e.leaves = [] ∧ t.tally.seq = s.tally.seq + 1 ∧
      t.tally.resv = s.stile.step.toNat + 2 ^ 20 ∧ t.stile = s.stile ∧ t.cfg = s.cfg ∧ t.host = s.host ∧ t.past = s.past) ∧
  (∀ s : State, s.live = true → s.pins.warn = true → s.tally.stop ≠ .warn →
    exec .pwrWarnReturn s = .next { s with pins := { s.pins with warn := false } })

/-- THERM_LVL_CHANGE to a new level: PLT_THERM reports it from then on; a change to level 3 sets L3, advances L3COUNT up
to 0xFFFF and voids every bound between admission and completion, and no other bound; a change into or out of level 3
queues one THERM3 record with the new level. A change between levels 0, 1 and 2 changes the level alone. A change to
the level that holds changes nothing. (R228, R361, R377) -/
def Obligations.ThermalLevelThreeVoidsBounds : Prop :=
  ∀ (s : State) (lvl : BitVec 2), s.up = true →
    (s.therm.lvl = lvl → exec (.thermLvlChange lvl) s = .next s) ∧
    (s.therm.lvl ≠ lvl → ∃ t, exec (.thermLvlChange lvl) s = .next t ∧ t.therm.lvl = lvl ∧
      t.therm.applied s.tick = s.therm.lvl ∧ t.therm.applied (s.tick + 1) = lvl ∧
      (lvl = 3 → t.therm.l3 = true ∧ t.therm.l3count.toNat = min 0xFFFF (s.therm.l3count.toNat + 1) ∧
        t.descs = s.descs.map (fun d => if d.admitted && d.bound.isSome then { d with void := true } else d)) ∧
      (lvl ≠ 3 → t.descs = s.descs ∧ t.therm.l3 = s.therm.l3 ∧ t.therm.l3count = s.therm.l3count) ∧
      (lvl = 3 ∨ s.therm.lvl = 3 → s.logged t 0x030D lvl.toNat) ∧
      (lvl ≠ 3 → s.therm.lvl ≠ 3 → t = { s with therm := t.therm }) ∧
      t = { s with therm := t.therm, descs := t.descs, evt := t.evt, cnt := t.cnt, tally := t.tally })

/-- For each of COPY, TRANSPOSE, PERMUTE, SHUFFLE, GATHER, SCATTER, CONVERT, PACK, UNPACK, TPROD, CBLOAD, REQUANT, VLOAD,
VSTORE, VMOVE, RELEASE, ROUTE and DIGEST. (1) Where the descriptor may run now, the command answers a state in which
it is either still admitted, with units or lines left that the crook does not grant yet, or has ended at that tick
with the status that R338 gives for its raddles and reruns and the digest of its covered sequence (zero for the
opcodes that carry none), or with the status of a check that it meets on its way and no digest. (2) Where its start
leaves it started and nothing holds it up (its operands lie in pasture, every fold of its share runs it, no transfer,
no line on its way, no twin pair compares, no check fails), it completes: every unit of every executing fold has
committed, it has ended with that status and digest, PD64 of its covered sequence where no context image altered its
sums, and no fold runs it any more. In both cases its legend stays, and what no execution writes is as it was:
registers, pens but their tokens, rings, plans, the stile, the fold map, the MRAM, the Shepherd SRAM, outstanding
transactions, every other descriptor's legend and status. (R283, R338, R337, R385, R193, R97, R110, R115, R120, R136,
R158, R197) -/
def Obligations.FoldOpcodesRunToTheirEnd : Prop :=
  ∀ (o : Opc) (c : Nat → Instr), (o, c) ∈ foldOpcodes →
    ∀ (s : State) (d : Nat) (e0 : Desc), s.desc? d = some e0 → e0.isOpc o = true → e0.active = true → s.canRun e0 = true →
      (∃ t e', exec (c d) s = .next t ∧ t.desc? d = some e' ∧ e'.cells = e0.cells ∧ s.ranTo o e' ∧ s.runFrame t ∧
        (∀ i, i ≠ d → (t.desc? i).map (fun x => (x.cells, x.stage, x.status)) = (s.desc? i).map (fun x => (x.cells, x.stage, x.status)))) ∧
      (∀ e, (s.ensure d).desc? d = some e → (s.ensure d).unhindered e →
        ∃ t e', exec (c d) s = .next t ∧ t.desc? d = some e' ∧ e'.stage = .ended ∧ e'.tDone = s.tick ∧
          (∀ x ∈ e.work, x.2.length ≤ e'.at_ x.1) ∧ e'.cells = e0.cells ∧
          e'.status = endStatus (e'.raddles + b2n e'.marked) e'.noted ∧
          e'.digest = (if o.noDigest then 0 else e'.pd) ∧
          (o.noDigest = false → e'.accs = [] → e'.digest = pd64 (covBytes (sortCov e'.cov))) ∧
          (∀ p, (t.fold p).running ≠ some d) ∧ s.runFrame t)

/-- For every fold opcode and a descriptor that may start and has not, and for which no fold holds a line: where its work
cannot be divided any more it ends REFUSED_ENCODING (SHUFFLE) or REFUSED_SHAPE, and where a start check of the route
slot, the table image, the vector file or a ROUTE's indices fails it ends with that check's status. Host memory,
pasture, raddle bits and vector registers are as they were, and with no word in error a descriptor that ends
REFUSED_ENCODING queues an ENCODING record, whose INFO is the model's choice (assumption log 28). (R23, R84, R81,
R123, R151, R201) -/
def Obligations.StartChecksRefuseAfterAdmission : Prop :=
  ∀ (o : Opc) (c : Nat → Instr), (o, c) ∈ foldOpcodes →
    ∀ (s : State) (d : Nat) (e : Desc) (st : Status), s.desc? d = some e → e.isOpc o = true → e.begun = false → s.canStart e = true →
      s.heldOf e = [] →
      (s.workOf e = none ∧ st = (if o = .shuffle then .refusedEncoding else .refusedShape) ∨
        ∃ w fs, s.workOf e = some w ∧
          fs = (if o = .vmove ∧ (VParams.ofAux e.p.aux).dfold ∉ w.map Prod.fst then w.map Prod.fst ++ [(VParams.ofAux e.p.aux).dfold]
            else w.map Prod.fst) ∧
          (s.startBad e fs = some st ∨ (o = .route ∧ s.startBad e fs = none ∧ s.routeStop { e with folds := fs } = some st))) →
      ∃ t e', exec (c d) s = .next t ∧ t.desc? d = some e' ∧ e'.stage = .ended ∧ e'.status = st ∧ e'.digest = 0 ∧
        e'.tDone = s.tick ∧ t.host = s.host ∧ t.poison = s.poison ∧ t.past = s.past ∧ t.raddle = s.raddle ∧
        (∀ p, (t.fold p).vregs = (s.fold p).vregs) ∧
        (st = .refusedEncoding → s.ecc = [] → s.logged t 0x0102 e.startInfo) ∧ s.runFrame t

/-- For a descriptor with no line to be written again and none held by a fold. COPY, TRANSPOSE, PERMUTE, SHUFFLE, GATHER,
CONVERT, PACK and UNPACK whose destination does not race with itself, or that have committed no racing unit yet: every
byte of host memory, and, with no active twin pair, every byte of pasture, that is none of the bytes at which the
elements of the executing folds' units and the pads of their blocks lie in DST, as the operand form computes them,
reads after the command as before it. For VLOAD, RELEASE and DIGEST host memory, its poison, pasture and its raddle
bits are as they were. (R385, R78, R79, R97, R193, R194, R80, R152, R161, R197) -/
def Obligations.OpcodesWriteOnlyTheirDestination : Prop :=
  (∀ (o : Opc) (c : Nat → Instr), (o, c) ∈ foldOpcodes →
      o ∈ [Opc.copy, .transpose, .permute, .shuffle, .gather, .convert, .pack, .unpack] →
    ∀ (s t : State) (d : Nat) (e : Desc) (b : Grat), (s.ensure d).desc? d = some e → e.isOpc o = true → e.p.dst = some b →
      e.stalled = [] → s.heldOf e = [] → (e.racy = true → e.wins = []) → exec (c d) s = .next t →
      (∀ k, (∀ x ∈ e.work, ∀ ls ∈ x.2, ∀ l ∈ ls, ∀ p ∈ s.eltPieces x.1 b l { val := 0, rad := 0 }, ¬(p.host = true ∧ p.key = k)) →
        sget 0 t.host k = sget 0 s.host k) ∧
      ((∀ w ∈ s.twins, w.active = false) → ∀ k,
        (∀ x ∈ e.work, ∀ ls ∈ x.2, ∀ l ∈ ls, ∀ p ∈ s.eltPieces x.1 b l { val := 0, rad := 0 }, ¬(p.host = false ∧ p.key = k)) →
        sget 0 t.past k = sget 0 s.past k)) ∧
  (∀ (o : Opc) (c : Nat → Instr), (o, c) ∈ foldOpcodes → o ∈ [Opc.vload, .release, .digest] →
    ∀ (s t : State) (d : Nat) (e : Desc), s.desc? d = some e → e.isOpc o = true → e.stalled = [] → s.heldOf e = [] →
      (∀ x, (s.ensure d).desc? d = some x → s.heldOf x = []) → exec (c d) s = .next t →
      t.host = s.host ∧ t.poison = s.poison ∧ t.past = s.past ∧ t.raddle = s.raddle)

/-- For a unit of any opcode whose pieces lie within a byte each, with no twin pair active: after the unit commits, bit j
of byte k of host memory, or of pasture, is the bit of the last piece of the unit that writes it, and is as it was
where no piece does. A piece on a host line whose write was answered DERR writes nothing; the bytes of a line that a
write transaction of the unit carries are left to that transaction. (R31, R40, R336, R14, R165) -/
def Obligations.UnitsWriteTheirBitsAndNoOthers : Prop :=
  ∀ (s t : State) (d : Desc) (f u : Nat) (o : Out), (∀ p ∈ o.pieces, p.mask < 256 ∧ p.val < 256 ∧ p.val &&& (0xFF ^^^ p.mask) = 0) →
    (∀ w ∈ s.twins, w.active = false) → t = s.commit d f u o →
    (∀ k j, j < 8 → (sget 0 t.host k).getLsbD j =
      (match ((keepPieces d.derr o.pieces).filter (fun p => p.host && decide (p.key = k) && p.mask.testBit j)).getLast? with
       | some p => if (d.onWire f u).contains (k / 64) then (sget 0 s.host k).getLsbD j else p.val.testBit j
       | none => (sget 0 s.host k).getLsbD j)) ∧
    (∀ k j, j < 8 → (sget 0 t.past k).getLsbD j =
      (match (o.pieces.filter (fun p => !p.host && decide (p.key = k) && p.mask.testBit j)).getLast? with
       | some p => p.val.testBit j
       | none => (sget 0 s.past k).getLsbD j))

/-- For an element l of a unit of COPY, TRANSPOSE, PERMUTE, PACK or UNPACK whose elements have whole bytes and lie apart,
with no twin pair active, no word in error, no DERR and no line of the unit on a write transaction: after the unit
commits, byte i of DST element l, in host memory or pasture as its operand form places it, is byte i of the source
element read before, and, in pasture, so is its raddle bit. The source element of l is SRC0's element l for COPY,
SRC0's element with the first two indices exchanged for TRANSPOSE, and the one that the axis map or the interleave
names otherwise. (R385, R78, R79, R194, R193, R336) -/
def Obligations.ReorderingUnitsMoveElementBits : Prop :=
  ∀ (s t : State) (d : Desc) (f u l : Nat) (ls : List Nat) (a b g : Grat), d.p.src0 = some a → d.p.dst = some b →
    (d.isOpc .copy = true ∨ d.isOpc .transpose = true ∨ d.isOpc .permute = true ∨ d.isOpc .pack = true ∨ d.isOpc .unpack = true) →
    (∀ w ∈ s.twins, w.active = false) → s.ecc = [] → d.derr = [] → d.onWire f u = [] → 8 ≤ b.w → l ∈ ls →
    ((s.unitOut d f u ls).pieces.map (fun p => (p.host, p.key))).Nodup →
    g = (if (d.p.srcIndex l).1 = 0 then a else d.p.src1.getD a) → t = s.commit d f u (s.unitOut d f u ls) →
    (∀ i, i < b.w / 8 →
      (∀ k, s.loc b f ((b.bitAt l).toNat / 8 + i) = .host k →
        sget 0 t.host k = BitVec.ofNat 8 (fld (s.rdElt f d.did g (d.p.srcIndex l).2).val (8 * i) 8)) ∧
      (∀ k, s.loc b f ((b.bitAt l).toNat / 8 + i) = .past k →
        sget 0 t.past k = BitVec.ofNat 8 (fld (s.rdElt f d.did g (d.p.srcIndex l).2).val (8 * i) 8) ∧
        sget false t.raddle k = bit (s.rdElt f d.did g (d.p.srcIndex l).2).rad i)) ∧
    (d.isOpc .copy = true → d.p.srcIndex l = (0, l)) ∧
    (d.isOpc .transpose = true → ∀ i j r, decomp b.size l = i :: j :: r → d.p.srcIndex l = (0, flat a.size (j :: i :: r)))

/-- DELIVER on a ready NE port and COLLECT on a ready NR port, where the descriptor may run: the command answers a state
in which it is still admitted with work to do, or has ended at that tick; DELIVER has sent beats on its own port
alone, COLLECT none. Where its start leaves it started, nothing holds it up (its pasture operand needs no host line)
and all drain beats of a COLLECT have been received, it completes: every unit has committed and it has ended with the
status and digest of what it covered. On a port that is not ready nothing changes. (R94, R195, R270, R272, R283, R338) -/
def Obligations.PortOpcodesRunOnReadyPorts : Prop :=
  (∀ (o : Opc) (c : Nat → Nat → Instr), (o, c) ∈ [(Opc.deliver, Instr.deliver), (Opc.collect, Instr.collect)] →
    ∀ (s : State) (d stall : Nat) (e0 : Desc), s.desc? d = some e0 → e0.isOpc o = true → e0.active = true → s.canRun e0 = true →
      s.portUp e0 = true →
      (∃ t e' l, exec (c d stall) s = .next t ∧ t.desc? d = some e' ∧ s.ranTo o e' ∧ s.runFrame t ∧
        t.neOut = s.neOut ++ l ∧ (∀ x ∈ l, o = .deliver ∧ ∃ ofs dat last poison, x = .beat (fld e0.p.aux 0 2) ofs dat last poison)) ∧
      (∀ e, (s.ensure d).desc? d = some e → (s.ensure d).unhindered e →
        (o = .collect → ∀ x ∈ e.work, e.collectReady x.2 = x.2.length) →
        ∃ t e', exec (c d stall) s = .next t ∧ t.desc? d = some e' ∧ e'.stage = .ended ∧ e'.tDone = s.tick ∧
          (∀ x ∈ e.work, x.2.length ≤ e'.at_ x.1) ∧ e'.status = endStatus (e'.raddles + b2n e'.marked) e'.noted ∧
          e'.digest = e'.pd ∧ (e'.accs = [] → e'.digest = pd64 (covBytes (sortCov e'.cov))) ∧
          (o = .deliver → t.host = s.host ∧ t.past = s.past))) ∧
  (∀ (s : State) (d stall : Nat) (e : Desc), s.desc? d = some e → s.portUp e = false →
    (e.isOpc .deliver = true → exec (.deliver d stall) s = .next s) ∧ (e.isOpc .collect = true → exec (.collect d stall) s = .next s))

/-- An NR beat that comes while no COLLECT runs on its port, and may start none, changes nothing: it waits. One that comes
for a COLLECT that runs once its folds have started it, with beats to come and a free landing slot at its drovers, is
added to what the descriptor has received, raddled where it is poisoned or its offset is not the expected one, and the
port's timeout starts anew; a wrong offset queues one NR_OFS record with both offsets, else a wrong LAST of a beat
that is not poisoned one NR_LAST record. Memories, folds, registers and other descriptors stay as they were. With no
free landing slot the beat waits. PORT_STALL_TIMEOUT for a DELIVER or COLLECT that runs or may start, when its port
has made no transfer for the timeout that was in force as the timeout started, ends it PORT_TIMEOUT with digest zero
at that tick, with no twin pair active; where it stood at its cancel point already and is not bounded, one
PORT_TIMEOUT record with the port is queued; a DELIVER's port sends an abort. Before the timeout nothing changes, and
for a descriptor that neither runs nor may start nothing changes. (R270, R271, R195, R256, R272) -/
def Obligations.DrainBeatsLandAndStallsTimeOut : Prop :=
  ((∀ (s : State) (p : BitVec 1) (ofs : BitVec 26) (x : BitVec 512) (last poison : Bool),
    (∀ d ∈ s.descs, ¬(d.active = true ∧ d.isOpc .collect = true ∧ d.portNum = 12 + p.toNat ∧ s.portUp d = true ∧ s.runsSome d = true)) →
    exec (.nrBeat p ofs x last poison) s = .next s) ∧
  (∀ (s u : State) (p : BitVec 1) (ofs : BitVec 26) (x : BitVec 512) (last poison : Bool) (d d1 : Desc) (g : Grat) (b : Nat × Bool),
    s.descs.find? (fun e => e.active && e.isOpc .collect && e.portNum = 12 + p.toNat && s.portUp e && s.runsSome e) = some d →
    u = s.ensure d.did → u.desc? d.did = some d1 → d1.active = true → d1.did = d.did → d1.isOpc .collect = true →
    (u.slotFree d1 = false → exec (.nrBeat p ofs x last poison) s = .next u) ∧
    (u.slotFree d1 = true → d1.p.src0 = some g → g.drainBeats[d1.drain.length]? = some b →
      ∃ t e, exec (.nrBeat p ofs x last poison) s = .next t ∧ t.desc? d.did = some e ∧
        e = { d1 with drain := d1.drain ++ [{ data := x, rad := poison || decide (ofs.toNat ≠ b.1) }],
                      stallFrom := some (u.tick, u.cfg.nrTmo.toNat) } ∧
        (ofs.toNat ≠ b.1 → u.logged t 0x020A (ofs.toNat + b.1 % 2 ^ 26 * 2 ^ 32)) ∧
        (poison = false → ofs.toNat = b.1 → last ≠ b.2 → u.logged t 0x020B ofs.toNat) ∧
        (ofs.toNat = b.1 → (poison = true ∨ last = b.2) → t.evt = u.evt) ∧
        t = { u with descs := t.descs, ports := { u.ports with last := t.ports.last, gateNr := t.ports.gateNr, gateNe := t.ports.gateNe },
                     evt := t.evt, cnt := t.cnt, tally := t.tally }))) ∧
  ((∀ (s u : State) (d : Nat) (stop : PortStop) (e x : Desc) (n l : Nat), s.desc? d = some e → s.runsSome e = true →
    (e.isOpc .deliver = true ∨ e.isOpc .collect = true) → u = s.ensure d → u.desc? d = some x → x.active = true →
    x.cells = e.cells → x.stallFrom = some (n, l) →
    (n + l ≤ s.tick → e.begun = true → (∀ w ∈ s.twins, w.active = false) →
      ∃ t e', exec (.portStallTimeout d stop) s = .next t ∧ t.desc? d = some e' ∧ e'.stage = .ended ∧ e'.status = .portTimeout ∧
        e'.digest = 0 ∧ e'.tDone = s.tick ∧
        (stop.pts = [] → x.stalled = [] → x.bounded = false →
          u.logged t 0x020C (if e.isOpc .deliver then fld e.p.aux 0 2 else fld e.p.aux 0 1 + 4)) ∧
        (e.isOpc .deliver = true → NeOut.abort (fld e.p.aux 0 2) ∈ t.neOut) ∧ s.runFrame t) ∧
    (s.tick < n + l → exec (.portStallTimeout d stop) s = .next u)) ∧
  (∀ (s : State) (d : Nat) (stop : PortStop) (e : Desc), s.desc? d = some e → s.runsSome e = false →
    exec (.portStallTimeout d stop) s = .next s))

/-- FENCE, NOP and SEEDSET, admitted with their waits met (FENCE with every earlier descriptor of its pen completed), end
DONE with digest zero at that tick; every other descriptor, the vector files and route caches of the folds, memories
and registers stay as they were. With a wait not met, or for FENCE with an earlier descriptor of its pen still there,
nothing changes. GATE_ARM on an admitted arming GATE raises GATE_ARM_OUT and takes the GATE up; GATE_HOLD on an
admitted GATE with ARM = 0 takes it up, and every later descriptor of its pen is then held back. Both change nothing
else. (R196, R232, R198, R293, R338) -/
def Obligations.StileOpcodesComplete : Prop :=
  (∀ (o : Opc) (c : Nat → Instr), (o, c) ∈ [(Opc.fence, Instr.fence), (Opc.nop, Instr.nop), (Opc.seedset, Instr.seedset)] →
    ∀ (s : State) (d : Nat) (e : Desc), s.desc? d = some e → e.isOpc o = true →
      (s.live = true → e.active = true → s.waitsMet e = true →
        (o = .fence → ∀ x ∈ s.descs, x.admitted = true → x.pen = e.pen → e.step ≤ x.step) →
        e.cov = [] → e.accs = [] → e.marked = false → e.folds = [] →
        ∃ t, exec (c d) s = .next t ∧
          t.desc? d = some { e with stage := .ended, status := .done, noted := false, digest := 0, tDone := s.tick } ∧
          (∀ i, i ≠ d → t.desc? i = s.desc? i) ∧
          (∀ p, (t.fold p).vregs = (s.fold p).vregs ∧ (t.fold p).route = (s.fold p).route ∧ (t.fold p).acc = (s.fold p).acc) ∧
          t = { s with folds := t.folds, descs := t.descs, xfers := t.xfers, waiting := t.waiting,
                       pins := { s.pins with gateArm := t.pins.gateArm } }) ∧
      ((s.waitsMet e = false ∨ (o = .fence ∧ ∃ x ∈ s.descs, x.admitted = true ∧ x.pen = e.pen ∧ x.step < e.step)) →
        exec (c d) s = .next s)) ∧
  (∀ (s : State) (d : Nat) (e : Desc), s.live = true → s.desc? d = some e → e.active = true → e.isOpc .gate = true →
    (e.p.arms = true → ∃ t, exec (.gateArm d) s = .next t ∧ t.pins.gateArm = true ∧ t.desc? d = some { e with begun := true } ∧
      (∀ i, i ≠ d → t.desc? i = s.desc? i) ∧ t = { s with descs := t.descs, pins := { s.pins with gateArm := true } }) ∧
    (e.p.arms = false → e.admitted = true → ∃ t, exec (.gateHold d) s = .next t ∧ t.desc? d = some { e with begun := true } ∧
      (∀ i, i ≠ d → t.desc? i = s.desc? i) ∧ t.pins.gateArm = s.descs.any (fun x => x.active && x.armsGate) ∧
      (∀ x : Desc, x.pen = e.pen → d < x.did → t.penBlocked x = true) ∧
      t = { s with descs := t.descs, pins := { s.pins with gateArm := t.pins.gateArm } }))

/-- CANCEL, admitted with its waits met: where every target has completed it ends DONE. A target fetched or held ends
CANCELLED at once, never admitted, and nothing else changes. An admitted target stops at its cancel points and ends
CANCELLED with digest zero (or with the status of a check or a twin pair that it meets on its way there), no fold runs
it any more, and what no execution writes stays. A TALLY whose record is not yet folded ends so, its record dropped;
one whose record is folded runs on, as does a VSTORE or VMOVE that has issued its first write: then nothing changes.
While a target stands, the CANCEL itself stays admitted. (R231, R166, R185) -/
def Obligations.CancelEndsItsTargets : Prop :=
  ∀ (s : State) (d : Nat) (e : Desc) (pts : List (Nat × Progress)), s.live = true → s.desc? d = some e → e.active = true →
    e.isOpc .cancel = true → s.waitsMet e = true → e.folds = [] →
    ((∀ i ∈ e.targets, s.desc? i = none) → e.cov = [] → e.accs = [] → e.marked = false →
      ∃ t, exec (.cancel d pts) s = .next t ∧
        t.desc? d = some { e with stage := .ended, status := .done, noted := false, digest := 0, tDone := s.tick } ∧
        (∀ i, i ≠ d → t.desc? i = s.desc? i) ∧
        t = { s with folds := t.folds, descs := t.descs, xfers := t.xfers, waiting := t.waiting,
                     pins := { s.pins with gateArm := t.pins.gateArm } }) ∧
    (∀ (i : Nat) (x : Desc), e.targets = [i] → i ≠ d → s.desc? i = some x →
      ((x.stage = .fetched ∨ ∃ w, x.stage = .held w) → ∃ t, exec (.cancel d pts) s = .next t ∧
        t.desc? i = some { x with stage := .ended, status := .cancelled, tAdmit := s.tick, tDone := s.tick, bound := none } ∧
        (∀ j, j ≠ i → t.desc? j = s.desc? j) ∧ t = { s with descs := t.descs }) ∧
      (∀ stop, x.active = true → x.isOpc .tally = false → stop = ((pts.find? (fun z => decide (z.1 = i))).map Prod.snd).getD [] →
        (s.pastWrite x stop = false → ∃ t x', exec (.cancel d pts) s = .next t ∧ t.desc? i = some x' ∧ x'.stage = .ended ∧
          (x'.status = .cancelled ∨ x'.status = .twinMismatch ∨ x'.status = .refusedRange) ∧
          (stop = [] → x.stalled = [] → x'.status = .cancelled) ∧
          x'.digest = 0 ∧ x'.tDone = s.tick ∧ x'.cells = x.cells ∧ t.desc? d = some e ∧ (∀ p, (t.fold p).running ≠ some i) ∧
          s.runFrame t) ∧
        (s.pastWrite x stop = true → exec (.cancel d pts) s = .next s)) ∧
      (∀ r, x.active = true → x.isOpc .tally = true → s.tally.waiting.find? (fun q => decide (q.did = i)) = some r →
        (r.folded = true → exec (.cancel d pts) s = .next s) ∧
        (r.folded = false → ∃ t x', exec (.cancel d pts) s = .next t ∧ t.desc? i = some x' ∧ x'.status = .cancelled ∧
          t.tally = { s.tally with waiting := s.tally.waiting.filter (fun q => q.did ≠ i) } ∧ (t.pen r.pen).stepOpen = r.stepOpen)))

/-- PLANLOAD, admitted with its waits met and not begun, for plan k, with no line held by a fold. A load whose image read
meets a fault ends XLAT_FAULT and leaves every plan as it was. CLEAR on a plan with no image ends DONE at once; on a
loaded plan the clear is pending and the PLANLOAD waits for the boundary. A load whose image's walk does not end at
its last cell, or names another pen, ends REFUSED_SHAPE; one that would bring the plan store over 16,384 cells ends
REFUSED_RANGE; both leave every plan. Else a plan with no image holds the cells that host memory holds and the
PLANLOAD ends DONE, and a loaded plan keeps its image and holds them staged until the boundary. No other plan changes;
registers, memories, pens and what no execution writes stay. (R235, R233, R200) -/
def Obligations.PlanloadStagesOrLoads : Prop :=
  ∀ (s : State) (d : Nat) (e : Desc) (k pen : Nat) (p : Plan), s.live = true → s.desc? d = some e → e.active = true →
    e.isOpc .planload = true → s.waitsMet e = true → e.begun = false → k = fld e.p.aux 0 10 → pen = fld e.p.aux 32 12 →
    p = sget Plan.blank s.plans k → (∀ y, p.staged = some y → y.2.2 ≠ d) → p.clear ≠ some d →
    e.cov = [] → e.accs = [] → e.marked = false → e.folds = [] → (∀ q, (s.fold q).egress = []) →
    (bit e.p.aux 10 = false → ∃ t x, exec (.planload d true) s = .next t ∧ t.desc? d = some x ∧ x.stage = .ended ∧
      x.status = .xlatFault ∧ x.digest = 0 ∧ s.runFrame t) ∧
    (∀ fault, bit e.p.aux 10 = true → ∃ t x, exec (.planload d fault) s = .next t ∧ t.desc? d = some x ∧
      (p.loaded = none → x.stage = .ended ∧ x.status = .done ∧ t.plans = s.plans) ∧
      (p.loaded ≠ none → x = { e with begun := true } ∧
        sget Plan.blank t.plans k = { p with staged := none, clear := some d }) ∧
      (∀ j, j ≠ k → sget Plan.blank t.plans j = sget Plan.blank s.plans j) ∧
      t = { s with plans := t.plans, folds := t.folds, descs := t.descs, xfers := t.xfers, waiting := t.waiting,
                   pins := { s.pins with gateArm := t.pins.gateArm } }) ∧
    (∀ (g : Grat) (cells : List Cell), bit e.p.aux 10 = false → e.p.src0 = some g → cells = s.imageCells g.addr (g.sz 0 / 64) →
      ∃ t x, exec (.planload d false) s = .next t ∧ t.desc? d = some x ∧
        (planImageOk cells pen = false → x.stage = .ended ∧ x.status = .refusedShape ∧ t.plans = s.plans) ∧
        (planImageOk cells pen = true → 16384 < s.storeUsed k + cells.length →
          x.stage = .ended ∧ x.status = .refusedRange ∧ t.plans = s.plans) ∧
        (planImageOk cells pen = true → s.storeUsed k + cells.length ≤ 16384 → p.loaded = none →
          x.stage = .ended ∧ x.status = .done ∧
          sget Plan.blank t.plans k = { loaded := some (pen, cells), staged := none, clear := none, bad := [] }) ∧
        (planImageOk cells pen = true → s.storeUsed k + cells.length ≤ 16384 → p.loaded ≠ none →
          x = { e with begun := true } ∧ sget Plan.blank t.plans k = { p with staged := some (pen, cells, d), clear := none }) ∧
        (∀ j, j ≠ k → sget Plan.blank t.plans j = sget Plan.blank s.plans j) ∧
        t = { s with plans := t.plans, folds := t.folds, descs := t.descs, xfers := t.xfers, waiting := t.waiting, snOut := t.snOut,
                     freeCtr := t.freeCtr, ports := { s.ports with last := t.ports.last, gateSn := t.ports.gateSn },
                     pins := { s.pins with gateArm := t.pins.gateArm } })

/-- TALLY, admitted with its waits met, while the tally book takes runs and every earlier DIGEST with RUN = 1 and TALLY of
its pen is done: its run record, with the layers that the pen's run has from earlier STEPs, waits unfolded behind
those that wait, and the pen's next run opens at the TALLY's STEP. While one of those is not done nothing changes.
LEAF_FOLD, once the book is MOUNTED, gives the oldest unfolded record the open epoch's number and its leaf's place
there and appends that leaf, which counts an NMV where the record marks a model version change. RUN_LOG_WRITE issues
the writes of the oldest folded record to the run log's slots where the log has room and an ID is free for every line;
where it has none, one event is queued and the record waits. Nothing else changes. (R285, R286, R305, R306, R308,
R310) -/
def Obligations.RunRecordsAreBuiltFoldedAndLogged : Prop :=
  (∀ (s : State) (d : Nat) (e : Desc), s.desc? d = some e →
    (s.stileReady .tally d = true → s.tallyReady e = true → ∃ t r, exec (.tally d) s = .next t ∧
      t.tally.waiting = s.tally.waiting ++ [r] ∧ r.did = d ∧ r.pen = e.pen ∧ r.folded = false ∧
      r.layers = (s.pen e.pen).layers.filter (fun l => decide (l.step < e.step)) ∧ r.stepOpen = (s.pen e.pen).stepOpen ∧
      r.bytes = runBytes e (s.tallySrc e) (sortLayers r.layers) r.stoch r.mv (((s.pen e.pen).stepOpen).getD s.stile.stepOn) ∧
      (t.pen e.pen).stepOpen = some e.step ∧
      (t.pen e.pen).layers = (s.pen e.pen).layers.filter (fun l => decide (e.step ≤ l.step)) ∧
      (∀ q, q ≠ e.pen → t.pen q = s.pen q) ∧
      t = { s with tally := { s.tally with waiting := t.tally.waiting, epoch := t.tally.epoch }, pens := t.pens, evt := t.evt,
                   cnt := t.cnt, ecc := t.ecc, handed := t.handed }) ∧
    ((s.stileReady .tally d = false ∨ s.tallyReady e = false) → exec (.tally d) s = .next s)) ∧
  (∀ (s : State) (e e' : Epoch) (r f : RunRec), s.live = true → s.tally.st = .mounted → s.tally.stop = .no →
    s.tally.epoch = some e → s.tally.waiting.find? (fun x => !x.folded) = some r → f = r.fold e.seq e.leaves.length →
    e' = { e with leaves := e.leaves ++ [f.leaf], nmv := e.nmv + b2n r.mv } →
    exec .leafFold s = .next { s with tally := { s.tally with waiting := putRun f s.tally.waiting, epoch := some e' } }) ∧
  (∀ (s : State) (r : RunRec), s.live = true → s.cfg.enable = true → s.runLogging = false →
    s.tally.waiting.find? (fun x => x.folded) = some r →
    (∀ u lines writes, s.runRoom r = true →
      lines = (List.range r.cells).map (fun i => (64 * fld s.cfg.runlogBase.toNat 6 42 +
        64 * ((s.logs.runW.toNat + i) % 2 ^ fld s.cfg.runlogBase.toNat 0 5)) / 64) →
      writes = (List.range r.cells).flatMap (fun i => bytesAt (64 * fld s.cfg.runlogBase.toNat 6 42 +
        64 * ((s.logs.runW.toNat + i) % 2 ^ fld s.cfg.runlogBase.toNat 0 5)) ((r.bytes.drop (64 * i)).take 64)) →
      ({ s with logs := { s.logs with runFull := false } } : State).issueOwn (.runLog r.did r.cells) true lines writes = some u →
      ∃ t, exec .runLogWrite s = .next t ∧
        t.own = s.own ++ [{ key := s.nextKey, kind := .runLog r.did r.cells, writes := writes, waiting := false }] ∧
        t = { s with logs := { s.logs with runFull := false }, own := t.own, ports := t.ports, freeCtr := t.freeCtr,
                     nextKey := t.nextKey, snOut := t.snOut }) ∧
    (s.runRoom r = false → s.logs.runFull = false → ∃ t, exec .runLogWrite s = .next t ∧ s.logged t 0x010F 0 ∧
      t.logs = { s.logs with runFull := true } ∧ ({ s with logs := t.logs } : State).onlyEvents t) ∧
    (s.runRoom r = false → s.logs.runFull = true → exec .runLogWrite s = .next s))

/-- PREEMPTION_SUSPEND on a fold that runs a background descriptor and holds no suspended one, with a bounded descriptor
ready there, at a unit not behind what has committed and before the last: the fold goes on as far as the crook lets it
towards that unit; once it has come there (at once where it stands there already) it runs nothing and holds the
descriptor suspended for that preemptor, its SROW says SUSP and carries the descriptor's TAG and BRAND, and its
latches are clear. No other descriptor moves. SUSPENDED_RESUME on a present fold that runs nothing, with no pause,
whose suspended descriptor may resume: the fold runs it again, SROW is as after a reset, its registers are as they
were, and its latches are clear but for the route that a SHUFFLE loads again. What no execution writes stays; one that
may not resume yet stays suspended. (R163, R164, R165, R225, R162, R147) -/
def Obligations.PreemptionSuspendsAndResumes : Prop :=
  (∀ (s u : State) (d units : Nat) (fold : BitVec 6) (e b x : Desc), s.desc? d = some e → s.preemptor fold.toNat = some b →
    s.runsOn e fold.toNat = true → e.ranked = false → (s.lfold fold.toNat).susp = none →
    1 ≤ units → e.at_ fold.toNat ≤ units → units < e.unitsOn fold.toNat →
    u = s.advanceOne d fold.toNat units → u.desc? d = some x →
    (e.at_ fold.toNat = units → e.stalled = [] → u = s) ∧
    (x.at_ fold.toNat ≠ units → exec (.preemptionSuspend d fold units) s = .next u) ∧
    (x.at_ fold.toNat = units → x.active = true → ∃ t y, exec (.preemptionSuspend d fold units) s = .next t ∧ t.desc? d = some y ∧
      y.stage = e.stage ∧ y.cells = e.cells ∧ y.prog = x.prog ∧ (t.lfold fold.toNat).running = none ∧
      (t.lfold fold.toNat).susp = some { did := d, why := .preempt b.did, ready := false } ∧
      (t.lfold fold.toNat).srow.susp = true ∧ (t.lfold fold.toNat).srow.tag = BitVec.ofNat 32 e.p.tag ∧
      (t.lfold fold.toNat).srow.brand = BitVec.ofNat 16 e.p.brand ∧ (t.lfold fold.toNat).latches = Latches.clear ∧
      (∀ i, i ≠ d → (t.desc? i).map (fun y => (y.cells, y.stage, y.prog)) = (s.desc? i).map (fun y => (y.cells, y.stage, y.prog))) ∧
      s.runFrame t)) ∧
  (∀ (s : State) (fold : BitVec 6) (u : Susp), (s.lfold fold.toNat).susp = some u →
    (s.live = true → s.pause.req = false → s.pause.paused = false → s.present fold.toNat = true →
      (s.lfold fold.toNat).running = none → s.suspReady u = true →
      ∃ t, exec (.suspendedResume fold) s = .next t ∧ (t.lfold fold.toNat).running = some u.did ∧
        (t.lfold fold.toNat).susp = none ∧ (t.lfold fold.toNat).srow = Srow.blank ∧
        ((∀ e, s.desc? u.did = some e → e.isOpc .shuffle = false) → (t.lfold fold.toNat).latches = Latches.clear) ∧
        (∀ p, (t.fold p).vregs = (s.fold p).vregs) ∧
        (∀ i, (t.desc? i).map (fun y => (y.cells, y.stage, y.prog)) = (s.desc? i).map (fun y => (y.cells, y.stage, y.prog))) ∧
        t.host = s.host ∧ t.past = s.past ∧ s.runFrame t) ∧
    ((s.suspReady u = false ∨ (s.lfold fold.toNat).running ≠ none) → exec (.suspendedResume fold) s = .next s))

/-- CROOK_GRANT starts the descriptor where it may start, and the fold commits the units before the one that still has a
line to ask for, of which there are none where the unit that it works on has one. Then, for a fold that may ask and
the line that comes next in its order, where no other fold's request goes first, the port can take it, the drover can
batch it and a landing slot is free for a read: with bytes left of the entitlement or the pen's bucket, one
transaction is outstanding more and its request has left on the port, with the stream identifier, the graticule's
hint, QoS 15 for a bounded descriptor of a reserved pen and at most 14 else, timed out SN_TMO ticks later; 64 bytes
more count as issued, a line past the entitlement takes 64 tokens from its pen's bucket, and the fold's request no
longer waits. With no bytes left the request waits from that tick on, and nothing is issued. For a line that is not
the next nothing changes further. (R239, R240, R243, R244, R245, R246, R247, R258, R264) -/
def Obligations.GrantsIssueOneLineEach : Prop :=
  ∀ (s u : State) (d p v : Nat) (fold : BitVec 6) (line : BitVec 42) (write : Bool) (e : Desc) (h : HLine)
      (beat : BitVec 512 × BitVec 64 × Bool), s.live = true →
    s.pause.paused = false → u = (s.ensure d).comeOn d fold.toNat → u.desc? d = some e → u.phys fold.toNat = some p → e.active = true →
    (if write then u.nextWrite e fold.toNat p = some (v, h, beat) ∧ u.runsOn e fold.toNat = true
     else u.nextRead e fold.toNat = some (v, h) ∧ beat = (0, 0, false) ∧ u.mayFetchAhead e fold.toNat = true ∧
       u.mayRead e fold.toNat p v h = true ∧ u.landingUsed p < 64) →
    (∀ x, (s.ensure d).desc? d = some x → (s.ensure d).phys fold.toNat = some p →
      (s.ensure d).cameTo x fold.toNat p ≤ x.at_ fold.toNat → u = s.ensure d) ∧
    (∀ bs port id w r, h.line = line.toNat → u.batchFor p d v (e.linePort h.line write) write = some bs →
      u.portOpen e h.line write = true → u.firstAsking e fold.toNat = true → u.lineId e h.line write = some (port, id, w) →
      r = { port := port, write := write, id := id, line := line.toNat, sid := u.cfg.smmuSid,
            qos := (if e.bounded = true ∧ (u.pen e.pen).rsv = true then 15 else Nat.min 14 (u.pen e.pen).ent.qos),
            noalloc := h.noalloc, msg := false, data := beat.1, strb := beat.2.1, poison := beat.2.2 } →
      (0 < (u.grants e).1 + (u.grants e).2 → ∃ t x, exec (.crookGrant d fold line write) s = .next t ∧ t.desc? d = some x ∧
        x.issued = e.issued + 64 ∧ x.cells = e.cells ∧ x.stage = e.stage ∧ x.prog = e.prog ∧ (∀ i, i ≠ d → t.desc? i = u.desc? i) ∧
        t.snOut = u.snOut ++ [r] ∧
        t.ports.txns = u.ports.txns ++ [
          { port := port, id := id, write := write, line := line.toNat, owner := .drover p d, unit := v, req := r, qos := r.qos,
            aged := 0, arrival := u.tick, limit := u.tick + u.cfg.snTmo.toNat, retryAt := none }] ∧
        (write = false ∨ e.p.ordered = false → port = snPort line.toNat) ∧ (t.fold p).batches = bs ∧
        (t.pen e.pen).tokens = (if (u.grants e).1 = 0 then u.bucket e.pen - 64 else (u.pen e.pen).tokens) ∧
        (∀ q, q ≠ e.pen → t.pen q = u.pen q) ∧ (∀ y ∈ t.waiting, ¬(y.did = d ∧ y.fold = fold.toNat)) ∧
        t = { u with ports := t.ports, descs := t.descs, folds := t.folds, pens := t.pens, freeCtr := t.freeCtr, snOut := t.snOut,
                     waiting := t.waiting }) ∧
      ((u.grants e).1 + (u.grants e).2 = 0 → ∃ t, exec (.crookGrant d fold line write) s = .next t ∧
        (∃ y ∈ t.waiting, y.did = d ∧ y.fold = fold.toNat ∧ y.tick = u.askedAt d fold.toNat) ∧ t = { u with waiting := t.waiting })) ∧
    (h.line ≠ line.toNat → exec (.crookGrant d fold line write) s = .next u)

/-- RING_TRANSFER_START on a started descriptor that has come to transfer i: where no other transfer in progress, and no
queued one that comes before it by tick of asking, STEP and index, needs its send path, receive path or one of its
link directions, it holds them until as many ticks have passed as 16ths, rounded up, of its beats and 8 FCLK cycles a
hop, its beats arrive, and the two folds wake; otherwise it is queued and nothing else changes. The other transfers,
the registers and the running descriptors of the folds stay, and a VMOVE's transfer changes no memory. A transfer that
its folds have not come to, or that has started, changes nothing. (R250, R252, R253, R376) -/
def Obligations.RingTransfersTakeAllOrWait : Prop :=
  ∀ (s u : State) (d i : Nat) (e : Desc) (x : Transfer), s.live = true → u = s.ensure d → u.desc? d = some e → e.active = true →
    e.begun = true → u.transfer e i = some x →
    (x.until_ = none → u.legDue e i = true →
      ((∀ z ∈ u.xfers, ¬(z.did = x.did ∧ z.index = x.index) → u.shareRing x z = true →
          (∃ w, z.until_ = some w ∧ w ≤ u.tick) ∨ (z.until_ = none ∧ x.before z = true)) →
        ∃ t, exec (.ringTransferStart d i) s = .next t ∧
          { x with until_ := some (u.tick + cdiv (x.beats + 8 * (ringHops u.n x.src x.dst).1) 16) } ∈ t.xfers ∧
          (∀ z, ¬(z.did = x.did ∧ z.index = x.index) → (z ∈ t.xfers ↔ z ∈ u.xfers)) ∧
          (∀ p, (t.fold p).vregs = (u.fold p).vregs ∧ (t.fold p).running = (u.fold p).running) ∧
          (e.isOpc .tprod = false → t.host = u.host ∧ t.past = u.past ∧ t.raddle = u.raddle) ∧ u.runFrame t) ∧
      ((∃ z ∈ u.xfers, ¬(z.did = x.did ∧ z.index = x.index) ∧ u.shareRing x z = true ∧
          ((∃ w, z.until_ = some w ∧ u.tick < w) ∨ (z.until_ = none ∧ x.before z = false))) →
        ∃ t, exec (.ringTransferStart d i) s = .next t ∧ x ∈ t.xfers ∧
          (∀ z, ¬(z.did = x.did ∧ z.index = x.index) → (z ∈ t.xfers ↔ z ∈ u.xfers)) ∧ t = { u with xfers := t.xfers })) ∧
    ((x.until_ ≠ none ∨ u.legDue e i = false) → exec (.ringTransferStart d i) s = .next u)

/-- An OKAY read response to a drover's read takes its transaction and lands the line in the fold's landing buffer, in the
place of its unit, raddled where poisoned, unless the descriptor has ended. To a read of Polter's own, the line stands
in host memory as it says. An OKAY write response to a drover's write takes its transaction, the strobed bytes of its
data beat stand in host memory, and T_DONE of an ended descriptor that was admitted moves to that tick. To a write of
Polter's own, the bytes of that line stand in host memory; while other lines of the access are out, nothing else
follows; with the last of an event record the W field of PLT_EVT_IDX advances, with the last of a message for a
cleared mask the vector's PEND bit falls, and with the last of a run record its TALLY ends with the run digest's first
eight bytes. In block reset a read response takes its transaction alone, and a write response that of a write, whose
bytes land. (R258, R267, R239, R217, R256, R261, R335) -/
def Obligations.ResponsesLandLines : Prop :=
  (∀ (s : State) (port : BitVec 3) (id : BitVec 10) (x : BitVec 512) (poison : Bool) (a : Txn),
    s.txn? port.toNat id.toNat = some a →
    (s.up = true → a.write = false → ∀ p d, a.owner = .drover p d →
      ∃ t, exec (.snReadResponse port id x poison) s = .next t ∧ t.ports.txns = s.ports.txns.erase a ∧
        (t.fold p).landing = (if (s.desc? d).any (fun e => e.active) = true then
          landIn { did := d, unit := a.unit, line := a.line, data := x, rad := poison } (s.fold p).landing else (s.fold p).landing) ∧
        (∀ q, q ≠ p → t.fold q = s.fold q) ∧ t = { s with ports := t.ports, folds := t.folds }) ∧
    (s.up = true → a.write = false → ∀ key, a.owner = .own key →
      ∃ t, exec (.snReadResponse port id x poison) s = .next t ∧ t.ports.txns = s.ports.txns.erase a ∧
        t.getHost (64 * a.line) 64 = leBytes x.toNat 64 ∧
        (∀ k, k / 64 ≠ a.line → sget 0 t.host k = sget 0 s.host k) ∧
        t = { s with ports := t.ports, host := t.host, poison := t.poison }) ∧
    (s.up = true → a.write = true → ∀ p d, a.owner = .drover p d →
      ∃ t, exec (.snWriteResponse port id) s = .next t ∧ t.ports.txns = s.ports.txns.erase a ∧
        (∀ k, k < 64 → bit a.req.strb.toNat k = true → sget 0 t.host (64 * a.line + k) = a.req.data.extractLsb' (8 * k) 8) ∧
        (∀ j, (∀ k, k < 64 → bit a.req.strb.toNat k = true → j ≠ 64 * a.line + k) → sget 0 t.host j = sget 0 s.host j) ∧
        (∀ e, s.desc? d = some e → t.desc? d = some (if e.stage = .ended ∧ e.admitted = true then { e with tDone := s.tick } else e)) ∧
        (∀ i, i ≠ d → t.desc? i = s.desc? i) ∧ (∀ q, (t.fold q).landing = (s.fold q).landing) ∧
        t = { s with ports := t.ports, folds := t.folds, descs := t.descs, host := t.host, poison := t.poison }) ∧
    (s.up = false → (∃ t, exec (.snReadResponse port id x poison) s = .next t ∧ t.ports.txns = s.ports.txns.erase a ∧
        t = { s with ports := t.ports }) ∧
      (a.write = false → exec (.snWriteResponse port id) s = exec (.snReadResponse port id x poison) s) ∧
      (a.write = true → ∃ t, exec (.snWriteResponse port id) s = .next t ∧ t.ports.txns = s.ports.txns.erase a ∧
        (∀ k, k < 64 → bit a.req.strb.toNat k = true → sget 0 t.host (64 * a.line + k) = a.req.data.extractLsb' (8 * k) 8) ∧
        t = { s with ports := t.ports, host := t.host, poison := t.poison }))) ∧
  (∀ (s : State) (port : BitVec 3) (id : BitVec 10) (a : Txn) (key : Nat) (o : Own), s.txn? port.toNat id.toNat = some a →
    s.up = true → a.write = true → a.owner = .own key → s.own.find? (fun y => decide (y.key = key)) = some o → o.waiting = false →
    (o.writes.map Prod.fst).Nodup →
    ∃ t, exec (.snWriteResponse port id) s = .next t ∧
      (∀ w ∈ o.writes, w.1 / 64 = a.line → sget 0 t.host w.1 = w.2) ∧
      (∀ k, (∀ w ∈ o.writes, w.1 = k → w.1 / 64 ≠ a.line) → sget 0 t.host k = sget 0 s.host k) ∧
      t.past = s.past ∧ t.cfg = s.cfg ∧ t.mram = s.mram ∧
      ((∃ z ∈ s.ports.txns.erase a, z.owner = .own key) →
        t.ports.txns = s.ports.txns.erase a ∧
        t = { s with ports := t.ports, host := t.host, poison := t.poison }) ∧
      ((∀ z ∈ s.ports.txns.erase a, z.owner ≠ .own key) →
        (o.kind = .event → t.evt.w = s.evt.w + 1 ∧ t.evt.queue = s.evt.queue ∧ (∀ y ∈ t.own, y.key ≠ key) ∧
          t.cnt = setNth s.cnt 11 (s.cnt.getD 11 0 + 1) ∧ t.descs = s.descs) ∧
        (∀ v, o.kind = .message v true → bit t.intPend.toNat v = false ∧ t.descs = s.descs ∧ (∀ y ∈ t.own, y.key ≠ key)) ∧
        (∀ d c r e, s.live = true → o.kind = .runLog d c → s.tally.waiting.find? (fun q => decide (q.did = d)) = some r →
          s.desc? d = some e → e.active = true →
          t.logs.runW = s.logs.runW + BitVec.ofNat 32 c ∧ (∀ q ∈ t.tally.waiting, q.did ≠ d) ∧
          ∃ g, g = BitVec.ofNat 64 (leNat ((r.bytes.drop 160).take 8)) ∧
            t.desc? d = some { e with stage := .ended, status := .done, digest := g, tDone := s.tick })))

/-- RETRY makes the request due for reissue one tick later, with its ID, place and limit as they are; that of a drover
whose fold was reset is withdrawn. RETRY_REISSUE sends a request that is due and goes first at its port again, with
its QoS as aged, and no other. QOS_AGING raises the QoS of a request that has waited 1,024 FCLK cycles more at its
port by one, never above 14, and not before. A response that names no outstanding transaction queues one SN_UNEXPECTED
record with port and ID and does nothing else; that of a quarantined ID frees the ID and queues none. DERR on a
drover's write marks the line as unwritten in its descriptor and queues an SN_DERR write record with the VA; on a
drover's read it lands the response's data raddled and queues an SN_DERR read record. On a write of Polter's own the
bytes of that line are not stored. (R266, R268, R247, R267, R258, R261) -/
def Obligations.UnusualResponsesAreHandled : Prop :=
  (∀ (s : State) (port : BitVec 3) (id : BitVec 10) (a : Txn), s.up = true → s.txn? port.toNat id.toNat = some a →
    (s.orphan a.owner = false → exec (.snRetry port id) s = .next { s with ports := { s.ports with
                                                                                      txns := s.ports.txns.map (fun x => if x = a then { a with retryAt := some (s.tick + 1) } else x) } }) ∧
    (s.orphan a.owner = true → ∃ t, exec (.snRetry port id) s = .next t ∧ t.ports.txns = s.ports.txns.erase a ∧
      t = { s with ports := t.ports })) ∧
  (∀ (s : State) (port : BitVec 3) (id : BitVec 10) (a : Txn), s.up = true → s.waitingTxn port.toNat id.toNat = some a →
    (∀ r, s.orphan a.owner = false → a.retryAt = some r → r ≤ s.tick → s.winsPort a = true →
      ∃ t, exec (.retryReissue port id) s = .next t ∧ t.ports.txns = s.ports.txns.erase a ++ [{ a with retryAt := none }] ∧
        t.snOut = s.snOut ++ [{ a.req with qos := a.qos + a.aged }] ∧ t = { s with ports := t.ports, snOut := t.snOut }) ∧
    (s.orphan a.owner = false → ((∀ r, a.retryAt = some r → s.tick < r) ∨ s.winsPort a = false) →
      exec (.retryReissue port id) s = .next s) ∧
    (a.qos + a.aged < 14 → a.arrival + 64 * (a.aged + 1) ≤ s.tick → exec (.qosAging port id) s = .next { s with ports := { s.ports with
                                                                                                                           txns := s.ports.txns.map (fun x => if x = a then { a with aged := a.aged + 1 } else x) } }) ∧
    ((14 ≤ a.qos + a.aged ∨ s.tick < a.arrival + 64 * (a.aged + 1)) → exec (.qosAging port id) s = .next s)) ∧
  (∀ (s : State) (port : BitVec 3) (id : BitVec 10) (wr : Bool), s.up = true →
    (s.ports.quar.contains (port.toNat, id.toNat) = false → ∃ t, exec (.snUnexpected port id wr) s = .next t ∧ s.onlyEvents t ∧
      s.logged t 0x0208 (port.toNat + 2 ^ 4 * id.toNat)) ∧
    (s.ports.quar.contains (port.toNat, id.toNat) = true → exec (.snUnexpected port id wr) s = .next { s with ports := { s.ports with
                                                                                                                         quar := s.ports.quar.filter (· ≠ (port.toNat, id.toNat)) } })) ∧
  (∀ (s : State) (port : BitVec 3) (rs : DataResponse) (a : Txn) (p d : Nat) (e : Desc), s.up = true →
    s.txn? port.toNat rs.id.toNat = some a → a.owner = .drover p d → s.desc? d = some e →
    ∃ t, exec (.derr port rs) s = .next t ∧ t.ports.txns = s.ports.txns.erase a ∧
      t.host = s.host ∧ t.past = s.past ∧ t.cfg = s.cfg ∧ (∀ i, i ≠ d → t.desc? i = s.desc? i) ∧
      (a.write = true → s.logged t 0x0207 (64 * a.line) ∧ ∃ x, t.desc? d = some x ∧ a.line ∈ x.derr ∧ x.stage = e.stage) ∧
      (a.write = false → s.logged t 0x0206 (64 * a.line) ∧ t.descs = s.descs ∧ (e.active = true → (t.fold p).landing =
        landIn { did := d, unit := a.unit, line := a.line, data := rs.data, rad := true } (s.fold p).landing))) ∧
  (∀ (s : State) (port : BitVec 3) (rs : DataResponse) (a : Txn) (key : Nat), s.up = true →
    s.txn? port.toNat rs.id.toNat = some a → a.owner = .own key → a.write = true →
    ∃ t, exec (.derr port rs) s = .next t ∧ s.logged t 0x0207 (64 * a.line) ∧
      (∀ k, k / 64 = a.line → sget 0 t.host k = sget 0 s.host k) ∧ t.past = s.past ∧ t.cfg = s.cfg)

/-- XSTALL, XDENY and SN_TIMEOUT each take their transaction. For a fold that runs the descriptor, holds no fault of it
and stands at the units given, XSTALL queues one XLAT_STALL record with VA and access kind, voids the descriptor's
bound and those of the descriptors queued behind it on its folds that are not PINNED, and the fold suspends the
descriptor with the tick and the XLAT_WAIT of the fault, or, where it holds a suspended one, waits where it stands; a
stalled write of a committed unit is kept to be written again. XDENY queues one XLAT_DENY record (and one PINNED_FALSE
record for a PINNED descriptor), voids the same bounds, and the descriptor ends XLAT_FAULT with digest zero.
SN_TIMEOUT, at the transaction's limit and not before, quarantines its ID, queues one SN_TIMEOUT record and ends the
descriptor PORT_TIMEOUT. (The ends are stated with no twin pair active and no check pass to make.) XSTALL and XDENY do
the same to an access of Polter's own: a faulted completion record waits for its retry and its ring counts as faulted;
a faulted burst drops its pen from the fetch queue until it is nudged again. (R226, R163, R274, R275, R276, R268,
R277, R228) -/
def Obligations.TranslationFaultsStallOrEnd : Prop :=
  (∀ (s : State) (port : BitVec 3) (id : BitVec 10) (a : Txn) (p d f : Nat) (e : Desc), s.up = true →
    s.txn? port.toNat id.toNat = some a → a.owner = .drover p d → s.desc? d = some e → s.logical p = some f → e.active = true →
    e.admitted = true →
    (∀ units row, e.begun = true → s.works e f = true → s.faultedOn f d = false → e.stalled = [] → units ≤ e.at_ f → row ≤ e.at_ f →
      e.at_ f < e.unitsOn f →
      ∃ t x, exec (.xstall port id units row) s = .next t ∧ t.desc? d = some x ∧ x.stage = .admitted ∧ x.cells = e.cells ∧
        (e.bound.isSome = true → x.void = true) ∧ s.logged t 0x0201 (vaInfo a.line a.write) ∧ x.prog = e.prog ∧
        (a.write = true → a.unit < e.at_ f → x.stalled = [{ fold := f, unit := a.unit, line := a.line, data := a.req.data,
                                                            strb := a.req.strb, poison := a.req.poison }]) ∧ (a.write = false ∨ e.at_ f ≤ a.unit → x.stalled = []) ∧
        ((s.lfold f).susp = none → (t.lfold f).running = none ∧
          (t.lfold f).susp = some { did := d, why := .fault s.tick s.cfg.xlatWait.toNat, ready := false }) ∧
        (∀ u, (s.lfold f).susp = some u → u.did ≠ d → (t.lfold f).running = some d ∧ (t.lfold f).susp = (s.lfold f).susp ∧
          (t.lfold f).inPlace = some { did := d, why := .fault s.tick s.cfg.xlatWait.toNat, ready := false }) ∧
        (e.p.pinned = false → ∀ i y, i ≠ d → s.desc? i = some y → y.active = true → y.bound.isSome = true → e.step < y.step →
          (∃ g ∈ y.folds, g ∈ e.folds) → y.p.pinned = false → ∃ z, t.desc? i = some z ∧ z.void = true) ∧
        t.ports.txns = s.ports.txns.erase a ∧ ({ s with ports := t.ports } : State).runFrame t) ∧
    ((∀ w ∈ s.twins, w.active = false) → e.checking = false →
      (∀ pts, ∃ t x, exec (.xdeny port id pts) s = .next t ∧ t.desc? d = some x ∧ x.stage = .ended ∧ x.status = .xlatFault ∧
        x.digest = 0 ∧ x.tDone = s.tick ∧ s.logged t 0x0202 (vaInfo a.line a.write) ∧
        (e.p.pinned = true → s.evtUsed + 1 < s.evtFree + 64 →
          ∃ r ∈ t.evt.queue, r.code = 0x0204 ∧ r.info = BitVec.ofNat 64 (64 * a.line)) ∧ (e.bound.isSome = true → x.void = true) ∧
        (e.p.pinned = false → ∀ i y, i ≠ d → s.desc? i = some y → y.active = true → y.bound.isSome = true → e.step < y.step →
          (∃ g ∈ y.folds, g ∈ e.folds) → y.p.pinned = false → ∃ z, t.desc? i = some z ∧ z.void = true) ∧
        (∀ q, (t.fold q).running ≠ some d) ∧
        t.ports.txns = s.ports.txns.erase a ∧ ({ s with ports := t.ports } : State).runFrame t) ∧
      (∀ pts, s.ports.txns.find? (fun x => decide (x.port = port.toNat ∧ x.id = id.toNat ∧ x.limit ≤ s.tick)) = some a →
        ∃ t x, exec (.snTimeout port id pts) s = .next t ∧ t.desc? d = some x ∧ x.stage = .ended ∧
        x.status = .portTimeout ∧ x.digest = 0 ∧ x.tDone = s.tick ∧ s.logged t 0x0209 (port.toNat + 2 ^ 4 * id.toNat) ∧
        t.ports.txns = s.ports.txns.erase a ∧ t.ports.quar = s.ports.quar ++ [(port.toNat, id.toNat)] ∧
        ({ s with ports := t.ports } : State).runFrame t))) ∧
  (∀ (s : State) (port : BitVec 3) (id : BitVec 10) (pts : Progress),
    (∀ a ∈ s.ports.txns, a.port = port.toNat → a.id = id.toNat → s.tick < a.limit) → exec (.snTimeout port id pts) s = .next s) ∧
  (∀ (s : State) (port : BitVec 3) (id : BitVec 10) (a : Txn) (key : Nat) (o : Own), s.up = true →
    s.txn? port.toNat id.toNat = some a → a.owner = .own key → s.own.find? (fun y => decide (y.key = key)) = some o →
    (∀ units row pts, exec (.xdeny port id pts) s = exec (.xstall port id units row) s) ∧
    (∀ units row, ∃ t, exec (.xstall port id units row) s = .next t ∧
      (∀ r d, o.kind = .completion r d → (t.ring r).faulted = true ∧ (∀ y ∈ t.own, y.key = key → y.waiting = true) ∧
        ((s.ring r).faulted = false → s.logged t 0x0205 (3 + 2 ^ 8 * (64 * a.line / 256 % 2 ^ 40))) ∧
        ((s.ring r).faulted = true → t.evt = s.evt)) ∧
      (∀ p, o.kind = .burst p → (t.pen p).passed = true ∧ (∀ b ∈ t.stile.bursts, b.pen ≠ p) ∧ (∀ q ∈ t.stile.queue, q.1 ≠ p)) ∧
      t.host = s.host ∧ t.past = s.past ∧ t.cfg = s.cfg ∧ t.descs = s.descs ∧ t.folds = s.folds))

/-- For a present fold whose FOLD bit is set and that waits at an unserviced fault of an admitted descriptor, with no
pause: XRESUME_RETRY makes a suspended descriptor ready to resume, or lets one that waits in place run on;
XRESUME_ABORT ends the descriptor XLAT_FAULT with digest zero. Either, on a fold that waits at no fault, queues one
XRESUME_IGNORED record and does nothing else. During a pause a write for a fold that does not wait in place is kept
for the resume. XLAT_WAIT_EXPIRY ends the descriptor XLAT_FAULT once the XLAT_WAIT read at the fault has passed, and
does nothing before that or where it was zero. What no execution writes stays. (The ends are stated with no twin pair
active and no check pass to make.) (R274, R289, R355, R163) -/
def Obligations.XresumeServicesFaults : Prop :=
  (∀ (s : State) (fold : BitVec 6) (u : Susp) (e : Desc), s.live = true → s.present fold.toNat = true →
    (s.lfold fold.toNat).fault = some u → s.desc? u.did = some e → e.active = true →
    (bit s.ready.fold.toNat fold.toNat = true → s.pause.req = false → s.pause.paused = false →
      ((s.lfold fold.toNat).inPlace = none → ∃ t, exec (.xresumeRetry fold) s = .next t ∧
        (t.lfold fold.toNat).susp = some { u with ready := true } ∧ (t.lfold fold.toNat).running = (s.lfold fold.toNat).running ∧
        t.descs = s.descs ∧ t.host = s.host ∧ t.past = s.past ∧ s.runFrame t) ∧
      ((s.lfold fold.toNat).inPlace = some u → ∃ t, exec (.xresumeRetry fold) s = .next t ∧ (t.lfold fold.toNat).inPlace = none ∧
        (t.lfold fold.toNat).running = (s.lfold fold.toNat).running ∧
        (∀ i, (t.desc? i).map (fun y => (y.cells, y.stage, y.prog)) = (s.desc? i).map (fun y => (y.cells, y.stage, y.prog))) ∧
        t.host = s.host ∧ t.past = s.past ∧ s.runFrame t) ∧
      ((∀ w ∈ s.twins, w.active = false) → e.checking = false →
        ∀ pts, ∃ t x, exec (.xresumeAbort fold pts) s = .next t ∧ t.desc? u.did = some x ∧ x.stage = .ended ∧ x.status = .xlatFault ∧
          x.digest = 0 ∧ x.tDone = s.tick ∧ (∀ q, (t.fold q).running ≠ some u.did) ∧ s.runFrame t)) ∧
    (∀ abort pts, bit s.ready.fold.toNat fold.toNat = true → (s.pause.req = true ∨ s.pause.paused = true) →
      (s.lfold fold.toNat).inPlace = none →
      exec (if abort then .xresumeAbort fold pts else .xresumeRetry fold) s =
        .next { s with pause := { s.pause with retry := s.pause.retry ++ [(fold.toNat, abort)] } }) ∧
    (∀ pts n l, u.why = .fault n l →
      ((∀ w ∈ s.twins, w.active = false) → e.checking = false → l ≠ 0 → n + l ≤ s.tick → (∀ x ∈ s.pause.retry, x.1 ≠ fold.toNat) →
        ∃ t x, exec (.xlatWaitExpiry fold pts) s = .next t ∧ t.desc? u.did = some x ∧ x.stage = .ended ∧ x.status = .xlatFault ∧
          x.digest = 0 ∧ x.tDone = s.tick ∧ s.runFrame t) ∧
      ((s.lfold fold.toNat).inPlace = none → (l = 0 ∨ s.tick < n + l) → exec (.xlatWaitExpiry fold pts) s = .next s))) ∧
  (∀ (s : State) (fold : BitVec 6) (pts : Progress), s.live = true → (s.lfold fold.toNat).fault = none →
    (∃ t, exec (.xresumeRetry fold) s = .next t ∧ s.onlyEvents t ∧ s.logged t 0x0203 0) ∧
    (∃ t, exec (.xresumeAbort fold pts) s = .next t ∧ s.onlyEvents t ∧ s.logged t 0x0203 0) ∧
    exec (.xlatWaitExpiry fold pts) s = .next s)

/-- COMPLETION_RECORD of an ended descriptor with no write unanswered, whose raddle map, where it has one, is written,
whose ring is well formed and sound, holds no record back, has room by its consumer word, and whose slot's port has an
ID: the write of its 32 bytes to the ring's next slot is issued, W and the CNT counter of completions advance by one,
and the descriptor is forgotten, so that what it released and its credit are free. Where the ring has no room the
record is held behind the others, the ring counts as full, one CPL_FULL record with the ring is queued, and the
descriptor stays. While its raddle map is on its way its record waits; with a write unanswered, or before the
descriptor has ended, nothing changes. CONSUMER_REREAD puts the consumer word into the ring and host memory and sends
held records for which there is room; where the read meets a fault the last word stays in force. (R214, R215, R216,
R217, R339, R368, R213, R388) -/
def Obligations.CompletionRecordsAreIssuedOrHeld : Prop :=
  (∀ (s u v w : State) (d r : Nat) (e x : Desc), s.desc? d = some e →
    (s.live = true → e.stage = .ended → s.writing d = false → u = (if e.tried = true then s else s.prepareRecord e) →
      u.desc? d = some x →
      ((x.tried = false ∨ u.mapOut d = true) → exec (.completionRecord d) s = .next u) ∧
      (x.tried = true → u.mapOut d = false → r = u.ringOf x → (u.ring r).bad = false → (u.ring r).full = false → v = u.readCons r →
        (v.ring r).held.contains d = false →
        ((v.ring r).held = [] → (v.ring r).faulted = false → (v.ring r).room = true → v.issueRecord x false = some w →
          ∃ t, exec (.completionRecord d) s = .next t ∧ t.desc? d = none ∧ (∀ i, i ≠ d → t.desc? i = v.desc? i) ∧
            t.own = u.own ++ [{ key := u.nextKey, kind := .completion r d, waiting := false,
                                writes := bytesAt ((v.ring r).base + 32 * ((v.ring r).w.toNat % 2 ^ (v.ring r).logsz))
                                  (recordBytes x (v.ring r).w.toNat (v.ring r).logsz) }] ∧
            (t.ring r).w = (v.ring r).w + 1 ∧ (t.ring r).held = [] ∧ (∀ q, q ≠ r → t.ring q = u.ring q) ∧
            (2 < u.cnt.length → t.cnt.getD 2 0 = u.cnt.getD 2 0 + 1) ∧ t.host = s.host ∧
            t.cfg = s.cfg ∧ t.past = s.past ∧ t.stile = s.stile ∧ t.mram = s.mram) ∧
        ((v.ring r).room = false → ∃ t, exec (.completionRecord d) s = .next t ∧ (t.ring r).held = (v.ring r).held ++ [d] ∧
          (t.ring r).full = true ∧ (t.ring r).w = (v.ring r).w ∧ u.logged t 0x010B r ∧
          (t.desc? d).map (fun y => y.cells) = some e.cells ∧ t.own = u.own ∧ t.folds = s.folds ∧ t.pens = s.pens))) ∧
    ((e.stage ≠ .ended ∨ s.writing d = true) → exec (.completionRecord d) s = .next s)) ∧
  (∀ (s : State) (ring : BitVec 8) (cons : BitVec 32) (fault : Bool), s.live = true → s.cfg.enable = true →
    (s.ring ring.toNat).loaded = true →
    ∃ t, exec (.consumerReread ring cons fault) s = .next t ∧ t.past = s.past ∧ t.cfg = s.cfg ∧
      (fault = true → t.host = s.host ∧ (t.ring ring.toNat).cons = (s.ring ring.toNat).cons ∧ (t.ring ring.toNat).consFault = true ∧
        t.descs = s.descs) ∧
      (fault = false → (t.ring ring.toNat).cons = cons ∧ (t.ring ring.toNat).consFault = false ∧
        t.getHost (s.cfg.doorbell.toNat + 32768 + 8 * ring.toNat) 4 = leBytes cons.toNat 4 ∧
        (∀ k, (k < s.cfg.doorbell.toNat + 32768 + 8 * ring.toNat ∨ s.cfg.doorbell.toNat + 32768 + 8 * ring.toNat + 4 ≤ k) →
          sget 0 t.host k = sget 0 s.host k) ∧
        ((s.ring ring.toNat).held = [] → t.descs = s.descs ∧ t.own = s.own)))

/-- INTERRUPT_MESSAGE takes the oldest due message: with its vector masked it is withheld and PEND is set; else, with an
ID free, the write of DATA to ADDR is issued. A write of PLT_INT_MASK sets the mask, and one message becomes due for
each vector whose mask falls while it pends and that has none on its way. EVENT_RECORD, with ENABLE = 1, room in the
ring, no event record in flight and an ID free, issues the oldest queued record at the next slot with its PHASE and
the count of records dropped, which is then zero. OWN_ACCESS_RETRY sends a write that waits again; where it meets a
fault again, nothing changes. Nothing else changes. (R218, R343, R344, R365, R366, R277) -/
def Obligations.MessagesAndEventRecordsAreSent : Prop :=
  (∀ (s : State) (v : Nat) (pend : Bool) (l : List (Nat × Bool)), s.up = true → s.msgs = (v, pend) :: l →
    (bit s.cfg.intMask.toNat v = true → exec .interruptMessage s = .next { s with
                                                                           msgs := l, intPend := (if pend = true then s.intPend else s.intPend ||| BitVec.ofNat 4 (2 ^ v)) }) ∧
    (∀ u a, bit s.cfg.intMask.toNat v = false → ({ s with msgs := l } : State).issueMessage v pend = some u →
      a = (s.cfg.msgAddr.getD v 0).toNat % 2 ^ 48 / 4 * 4 →
      ∃ t, exec .interruptMessage s = .next t ∧
        t.own = s.own ++ [{ key := s.nextKey, kind := .message v pend, waiting := false,
                            writes := bytesAt a (leBytes (s.cfg.msgData.getD v 0).toNat 4) }] ∧
        t = { s with msgs := l, own := t.own, ports := t.ports, freeCtr := t.freeCtr, nextKey := t.nextKey, snOut := t.snOut })) ∧
  (∀ (s : State) (m : BitVec 32), s.up = true → ∃ t, exec (.intMaskWrite m) s = .next t ∧ t.cfg = { s.cfg with intMask := m.setWidth 4 } ∧
    (∀ v, v < 4 → bit s.cfg.intMask.toNat v = true → bit m.toNat v = false → bit s.intPend.toNat v = true → s.pendDue v = false →
      t.msgs.count (v, true) = 1) ∧
    (∀ v, (bit s.cfg.intMask.toNat v = false ∨ bit m.toNat v = true ∨ bit s.intPend.toNat v = false ∨ s.pendDue v = true) →
      t.msgs.count (v, true) = s.msgs.count (v, true)) ∧
    t = { s with cfg := t.cfg, msgs := t.msgs }) ∧
  (∀ (s u : State) (e : EvRec) (l : List EvRec) (n : Nat), s.up = true → s.cfg.enable = true → s.evtRoom = true →
    (∀ o ∈ s.own, o.kind ≠ .event) → s.evt.queue = e :: l → n = 2 ^ fld s.cfg.evtBase.toNat 0 5 →
    s.issueOwn .event true [(64 * fld s.cfg.evtBase.toNat 6 42 + 32 * (s.evt.issue.toNat % n)) / 64]
      (bytesAt (64 * fld s.cfg.evtBase.toNat 6 42 + 32 * (s.evt.issue.toNat % n))
        (eventBytes e s.evt.issue.toNat (fld s.cfg.evtBase.toNat 0 5) s.evt.dropped)) = some u →
    ∃ t, exec .eventRecord s = .next t ∧
      t.own = s.own ++ [{ key := s.nextKey, kind := .event, waiting := false,
                          writes := bytesAt (64 * fld s.cfg.evtBase.toNat 6 42 + 32 * (s.evt.issue.toNat % n))
                            (eventBytes e s.evt.issue.toNat (fld s.cfg.evtBase.toNat 0 5) s.evt.dropped) }] ∧
      t.evt = { s.evt with queue := l, issue := s.evt.issue + 1, dropped := 0 } ∧
      t = { s with evt := t.evt, own := t.own, ports := t.ports, freeCtr := t.freeCtr, nextKey := t.nextKey, snOut := t.snOut }) ∧
  (∀ (s u : State) (w : OwnRef) (o : Own), s.up = true → s.own.find? (fun y => y.waiting && ownNamed w y.kind) = some o →
    exec (.ownAccessRetry w true) s = .next s ∧
    (o.writes ≠ [] → ({ s with own := s.own.map (fun x => if x.key = o.key then { x with waiting := false } else x) } : State).issueLines
        o.key true (match o.kind with
          | .message _ _ => true
          | _ => false) o.writes (linesOfBytes o.writes) = some u →
      ∃ t, exec (.ownAccessRetry w false) s = .next t ∧ (∀ y ∈ t.own, y.key = o.key → y.waiting = false) ∧
        (∀ l ∈ linesOfBytes o.writes, ∃ a ∈ t.ports.txns, a.owner = .own o.key ∧ a.line = l ∧ a.write = true) ∧
        t = { s with own := t.own, ports := t.ports, freeCtr := t.freeCtr, snOut := t.snOut }))

/-- SCRUB_SLOT, once the fold's next slot is due, reads its eight words: a single-bit error is corrected, an uncorrectable
word is handed to a re-read, and no data changes; an upset that strikes another word of the slice leaves it
correctable with its data as it was, or uncorrectable with bits turned over. SCRUB_REREAD of a handed word, 1,024 FCLK
cycles later, sets the word's eight raddle bits where it is still uncorrectable, queues one PASTURE_UE record with its
logical address and counts it. MRAM_SCRUB queues one MRAM_UE record for a bad word, which then reads as uncorrectable,
counts a correction, or does nothing. PATROL_SLICE that passes moves the fold to its next slice and changes nothing
but its logic domain; one that fails retires a spare or takes the ready bit of the fold it backs. Out of turn they
change nothing. (R329, R330, R331, R332, R374) -/
def Obligations.ScrubbersAndPatrolsFindErrors : Prop :=
  (∀ (s : State) (phys : BitVec 7) (k first : Nat), phys.toNat < 68 → s.live = true → s.boot.pastureDone = true →
    s.usable phys.toNat = true → k = (s.fold phys.toNat).scrub → first = 131072 * phys.toNat + 8 * (k % 16384) →
    (1024 * (k + 1) ≤ s.tick → ∃ t, exec (.scrubSlot phys []) s = .next t ∧ (t.fold phys.toNat).scrub = k + 1 ∧
      (t.fold phys.toNat).vregs = (s.fold phys.toNat).vregs ∧ (∀ q, q ≠ phys.toNat → t.fold q = s.fold q) ∧
      (∀ w, first ≤ w → w < first + 8 →
        sget .none t.ecc w = (if sget .none s.ecc w = .hard then WordErr.hard else .none) ∧
        (sget .none s.ecc w = .hard → ∃ h ∈ t.handed, h.1 = w)) ∧
      (∀ w, (w < first ∨ first + 8 ≤ w) → sget .none t.ecc w = sget .none s.ecc w) ∧
      t = { s with ecc := t.ecc, handed := t.handed, folds := t.folds, cnt := t.cnt, tally := { s.tally with epoch := t.tally.epoch } }) ∧
    (1024 * (k + 1) ≤ s.tick → ∀ (x : BitVec 17) (hard : Bool) (flips : BitVec 64) (w : Nat), w = 131072 * phys.toNat + x.toNat →
      (w < first ∨ first + 8 ≤ w) → ∃ t, exec (.scrubSlot phys [.pasture x hard flips]) s = .next t ∧
        sget .none t.ecc w = (if hard = true ∨ sget .none s.ecc w ≠ .none then WordErr.hard else .single) ∧
        (∀ i, i < 8 → sget 0 t.past (8 * w + i) = sget 0 s.past (8 * w + i) ^^^
          (if hard = true ∨ sget .none s.ecc w ≠ .none then flips.extractLsb' (8 * i) 8 else 0)) ∧
        (∀ b, b / 8 ≠ w → sget 0 t.past b = sget 0 s.past b)) ∧
    (∀ l, s.tick < 1024 * (k + 1) → exec (.scrubSlot phys l) s = .next s)) ∧
  (∀ (s : State) (phys : BitVec 7) (word w : Nat), phys.toNat < 68 → s.live = true → s.usable phys.toNat = true → word < 131072 →
    w = 131072 * phys.toNat + word →
    ((∃ h ∈ s.handed, h.1 = w ∧ h.2 + 64 ≤ s.tick) → ∃ t, exec (.scrubReread phys word) s = .next t ∧ (∀ h ∈ t.handed, h.1 ≠ w) ∧
      (sget .none s.ecc w = .hard → sget .none t.ecc w = .none ∧ ∀ i, i < 8 → sget false t.raddle (8 * w + i) = true) ∧
      (sget .none s.ecc w ≠ .hard → t.ecc = s.ecc ∧ t.raddle = s.raddle) ∧
      (∀ b, b / 8 ≠ w → sget false t.raddle b = sget false s.raddle b) ∧
      (∀ f, s.logical phys.toNat = some f → s.logged t 0x0302 (2 ^ 20 * f + 8 * word)) ∧
      (14 < s.cnt.length → t.cnt.getD 14 0 = s.cnt.getD 14 0 + 1) ∧
      t = { s with ecc := t.ecc, raddle := t.raddle, handed := t.handed, evt := t.evt, cnt := t.cnt, freeCtr := t.freeCtr,
                   tally := { s.tally with epoch := t.tally.epoch } }) ∧
    ((∀ h ∈ s.handed, ¬(h.1 = w ∧ h.2 + 64 ≤ s.tick)) → exec (.scrubReread phys word) s = .next s)) ∧
  (∀ (s : State) (arr : Bool) (word : Nat), s.live = true → s.ready.shepherd = true → word < mramWords arr →
    (∀ corrected bad, (bad = true ∨ s.mram.bad arr (32 * word) 32 = true) → ∃ t, exec (.mramScrub arr word corrected bad) s = .next t ∧
      t.mram.bad arr (32 * word) 32 = true ∧ t.mram.ring = s.mram.ring ∧ t.mram.seals = s.mram.seals ∧
      s.logged t 0x030C (b2n arr + 2 ^ 5 * word) ∧ ({ s with mram := t.mram } : State).onlyEvents t) ∧
    (s.mram.bad arr (32 * word) 32 = false → exec (.mramScrub arr word false false) s = .next s ∧
      exec (.mramScrub arr word true false) s = .next (s.bumpFault 7 1))) ∧
  (∀ (s : State) (phys : BitVec 7) (slice : BitVec 4), phys.toNat < 68 → s.live = true → s.ready.shepherd = true →
    s.pause.paused = false → s.usable phys.toNat = true → s.patrolled phys.toNat = true →
    ((s.fold phys.toNat).patrol = slice.toNat →
      (∃ t, exec (.patrolSlice phys slice none) s = .next t ∧ (t.fold phys.toNat).patrol = (slice.toNat + 1) % 16 ∧
        (t.fold phys.toNat).vregs = (s.fold phys.toNat).vregs ∧ (∀ q, q ≠ phys.toNat → t.fold q = s.fold q) ∧
        t = { s with folds := t.folds }) ∧
      (∀ pts, ∃ t, exec (.patrolSlice phys slice (some pts)) s = .next t ∧ s.logged t 0x0305 (phys.toNat + 2 ^ 8 * slice.toNat) ∧
        (s.pstate phys.toNat = .spare → t.pstate phys.toNat = .retired) ∧
        (∀ f, s.pstate phys.toNat = .backs → s.logical phys.toNat = some f → (∀ x ∈ s.fmap.subst, x.1 ≠ f) →
          bit t.ready.fold.toNat f = false) ∧ t.cfg = s.cfg ∧ t.mram = s.mram ∧ t.fuses = s.fuses)) ∧
    (∀ failed, (s.fold phys.toNat).patrol ≠ slice.toNat → exec (.patrolSlice phys slice failed) s = .next s))

/-- DATAPATH_CHECK of a checker of rows 5 to 11, for a unit that a fold outside any active pair runs or has before it, the
descriptor standing there with no check pass to make (row 5 finds its fault where the checksums of the beat differ):
one DATAPATH_CHECK record is queued and the descriptor's bound is void; with no earlier strike of the descriptor on
that fold, the unit is noted as struck and runs again; with an earlier one the fold is retired: its FOLD bit falls,
and the descriptor, in flight there, ends FOLD_LOST. Row 5 with equal checksums changes nothing. TWIN_DIVERGE on an
active pair, the descriptor standing at the unit, queues one TWIN_DIVERGE record and voids the bound; the first of the
descriptor is noted and its unit runs again; a second ends it TWIN_MISMATCH with digest zero, and the pair leaves
lock-step with FAULT set. (R328, R333, R298, R299, R226) -/
def Obligations.DetectedFaultsRerunThenRetire : Prop :=
  (∀ (s : State) (d units f p : Nat) (fold : BitVec 6) (found : CheckFault) (pts : Progress) (e : Desc), f = fold.toNat →
    s.desc? d = some e → 5 ≤ found.part.toNat → found.part.toNat ≤ 11 → s.pairWith f = none → s.strikes e f units = true →
    s.phys f = some p →
    (found.part = 5 → permuterFault found.nibble found.inp found.out = false →
      exec (.datapathCheck d fold found units pts) s = .next s) ∧
    ((found.part = 5 → permuterFault found.nibble found.inp found.out = true) → (∀ w ∈ s.twins, w.active = false) →
      e.checking = false → e.admitted = true →
      ((∀ x ∈ (s.lfold f).strikes, x.1 ≠ d) → ∃ t x, exec (.datapathCheck d fold found units pts) s = .next t ∧ t.desc? d = some x ∧
        x.stage = .admitted ∧ (e.bound.isSome = true → x.void = true) ∧ (t.lfold f).strikes = (s.lfold f).strikes ++ [(d, units)] ∧
        (t.lfold f).running = some d ∧ (e.at_ (e.shareFold f) = units → e.stalled = [] → x.prog = e.prog) ∧
        s.logged t 0x0301 (found.part.toNat + 2 ^ 16 * (units % 2 ^ 32)) ∧ s.runFrame t) ∧
      ((∃ x ∈ (s.lfold f).strikes, x.1 = d) → s.pstate p = .backs → s.logical p = some f → (∀ x ∈ s.fmap.subst, x.1 ≠ f) →
        e.folds.contains f = true → s.waitsMet e = true → (s.descs.map (fun x => x.did)).Nodup →
        ∃ t x, exec (.datapathCheck d fold found units pts) s = .next t ∧ t.desc? d = some x ∧ x.stage = .ended ∧
          x.status = .foldLost ∧ x.digest = 0 ∧ bit t.ready.fold.toNat f = false ∧
          s.logged t 0x0301 (found.part.toNat + 2 ^ 16 * (units % 2 ^ 32)) ∧ t.cfg = s.cfg ∧ t.mram = s.mram))) ∧
  (∀ (s : State) (k : BitVec 3) (d units : Nat) (a : Twin) (e : Desc), s.twins[k.toNat]? = some a →
    s.desc? d = some e → a.active = true → s.strikes e a.pri.toNat units = true → e.admitted = true → e.stalled = [] →
    e.at_ a.pri.toNat = units →
    (∀ pts, s.diverged d = false → ∃ t x, exec (.twinDiverge k d units pts) s = .next t ∧ t.desc? d = some x ∧ x.stage = .admitted ∧
      (e.bound.isSome = true → x.void = true) ∧ (d, units) ∈ (t.lfold a.pri.toNat).strikes ∧ t.twins = s.twins ∧
      s.logged t 0x030A k.toNat ∧ s.runFrame t) ∧
    (s.diverged d = true → ∃ t x, exec (.twinDiverge k d units []) s = .next t ∧ t.desc? d = some x ∧ x.stage = .ended ∧
      x.status = .twinMismatch ∧ x.digest = 0 ∧ t.twins = setNth s.twins k.toNat { a with active := false, fault := true, prep := false } ∧
      s.logged t 0x030A k.toNat ∧ ({ s with twins := t.twins } : State).runFrame t))

/-- FOLD_RETIRE of a fold that backs logical fold f, with no substitution of f under way: f's FOLD bit falls, every
descriptor in flight on f ends with digest zero, FOLD_LOST unless it met another end on the way to its cancel points,
and FOLD_LOST where it stood at them, and a substitution by the lowest free spare begins, ending no earlier than 1,025
ticks later on f's horizon; with no spare left f becomes absent. Retiring a spare makes it retired; a fold that is
retired or fused off stays as it is. SPARE_IN of a substitution under way: the spare backs f, the fold that backed it
is retired, f's FOLD bit is set, the spare's registers, route cache and SROW are as after a reset, and its slice holds
the retired fold's bytes, or zeros with every raddle bit set where that slice could not be read. One FOLD_RETIRED or
SPARE_IN record is queued. With no substitution of f nothing changes. (R17, R168, R340, R341, R353) -/
def Obligations.SparesReplaceRetiredFolds : Prop :=
  (∀ (s : State) (phys : BitVec 7) (pts : List (Nat × Progress)), phys.toNat < 68 → s.live = true → s.ready.shepherd = true →
    s.pause.paused = false →
    (∀ f, s.pstate phys.toNat = .backs → s.logical phys.toNat = some f → (∀ x ∈ s.fmap.subst, x.1 ≠ f) → s.fmap.phys.length = 64 →
      (s.descs.map (fun x => x.did)).Nodup → ∃ t, exec (.foldRetire phys pts) s = .next t ∧ bit t.ready.fold.toNat f = false ∧
        (∀ i ∈ s.lostWith f, ∃ x, t.desc? i = some x ∧ x.stage = .ended ∧ x.digest = 0 ∧
          (x.status = .foldLost ∨ x.status = .refusedRange ∨ x.status = .twinMismatch) ∧
          (pts = [] → (∀ e ∈ s.descs, e.stalled = []) → x.status = .foldLost)) ∧
        (∀ sp l, s.freeSpares = sp :: l → t.fmap.subst = s.fmap.subst ++ [(f, sp, some phys.toNat)] ∧ t.fmap.phys = s.fmap.phys ∧
          t.fmap.state = s.fmap.state ∧ s.tick + 1025 ≤ sget 0 t.hor.fold f) ∧
        (s.freeSpares = [] → f ∈ t.fmap.absent ∧ t.phys f = none) ∧
        (s.lostWith f = [] → s.logged t 0x0306 phys.toNat) ∧
        t.cfg = s.cfg ∧ t.mram = s.mram ∧ t.stile = s.stile ∧ ∀ q, (t.pen q).ent = (s.pen q).ent) ∧
    (s.pstate phys.toNat = .spare → ∃ t, exec (.foldRetire phys pts) s = .next t ∧
      (s.fmap.state.length = 68 → t.pstate phys.toNat = .retired) ∧
      s.logged t 0x0306 phys.toNat ∧ t.cfg = s.cfg ∧ t.mram = s.mram) ∧
    ((s.pstate phys.toNat = .retired ∨ s.pstate phys.toNat = .fusedOff) → exec (.foldRetire phys pts) s = .next s)) ∧
  (∀ (s : State) (logical : BitVec 6) (f sp g : Nat) (from_ : Option Nat) (lost : Bool), s.live = true → s.ready.shepherd = true →
    s.pause.paused = false → s.shaped = true → f = logical.toNat →
    s.fmap.subst.find? (fun x => decide (x.1 = f)) = some (f, sp, from_) → sp < 68 → s.phys f = some g → g < 68 → g ≠ sp →
    ∃ t, exec (.spareIn logical lost) s = .next t ∧ t.phys f = some sp ∧ t.pstate sp = .backs ∧ t.pstate g = .retired ∧
      bit t.ready.fold.toNat f = true ∧ (∀ x ∈ t.fmap.subst, x.1 ≠ f) ∧ (∀ h, h ≠ f → t.phys h = s.phys h) ∧
      (t.fold sp).vregs = [] ∧ (t.fold sp).route = [] ∧ (t.fold sp).srow = Srow.blank ∧ (t.fold sp).acc = false ∧
      (∀ q, q ≠ sp → t.fold q = s.fold q) ∧ (15 < s.cnt.length → t.cnt.getD 15 0 = s.cnt.getD 15 0 + 1) ∧
      (∀ p, from_ = some p → lost = false → ∀ i, i < 2 ^ 20 → sget 0 t.past (sp * 2 ^ 20 + i) = sget 0 s.past (p * 2 ^ 20 + i)) ∧
      (∀ p, from_ = some p → lost = true → ∀ i, i < 2 ^ 20 →
        sget 0 t.past (sp * 2 ^ 20 + i) = 0 ∧ sget false t.raddle (sp * 2 ^ 20 + i) = true) ∧
      (from_ = none → t.past = s.past) ∧ (∀ k, k / 2 ^ 20 ≠ sp → sget 0 t.past k = sget 0 s.past k) ∧
      (from_ = none ∨ lost = false → s.logged t 0x0307 (sp + 2 ^ 8 * f)) ∧ t.descs = s.descs ∧ t.cfg = s.cfg ∧ t.mram = s.mram ∧ t.host = s.host) ∧
  (∀ (s : State) (logical : BitVec 6) (lost : Bool), (∀ x ∈ s.fmap.subst, x.1 ≠ logical.toNat) → exec (.spareIn logical lost) s = .next s)

/-- FATAL with a cause from 1 to 7: PLT_FATAL_N goes low, PLT_FATAL holds the cause, with the physical fold for cause 6
and zero otherwise, and VALID; the tally book is stopped for a fatal fault; no fold runs any descriptor that was
admitted, and each keeps its legend and never completes of this. Where the SN path is sound and nothing else brought
an event about, one FATAL record with the cause waits; where it is not, no event record and no message waits.
Registers that software writes, STEP, the fold map and the cost table stay. WATCHDOG_TIMEOUT is FATAL with cause 5,
while the Shepherd runs; before that it changes nothing. (R335, R352, R318, R382) -/
def Obligations.FatalFaultsStopTheBlock : Prop :=
  (∀ (s : State) (cause : BitVec 8) (phys : BitVec 7) (pts : List (Nat × Progress)) (mramSound snSound : Bool), s.live = true →
    1 ≤ cause.toNat → cause.toNat ≤ 7 → ∃ t, exec (.fatal cause phys pts mramSound snSound) s = .next t ∧ t.pins.fatalN = false ∧
      t.live = false ∧ t.fatalReg = { cause := cause, phys := (if cause = 6 then phys else 0), valid := true } ∧ t.tally.stop = .fatal ∧
      (∀ e ∈ s.descs, e.active = true → (∀ q, (t.fold q).running ≠ some e.did) ∧
        (t.desc? e.did).map (fun x => x.cells) = (s.desc? e.did).map (fun x => x.cells)) ∧
      (snSound = false → t.evt.queue = [] ∧ t.msgs = []) ∧
      (snSound = true → mramSound = false → (∀ e ∈ s.descs, e.active = false) → s.logged t 0x030E cause.toNat) ∧
      t.cfg = s.cfg ∧ t.stile = s.stile ∧ t.fmap = s.fmap ∧ t.cost = s.cost ∧ t.ready.fold = s.ready.fold) ∧
  (∀ (s : State) (phys : BitVec 7) (pts : List (Nat × Progress)) (mramSound snSound : Bool), s.live = true →
    (s.ready.shepherd = true → ∃ t, exec (.watchdogTimeout pts mramSound snSound) s = .next t ∧ t.pins.fatalN = false ∧
      t.fatalReg = { cause := 5, phys := 0, valid := true } ∧ exec (.fatal 5 phys pts mramSound snSound) s = .next t) ∧
    (s.ready.shepherd = false → exec (.watchdogTimeout pts mramSound snSound) s = .next s))

/-- BLOCK_RESET, RESET_RELEASE and TEST_MODE_ENTRY complete as follows. BLOCK_RESET out of reset with no write of Polter's
own in flight and no export: the block is in reset, every register, fold, pen, descriptor, plan and ring is as
State.released gives it, outstanding SN transactions stay to be drained but for those that wait to be sent again, and
host memory, pasture, the Shepherd SRAM, the MRAM and the fuses are as they were. RESET_RELEASE, with test mode off
and every transaction answered or timed out, leaves the block out of reset at tick zero with every register at its
reset value, none of the clears done, and the memories as they were; with a transaction still open it changes nothing.
TEST_MODE_ENTRY resets the block, and pasture, raddle bits, folds, plan store, Shepherd SRAM and the ledger key are
cleared; only a block reset leaves test mode. (R371, R372, R383, R301, R347, R261, 15_bringup_and_power.md) -/
def Obligations.ResetsLeaveTheResetState : Prop :=
  (∀ s : State, (s.up = true → s.own = [] → s.tally.export_ = none → ∃ t, exec .blockReset s = .next t ∧ t.up = false ∧
      t.cfg = Cfg.reset ∧ t.ready = (State.released s.fuses).ready ∧ t.folds = [] ∧ t.pens = [] ∧ t.descs = [] ∧ t.plans = [] ∧
      t.rings = [] ∧ t.own = [] ∧ t.ports.txns = s.ports.txns.filter (fun x => x.retryAt.isNone) ∧ t.pins.fatalN = true ∧ t.fatalReg = { cause := 0, phys := 0, valid := false } ∧
      t.tally = Tally.reset ∧ t.stile.step = 0 ∧ t.fmap = s.fuses.map ∧ t.host = s.host ∧ t.poison = s.poison ∧ t.past = s.past ∧
      t.raddle = s.raddle ∧ t.sram = s.sram ∧ t.mram = s.mram ∧ t.fuses = s.fuses ∧ t.tick = s.tick) ∧
    (s.pins.rstLow = true → s.pins.testMode = true →
      exec .blockReset s = .next { s with pins := { s.pins with testMode := false } }) ∧
    (s.pins.rstLow = true → s.pins.testMode = false → exec .blockReset s = .next s)) ∧
  (∀ s : State, s.pins.rstLow = true → s.pins.testMode = false →
    ((∀ a ∈ s.ports.txns, a.limit ≤ s.tick) → ∃ t, exec .resetRelease s = .next t ∧ t.up = true ∧ t.tick = 0 ∧ t.cfg = Cfg.reset ∧
      t.ready = (State.released s.fuses).ready ∧ t.boot = (State.released s.fuses).boot ∧ t.cost = { rd := 0x30, wr := 0x20, port := 0x8 } ∧
      t.ports.txns = [] ∧ t.folds = [] ∧ t.descs = [] ∧ t.tally = Tally.reset ∧ t.fmap = s.fuses.map ∧ t.host = s.host ∧
      t.past = s.past ∧ t.sram = s.sram ∧ t.mram = s.mram ∧ t.fuses = s.fuses) ∧
    ((∃ a ∈ s.ports.txns, s.tick < a.limit) → exec .resetRelease s = .next s)) ∧
  (∀ s : State, s.pins.testMode = true ∨ s.pins.rstLow = false → exec .resetRelease s = .next s) ∧
  (∀ s : State, ∃ t, exec .testModeEntry s = .next t ∧ t.up = false ∧ t.pins.testMode = true ∧ t.past = [] ∧ t.raddle = [] ∧ t.ecc = [] ∧
    t.folds = [] ∧ t.plans = [] ∧ t.sram = [] ∧ t.tally.key = none ∧ t.fuses = s.fuses ∧ t.pending = s.pending ∧
    (s.up = true → t.cfg = Cfg.reset ∧ t.descs = [] ∧ t.ready = (State.released s.fuses).ready))

/-- EPOCH_CLOSE at a boundary where the open epoch is due, with no commit under way: its record's body stands in the ring
slot of its number, its marker is still to be written, and the next epoch is open with the hash of that body as PREV,
the STEP of the close and no leaf. EPOCH_COMMIT_DONE writes the marker, then the next counter slot with a reservation
2^20 above STEP, and the epoch's ticks count towards the seal; after a cut STATE becomes CUT and PLT_READY.TALLY
falls. SEAL_COMMIT, when 86,400 s of epochs are committed, writes the next seal with its marker and starts the next
span at the open epoch, or sets SEALFULL where the region is full. CUT stops admission and folding: the records of
TALLYs that have not completed go, and the record with CUT = 1 is written. EPOCH_S from 10 to 600 is taken; another
value is ignored and logged. Nothing is done before it is due. (R302, R303, R308, R310, R312, R313, R314, R316, R317,
R319) -/
def Obligations.EpochsCloseAndCommit : Prop :=
  (∀ (s : State) (b : Nat) (e : Epoch), s.live = true → s.cfg.enable = true → s.period.next = some b → b ≤ s.tick →
    s.tally.epoch = some e →
    (e.opened + e.epochS * 93750000 ≤ b → s.tally.stop = .no → s.tally.commit = none → e.faults.length = 12 →
      ∃ t e' c, exec .epochClose s = .next t ∧
        t.mram.ring = ssetAll 0 s.mram.ring (bytesAt (256 * epochSlot e.seq) (s.epochBody e b false)) ∧ t.mram.seals = s.mram.seals ∧
        t.tally.commit = some c ∧ c.seq = e.seq ∧ c.slot = true ∧ c.tlen = b - e.opened ∧
        c.marker = marker e.seq epochMagic (s.epochBody e b false) ∧
        t.tally.epoch = some e' ∧ e'.seq = e.seq + 1 ∧ e'.prev = sha256n (s.epochBody e b false) ∧ e'.opened = b ∧
        e'.stepLo = s.stile.step.toNat ∧ e'.leaves = [] ∧ t = { s with mram := t.mram, tally := t.tally }) ∧
    ((b < e.opened + e.epochS * 93750000 ∨ s.tally.stop ≠ .no) → exec .epochClose s = .next s)) ∧
  (∀ (s : State) (c : Commit), s.up = true → s.tally.commit = some c →
    ∃ t, exec .epochCommitDone s = .next t ∧ t.tally.commit = none ∧
      t.mram.ring = ssetAll 0 s.mram.ring (bytesAt (256 * epochSlot c.seq + 224) c.marker) ∧
      t.tally.sealTicks = s.tally.sealTicks + c.tlen ∧
      (c.slot = true → s.tally.refresh = none → t.tally.resv = s.stile.step.toNat + 2 ^ 20 ∧ t.tally.gen = s.tally.gen + 1 ∧
        t.mram.seals = ssetAll 0 s.mram.seals (bytesAt (counterOff ((s.tally.gen + 1) % 64))
          (counterSlot (s.tally.gen + 1) s.seqOpen (s.stile.step.toNat + 2 ^ 20) s.tally.mount.toNat))) ∧
      (c.slot = false → (s.tally.stop = .cut ∨ s.tally.stop = .fatal) → t.tally.st = .cut ∧ t.ready = { s.ready with tally := false }) ∧
      (c.slot = true ∨ (s.tally.stop ≠ .cut ∧ s.tally.stop ≠ .fatal) → t.ready = s.ready) ∧
      t.tally.epoch.isSome = s.tally.epoch.isSome ∧
      t = { s with mram := t.mram, tally := t.tally, ready := t.ready, evt := t.evt, cnt := t.cnt }) ∧
  (∀ s : State, s.live = true → s.tally.st = .mounted → s.tally.stop = .no → s.tally.commit = none →
    (s.tally.sealTicks < sealSpan → exec .sealCommit s = .next s) ∧
    (sealSpan ≤ s.tally.sealTicks → ∃ t, exec .sealCommit s = .next t ∧ t.tally.sealTicks = 0 ∧ t.mram.ring = s.mram.ring ∧
      (s.mram.usedSeals < sealSlots → ∀ h body, h = s.sealHead (s.mram.usedSeals + 1) s.tally.sealFirst (s.tally.seq - 1) →
        body = h ++ hmac (s.tally.key.getD 0) h →
        t.mram.seals = ssetAll 0 (ssetAll 0 s.mram.seals (bytesAt (384 * s.mram.usedSeals) body))
          (bytesAt (384 * s.mram.usedSeals + 352) (marker (s.mram.usedSeals + 1) sealMagic body)) ∧
        t.tally.sealFirst = s.tally.seq - 1 + 1) ∧
      (sealSlots ≤ s.mram.usedSeals → t.mram = s.mram ∧ t.tally.sealFull = true ∧
        (s.tally.sealFull = false → s.logged t 0x0407 0)) ∧
      t = { s with mram := t.mram, tally := t.tally, evt := t.evt, cnt := t.cnt })) ∧
  (∀ (s : State) (e : Epoch), s.live = true → s.tally.epoch = some e → s.tally.commit = none → s.tally.refresh = none →
    s.tally.export_ = none → s.tally.st ≠ .verifying → s.tally.stop ≠ .cut → e.faults.length = 12 →
    ∃ t c, exec .cut s = .next t ∧ t.tally.stop = .cut ∧ t.admitting = false ∧ t.tally.epoch = none ∧ t.tally.commit = some c ∧
      c.seq = e.seq ∧ c.slot = false ∧ c.tlen = s.tick - e.opened ∧
      t.mram.ring = ssetAll 0 s.mram.ring (bytesAt (256 * epochSlot e.seq) (s.epochBody e s.tick true)) ∧
      t.mram.seals = s.mram.seals ∧ t.tally.waiting = [] ∧
      t = { s with mram := t.mram, tally := t.tally, pens := t.pens }) ∧
  (∀ (s : State) (v : BitVec 10), s.up = true →
    (10 ≤ v.toNat → v.toNat ≤ 600 → exec (.epochSWrite v) s = .next { s with cfg := { s.cfg with epochS := v } }) ∧
    ((v.toNat < 10 ∨ 600 < v.toNat) → ∃ t, exec (.epochSWrite v) s = .next t ∧ s.onlyEvents t ∧ s.logged t 0x0406 v.toNat))

/-- EXPORT_GO with GO = 1, no export in progress and, for seals, a range within the region: an export of COUNT + 1 records
from FIRST to the address register's place is in progress; otherwise one EXPORT_IGNORED record is queued. A write with
GO = 0 does nothing. EXPORT_DONE, unless a slot of the range is under commit: the export is over, one EXPORT_DONE
record is queued with first record and count, and host memory outside the frames is as it was; an export of one record
has put its slot's bytes, its verification byte and the hash of its body at the address. While it must wait, and with
no export in progress, nothing changes. (R323, R324) -/
def Obligations.ExportsWriteTheirFrames : Prop :=
  (∀ (s : State) (hi : BitVec 32) (x : Export), s.live = true →
    x = { addr := s.cfg.expAddr.toNat, first := fld s.cfg.expCmd.toNat 0 18, region := bit s.cfg.expCmd.toNat 18,
          count := fld s.cfg.expCmd.toNat 20 12 + 1 } →
    (bit hi.toNat 0 = false → exec (.exportGo hi) s = .next s) ∧
    (bit hi.toNat 0 = true → s.tally.export_ = none → (x.region = false ∨ x.first + x.count ≤ 2730) →
      exec (.exportGo hi) s = .next { s with tally := { s.tally with export_ := some x } }) ∧
    (bit hi.toNat 0 = true → (s.tally.export_ ≠ none ∨ (x.region = true ∧ 2730 < x.first + x.count)) →
      ∃ t, exec (.exportGo hi) s = .next t ∧ s.onlyEvents t ∧ s.logged t 0x040A 0)) ∧
  (∀ (s : State) (x : Export), s.live = true → s.tally.export_ = some x →
    (s.exportWaits x = true → exec .exportDone s = .next s) ∧
    (s.exportWaits x = false → ∃ t, exec .exportDone s = .next t ∧ t.tally.export_ = none ∧
      s.logged t 0x040B (x.first % 2 ^ 18 + 2 ^ 18 * ((x.count - 1) % 2 ^ 12)) ∧
      (x.count = 1 → t.getHost x.addr (slotLen x.region + 64) = s.exportFrame x.region (x.slotAt 0)) ∧
      (∀ k, (k < x.addr ∨ x.addr + (slotLen x.region + 64) * x.count ≤ k) → sget 0 t.host k = sget 0 s.host k) ∧
      t.tally = { s.tally with export_ := none, epoch := t.tally.epoch } ∧
      t = { s with host := t.host, poison := t.poison, tally := t.tally, evt := t.evt, cnt := t.cnt, snOut := t.snOut,
                   freeCtr := t.freeCtr, ports := { s.ports with last := t.ports.last, gateSn := t.ports.gateSn } })) ∧
  (∀ s : State, s.tally.export_ = none → exec .exportDone s = .next s)

/-- PAUSE (a write of 1 to REQ) out of a pause sets REQ and BUSY, takes the image base from PLT_CTX_BASE, marks every
descriptor between admission and completion VOID, marks the open epoch, and stops admission; one while BUSY is 1
queues one PAUSE_IGNORED record, and one with REQ = 1 does nothing. PAUSE_COMPLETE, when nothing runs, no fold waits
in place and every write is answered: PAUSED is 1, BUSY 0, each present fold that is no active shadow has its SROW in
host memory 2,112 bytes times its number above the base, and its registers are EMPTY, its mode VEC and its SROW clear.
RESUME in a pause, with no twin pair, no PLT_XRESUME kept and no poisoned image: REQ, PAUSED and BUSY are 0 and each
fold's mode, SROW and register states are those of its image. RESUME out of a pause does nothing. (R289, R290, R164,
R167, R228) -/
def Obligations.PausesSaveAndRestore : Prop :=
  (∀ s : State, s.live = true →
    (s.pause.busy = false → s.pause.req = false → ∃ t, exec .pause s = .next t ∧ t.pause = { s.pause with req := true, busy := true, base := s.cfg.ctxBase } ∧
      t.admitting = false ∧ t.descs = s.descs.map (fun d => if d.admitted then { d with void := true } else d) ∧
      t.tally = { s.tally with epoch := s.tally.epoch.map (fun e => { e with pause := true }) } ∧
      t = { s with pause := t.pause, descs := t.descs, tally := t.tally }) ∧
    (s.pause.busy = false → s.pause.req = true → exec .pause s = .next s) ∧
    (s.pause.busy = true → ∃ t, exec .pause s = .next t ∧ s.onlyEvents t ∧ s.logged t 0x0403 0) ∧
    (s.pause.busy = false → s.pause.paused = false → exec .resume s = .next s)) ∧
  (∀ (s : State) (pts : List (Nat × Progress)), s.live = true → s.pause.req = true → s.pause.busy = true → s.pause.paused = false →
    s.pauseReady = true → s.running = [] →
    ∃ t, exec (.pauseComplete pts) s = .next t ∧ t.pause = { s.pause with paused := true, busy := false } ∧
      (∀ f ∈ s.imageFolds, t.getHost (s.pause.base.toNat + 2112 * f) 64 = leBytes (s.lfold f).srowBits 64) ∧
      (∀ k, (k < s.pause.base.toNat ∨ s.pause.base.toNat + 2112 * s.n ≤ k) → sget 0 t.host k = sget 0 s.host k) ∧
      (∀ f, s.present f = true → (t.lfold f).vregs = [] ∧ (t.lfold f).acc = false ∧ (t.lfold f).srow = Srow.blank ∧
        (t.lfold f).susp = (s.lfold f).susp ∧ (t.lfold f).route = (s.lfold f).route) ∧
      t.descs = s.descs ∧ t.past = s.past ∧
      t = { s with pause := t.pause, host := t.host, poison := t.poison, folds := t.folds, evt := t.evt, cnt := t.cnt,
                   tally := { s.tally with epoch := t.tally.epoch }, snOut := t.snOut, freeCtr := t.freeCtr,
                   ports := { s.ports with last := t.ports.last, gateSn := t.ports.gateSn } }) ∧
  (∀ s : State, s.live = true → s.pause.busy = false → s.pause.paused = true → s.pause.retry = [] →
    (∀ w ∈ s.twins, w.active = false ∧ (w.en = false ∨ w.taken = true)) →
    (∀ f g p, s.phys f = some p → s.phys g = some p → f = g) →
    (∀ f, s.present f = true → (s.readBeat (s.pause.base.toNat + 2112 * f)).2 = 0) →
    ∃ t, exec .resume s = .next t ∧ t.pause = { s.pause with req := false, paused := false, busy := false } ∧
      (∀ f n, s.present f = true → n = (s.readBeat (s.pause.base.toNat + 2112 * f)).1 →
        (t.lfold f).acc = bit n 160 ∧ (t.lfold f).srow = Srow.ofBits n ∧ (t.lfold f).route = (s.lfold f).route ∧
        ∀ i, i < 32 → ((t.lfold f).reg i).st = imageState n i) ∧
      ((∀ f, s.present f = true → (s.lfold f).susp = none) → t.descs = s.descs) ∧ t.host = s.host ∧ t.past = s.past ∧
      t = { s with pause := t.pause, folds := t.folds, descs := t.descs, snOut := t.snOut, freeCtr := t.freeCtr,
                   ports := { s.ports with last := t.ports.last, gateSn := t.ports.gateSn } })

/-- A whole-word aligned write, out of reset, of a register that only holds a value reads back with its writable bits as
written, and changes no other state; a set-up register is written only while ENABLE is 0. A timeout below its least
value reads back as that value. A write with a strobe missing, of an unaligned offset or of a word that cannot be
written changes nothing. A write of PLT_TWINk while ENABLE is 1 outside a pause queues one TWIN_CFG_IGNORED record and
changes nothing else; at other times the entry reads back its two folds and EN. TWIN_PREPARED makes a pair that Polter
has read ACTIVE: the shadow's slice, route cache, registers and mode are the primary's. (R345, R346, R348, R364, R296,
R297, 14_registers.md) -/
def Obligations.RegistersReadBackWhatTheyHold : Prop :=
  (∀ (s : State) (off : BitVec 12) (mask : Nat) (w : BitVec 32), s.up = true → s.shaped = true → (off.toNat, mask) ∈
      [(0x110, 0xFFFFFFC0), (0x114, 0xFFFF), (0x224, 0xFFFFFFFF), (0x234, 0xFFFFFFFF), (0x244, 0xFFFFFFFF), (0x510, 0xFFFFFFFF),
       (0x514, 0xFFFFFFFF), (0x528, 0xFFFFFFFF), (0x538, 0xFFFFFFFF), (0x600, 0xFFFFFFFC), (0x604, 0xFFFF), (0x608, 0xFFFFFFFF),
       (0x630, 0xFFFFFFFC), (0x634, 0xFFFF), (0x638, 0xFFFFFFFF), (0xD10, 0xFFFFFFC0), (0xD14, 0xFFFF), (0xD18, 0xFFF7FFFF)] →
    ∃ t, exec (.registerWrite off w 15) s = .next t ∧ (t.readReg off.toNat).toNat = w.toNat &&& mask ∧ t = { s with cfg := t.cfg }) ∧
  (∀ (s : State) (off : BitVec 12) (mask : Nat) (w : BitVec 32), s.up = true → (off.toNat, mask) ∈
      [(0x200, 0xFFFFF000), (0x204, 0xFFFF), (0x208, 0xFFFFF000), (0x20C, 0xFFFF), (0x210, 0xFFFFF000), (0x214, 0xFFFF),
       (0x218, 0xFFFFFFFF), (0x21C, 0x3FFFF), (0x228, 0xFFFFFFDF), (0x22C, 0xFFFF), (0x238, 0xFFFFFFFF), (0x23C, 0xFFFF),
       (0x248, 0xFFFF)] →
    (s.cfg.enable = true → exec (.registerWrite off w 15) s = .next s) ∧
    (s.cfg.enable = false → ∃ t, exec (.registerWrite off w 15) s = .next t ∧ (t.readReg off.toNat).toNat = w.toNat &&& mask ∧
      t = { s with cfg := t.cfg })) ∧
  (∀ (s : State) (w : BitVec 32), s.up = true → ∃ t u, exec (.registerWrite 0x530 w 15) s = .next t ∧
    exec (.registerWrite 0x534 w 15) s = .next u ∧ t.cfg.snTmo.toNat = Nat.max 256 (w.toNat % 2 ^ 16) ∧
    t.cfg.neTmo.toNat = Nat.max 16 (w.toNat / 2 ^ 16 % 2 ^ 12) ∧ u.cfg.nrTmo.toNat = Nat.max 16 (w.toNat % 2 ^ 12) ∧
    t = { s with cfg := t.cfg } ∧ u = { s with cfg := u.cfg }) ∧
  (∀ (s : State) (off : BitVec 12) (w : BitVec 32) (st : BitVec 4), (st ≠ 15 ∨ off.toNat % 4 ≠ 0 ∨ off.toNat ∈
      [0x000, 0x004, 0x010, 0x014, 0x018, 0x024, 0x030, 0x040, 0x0C0, 0x220, 0x230, 0x240, 0x310, 0x318, 0x320, 0x328, 0x500, 0x504,
       0x644, 0xA00, 0xD08, 0xD0C, 0xE00]) → exec (.registerWrite off w st) s = .next s) ∧
  (∀ (s : State) (k : BitVec 3) (w : BitVec 32), s.up = true →
    (s.cfg.enable = true → s.pause.paused = false → ∃ t, exec (.twinCfgWrite k w) s = .next t ∧ s.onlyEvents t ∧
      s.logged t 0x0404 k.toNat) ∧
    ((s.cfg.enable = false ∨ s.pause.paused = true) → s.shaped = true → ∃ t a, exec (.twinCfgWrite k w) s = .next t ∧
      t.twins[k.toNat]? = some a ∧ a.pri.toNat = w.toNat % 2 ^ 6 ∧ a.shd.toNat = w.toNat / 2 ^ 8 % 2 ^ 6 ∧ a.en = bit w.toNat 16 ∧
      (bit w.toNat 18 = true → a.fault = false) ∧ (∀ j, j ≠ k.toNat → t.twins[j]? = s.twins[j]?) ∧ t = { s with twins := t.twins })) ∧
  (∀ (s : State) (k : BitVec 3) (a : Twin) (p q : Nat), s.live = true → s.cfg.enable = true → s.pause.paused = false →
    s.twins[k.toNat]? = some a → a.prep = true → s.phys a.pri.toNat = some p → s.phys a.shd.toNat = some q →
    ∃ t, exec (.twinPrepared k) s = .next t ∧ t.twins = setNth s.twins k.toNat { a with active := true, prep := false } ∧
      (t.fold q).route = (s.fold p).route ∧ (t.fold q).vregs = (s.fold p).vregs ∧ (t.fold q).acc = (s.fold p).acc ∧
      (∀ r, r ≠ q → t.fold r = s.fold r) ∧ (∀ i, i < 2 ^ 20 → sget 0 t.past (q * 2 ^ 20 + i) = sget 0 s.past (p * 2 ^ 20 + i)) ∧
      (∀ b, b / 2 ^ 20 ≠ q → sget 0 t.past b = sget 0 s.past b) ∧ t.descs = s.descs ∧ t.host = s.host ∧ t.cfg = s.cfg)

/-- FOLD_GATE_OFF on a fold whose logic is on, that runs and holds nothing, has no work and has been idle for 4,096 FCLK
cycles, switches its logic domain off; a busy or less long idle one stays on. PORT_CLOCK_GATE gates the clock of a
port with no transaction for 32 FCLK cycles, and of no other. Neither changes anything else. DEBUG_READ of a locked
debug port returns zero; of an open one it returns the debug status for address zero, the words of a route cache entry
and of SROW of a fold that is neither retired nor fused off, and zero for a reserved address; it changes nothing but
the port's output. (R262, R376, R382, 15_bringup_and_power.md) -/
def Obligations.IdlePartsGateOffAndDebugReads : Prop :=
  (∀ (s : State) (phys : BitVec 7) (fo : Fold), phys.toNat < 68 → fo = s.fold phys.toNat →
    (s.live = true → fo.logicOn = true → fo.running = none → fo.susp = none → fo.inPlace = none → s.foldBusy phys.toNat = false →
      fo.lastTick + 256 ≤ s.tick → ∃ t, exec (.foldGateOff phys) s = .next t ∧ t.fold phys.toNat = { fo with logicOn := false } ∧
        (∀ q, q ≠ phys.toNat → t.fold q = s.fold q) ∧ t = { s with folds := t.folds }) ∧
    ((fo.running ≠ none ∨ fo.susp ≠ none ∨ s.foldBusy phys.toNat = true ∨ s.tick < fo.lastTick + 256) →
      exec (.foldGateOff phys) s = .next s)) ∧
  (∀ (s : State) (p : PortName), s.up = true →
    (s.portBusy p = false → sget 0 s.ports.last (PortName.num p) + 2 ≤ s.tick → ∃ t, exec (.portClockGate p) s = .next t ∧
      (∀ k, p = .sn k → ∀ j, j < 8 → bit t.ports.gateSn.toNat j = (bit s.ports.gateSn.toNat j || decide (j = k.toNat))) ∧
      (∀ k, p = .ne k → ∀ j, j < 4 → bit t.ports.gateNe.toNat j = (bit s.ports.gateNe.toNat j || decide (j = k.toNat))) ∧
      (∀ k, p = .nr k → ∀ j, j < 2 → bit t.ports.gateNr.toNat j = (bit s.ports.gateNr.toNat j || decide (j = k.toNat))) ∧
      t = { s with ports := { s.ports with gateSn := t.ports.gateSn, gateNe := t.ports.gateNe, gateNr := t.ports.gateNr } }) ∧
    ((s.portBusy p = true ∨ s.tick < sget 0 s.ports.last (PortName.num p) + 2) → exec (.portClockGate p) s = .next s)) ∧
  (∀ s : State, (∀ a, s.boot.debugOpen = false → exec (.debugRead a) s = .next { s with debugOut := 0 }) ∧
    (s.boot.debugOpen = true → exec (.debugRead 0) s = .next { s with debugOut := 1 } ∧
      (∀ p i e x, p < 68 → i < 4 → e < 256 → (s.pstate p = .backs ∨ s.pstate p = .spare) →
        x = BitVec.ofNat 32 ((sget RouteEntry.blank (s.fold p).route e).bits / 2 ^ (32 * i)) →
        exec (.debugRead (BitVec.ofNat 32 (2 ^ 28 + 2 ^ 21 * p + 2 ^ 13 * e + 4 * i))) s = .next { s with debugOut := x }) ∧
      (∀ p i x, p < 68 → i < 16 → (s.pstate p = .backs ∨ s.pstate p = .spare) →
        x = BitVec.ofNat 32 ((s.fold p).srowBits / 2 ^ (32 * i)) →
        exec (.debugRead (BitVec.ofNat 32 (2 * 2 ^ 28 + 2 ^ 21 * p + 4 * i))) s = .next { s with debugOut := x }) ∧
      (∀ a : BitVec 32, (a.toNat % 4 ≠ 0 ∨ (4 : Nat) ≤ a.toNat / 2 ^ 28) → exec (.debugRead a) s = .next { s with debugOut := 0 })))
end

