-- ==== Sys2Proof/Laws/Sparse.lean ====
section
/-!
SUPPORT. The laws of the sparse stores: every operation keeps the canonical form, a read after a write to the same key gives
the value written, a write leaves every other key alone, and two stores in canonical form that read alike are equal.
-/
namespace Sys2Proof.Machine

variable {α : Type} [DecidableEq α] {d : α}

/-! ### The canonical form -/

theorem swfFrom_mono {lo lo' : Nat} (h : lo' ≤ lo) {m : Sparse α} (hm : swfFrom d lo m = true) : swfFrom d lo' m = true := by
  cases m with
  | nil => rfl
  | cons p r =>
    simp only [swfFrom, Bool.and_eq_true, decide_eq_true_eq] at hm ⊢
    exact ⟨⟨by omega, hm.1.2⟩, hm.2⟩

@[simp] theorem swf_nil : swf d ([] : Sparse α) = true := rfl

theorem swfFrom_serase (a : Nat) : ∀ {m : Sparse α} {lo : Nat}, swfFrom d lo m = true → swfFrom d lo (serase m a) = true
  | [], _, _ => rfl
  | (k, v) :: r, lo, h => by
    simp only [swfFrom, Bool.and_eq_true, decide_eq_true_eq] at h
    unfold serase
    split
    · exact swfFrom_mono (by omega) (swfFrom_serase a h.2)
    · simp only [swfFrom, Bool.and_eq_true, decide_eq_true_eq]
      exact ⟨h.1, swfFrom_serase a h.2⟩

theorem swfFrom_sinsert {a : Nat} {v : α} (hv : v ≠ d) :
    ∀ {m : Sparse α} {lo : Nat}, lo ≤ a → swfFrom d lo m = true → swfFrom d lo (sinsert m a v) = true
  | [], lo, ha, _ => by simp [sinsert, swfFrom, ha, hv]
  | (k, w) :: r, lo, ha, h => by
    simp only [swfFrom, Bool.and_eq_true, decide_eq_true_eq, Bool.not_eq_true'] at h
    unfold sinsert
    split
    · next hk =>
      simp only [swfFrom, Bool.and_eq_true, decide_eq_true_eq, Bool.not_eq_true', decide_eq_false_iff_not]
      exact ⟨⟨ha, hv⟩, ⟨by omega, by simpa using h.1.2⟩, h.2⟩
    · split
      · next hk he =>
        subst he
        simp only [swfFrom, Bool.and_eq_true, decide_eq_true_eq, Bool.not_eq_true', decide_eq_false_iff_not]
        exact ⟨⟨ha, hv⟩, h.2⟩
      · next hk he =>
        simp only [swfFrom, Bool.and_eq_true, decide_eq_true_eq, Bool.not_eq_true']
        exact ⟨h.1, swfFrom_sinsert hv (by omega) h.2⟩

theorem swfFrom_sset {a : Nat} {v : α} {m : Sparse α} (h : swf d m = true) : swf d (sset d m a v) = true := by
  unfold sset
  split
  · exact swfFrom_serase a h
  · next hv => exact swfFrom_sinsert hv (Nat.zero_le a) h

/-- A write keeps the canonical form. -/
@[simp] theorem swf_sset {a : Nat} {v : α} {m : Sparse α} (h : swf d m = true) : swf d (sset d m a v) = true := swfFrom_sset h

/-- So does a list of writes. -/
@[simp] theorem swf_ssetAll : ∀ {l : List (Nat × α)} {m : Sparse α}, swf d m = true → swf d (ssetAll d m l) = true
  | [], _, h => h
  | _ :: _, _, h => by unfold ssetAll; exact swf_ssetAll (swf_sset h)

theorem swfFrom_sfilter (p : Nat → Bool) : ∀ {m : Sparse α} {lo : Nat}, swfFrom d lo m = true → swfFrom d lo (sfilter p m) = true
  | [], _, _ => rfl
  | (k, v) :: r, lo, h => by
    simp only [swfFrom, Bool.and_eq_true, decide_eq_true_eq] at h
    unfold sfilter
    split
    · simp only [swfFrom, Bool.and_eq_true, decide_eq_true_eq]
      exact ⟨h.1, swfFrom_sfilter p h.2⟩
    · exact swfFrom_mono (by omega) (swfFrom_sfilter p h.2)

/-- Dropping keys keeps the canonical form. -/
@[simp] theorem swf_sfilter {p : Nat → Bool} {m : Sparse α} (h : swf d m = true) : swf d (sfilter p m) = true :=
  swfFrom_sfilter p h

/-- Changing every value keeps the canonical form. -/
theorem swfFrom_smap (f : α → α) : ∀ {m : Sparse α} {lo : Nat}, swfFrom d lo m = true → swf d (smap d f m) = true
  | [], _, _ => rfl
  | (k, v) :: r, lo, h => by
    simp only [swfFrom, Bool.and_eq_true, decide_eq_true_eq] at h
    exact swf_sset (swfFrom_smap f h.2)

@[simp] theorem swf_smap {f : α → α} {m : Sparse α} (h : swf d m = true) : swf d (smap d f m) = true := swfFrom_smap f h

/-- A copy of a stretch of keys keeps the canonical form. -/
@[simp] theorem swf_scopy {m : Sparse α} {a b n : Nat} (h : swf d m = true) : swf d (scopy d m a b n) = true :=
  swf_ssetAll (swf_sfilter h)

theorem swfFrom_append {b : Nat} : ∀ {l m : Sparse α} {lo : Nat}, swfFrom d lo l = true → (∀ x ∈ l, x.1 < b) → lo ≤ b →
    swfFrom d b m = true → swfFrom d lo (l ++ m) = true
  | [], m, lo, _, _, hb, hm => swfFrom_mono hb hm
  | (k, v) :: r, m, lo, h, hl, hb, hm => by
    simp only [swfFrom, Bool.and_eq_true, decide_eq_true_eq] at h
    simp only [List.cons_append, swfFrom, Bool.and_eq_true, decide_eq_true_eq]
    have hk := hl (k, v) (by simp)
    exact ⟨h.1, swfFrom_append h.2 (fun x hx => hl x (by simp [hx])) (by simp at hk; omega) hm⟩

theorem swfFrom_below {b : Nat} : ∀ {m : Sparse α} {lo : Nat}, swfFrom d lo m = true →
    swfFrom d lo (m.filter (fun x => decide (x.1 < b))) = true
  | [], _, _ => rfl
  | (k, v) :: r, lo, h => by
    simp only [swfFrom, Bool.and_eq_true, decide_eq_true_eq] at h
    simp only [List.filter_cons]
    split
    · simp only [swfFrom, Bool.and_eq_true, decide_eq_true_eq]
      exact ⟨h.1, swfFrom_below h.2⟩
    · exact swfFrom_mono (by omega) (swfFrom_below h.2)

theorem swfFrom_above {c : Nat} : ∀ {m : Sparse α} {lo : Nat}, swfFrom d lo m = true →
    swfFrom d (Nat.max lo c) (m.filter (fun x => decide (c ≤ x.1))) = true
  | [], _, _ => rfl
  | (k, v) :: r, lo, h => by
    simp only [swfFrom, Bool.and_eq_true, decide_eq_true_eq] at h
    have ih := swfFrom_above (c := c) h.2
    simp only [List.filter_cons]
    split
    · next hk =>
      have hk : c ≤ k := by simpa using hk
      rw [show Nat.max (k + 1) c = k + 1 from Nat.max_eq_left (by omega)] at ih
      simp only [swfFrom, Bool.and_eq_true, decide_eq_true_eq]
      exact ⟨⟨Nat.max_le.mpr ⟨h.1.1, hk⟩, h.1.2⟩, ih⟩
    · exact swfFrom_mono (Nat.max_le.mpr ⟨Nat.le_trans (by omega) (Nat.le_max_left _ _), Nat.le_max_right _ _⟩) ih

theorem swfFrom_run {v : α} (hv : v ≠ d) : ∀ (n b c : Nat), c ≤ b →
    swfFrom d c ((List.range' b n).map (fun i => (i, v))) = true
  | 0, _, _, _ => rfl
  | n + 1, b, c, h => by
    simp only [List.range'_succ, List.map_cons, swfFrom, Bool.and_eq_true, decide_eq_true_eq, Bool.not_eq_true',
      decide_eq_false_iff_not]
    exact ⟨⟨h, hv⟩, swfFrom_run hv n (b + 1) (b + 1) (Nat.le_refl _)⟩

/-- Filling a stretch of keys with one value keeps the canonical form. -/
@[simp] theorem swf_sfill {m : Sparse α} {b n : Nat} {v : α} (h : swf d m = true) : swf d (sfill d m b n v) = true := by
  unfold sfill swf
  rw [List.append_assoc]
  refine swfFrom_append (b := b) (swfFrom_below h) (fun x hx => by simpa using (List.mem_filter.mp hx).2) (Nat.zero_le _) ?_
  refine swfFrom_append (b := b + n) ?_ ?_ (by omega)
    (swfFrom_mono (Nat.le_max_right _ _) (swfFrom_above h))
  · split
    · rfl
    · next hv =>
      have e : (List.range n).map (fun i => (b + i, v)) = (List.range' b n).map (fun i => (i, v)) := by
        rw [List.range'_eq_map_range, List.map_map]; rfl
      rw [e]; exact swfFrom_run hv n b b (Nat.le_refl _)
  · intro x hx
    split at hx
    · simp at hx
    · obtain ⟨i, hi, rfl⟩ := List.mem_map.mp hx
      have := List.mem_range.mp hi
      simp; omega

/-! ### Reading what was written -/

theorem sget_low {m : Sparse α} {a lo : Nat} (h : swfFrom d lo m = true) (ha : a < lo) : sget d m a = d := by
  induction m generalizing lo with
  | nil => rfl
  | cons p r ih =>
    simp only [swfFrom, Bool.and_eq_true, decide_eq_true_eq] at h
    unfold sget
    rw [if_neg (by omega)]
    exact ih h.2 (by omega)

omit [DecidableEq α] in
theorem sget_serase (a b : Nat) : ∀ {m : Sparse α}, sget d (serase m a) b = if b = a then d else sget d m b
  | [] => by simp [serase, sget]
  | (k, v) :: r => by
    unfold serase
    split
    · next he =>
      subst he
      rw [sget_serase a b]
      by_cases hb : b = a <;> simp [sget, hb]
    · next he =>
      unfold sget
      rw [sget_serase a b]
      by_cases hbk : b = k
      · subst hbk; simp [Ne.symm he]
      · simp [hbk]

omit [DecidableEq α] in
theorem sget_sinsert (a b : Nat) (v : α) : ∀ {m : Sparse α}, sget d (sinsert m a v) b = if b = a then v else sget d m b
  | [] => by simp [sinsert, sget]
  | (k, w) :: r => by
    unfold sinsert
    split
    · simp [sget]
    · split
      · next he => subst he; by_cases hb : b = a <;> simp [sget, hb]
      · next he =>
        unfold sget
        rw [sget_sinsert a b v]
        by_cases hbk : b = k
        · subst hbk; simp [Ne.symm he]
        · simp [hbk]

/-- A read after a write: the value written at its key, what was there before at every other. -/
theorem sget_sset (m : Sparse α) (a b : Nat) (v : α) : sget d (sset d m a v) b = if b = a then v else sget d m b := by
  unfold sset
  split
  · next hv => rw [sget_serase a b, hv]
  · exact sget_sinsert a b v

/-- A read of the key just written. -/
@[simp] theorem sget_sset_same (m : Sparse α) (a : Nat) (v : α) : sget d (sset d m a v) a = v := by
  rw [sget_sset]; simp

/-- A read of another key. -/
@[simp] theorem sget_sset_other (m : Sparse α) {a b : Nat} (hab : b ≠ a) (v : α) : sget d (sset d m a v) b = sget d m b := by
  rw [sget_sset]; simp [hab]

/-- A key that a list of writes does not name keeps its value. -/
theorem sget_ssetAll_other : ∀ {l : List (Nat × α)} {m : Sparse α} {b : Nat}, (∀ x ∈ l, x.1 ≠ b) →
    sget d (ssetAll d m l) b = sget d m b
  | [], _, _, _ => rfl
  | (a, v) :: r, m, b, hl => by
    unfold ssetAll
    rw [sget_ssetAll_other (fun x hx => hl x (by simp [hx]))]
    exact sget_sset_other m (Ne.symm (hl (a, v) (by simp))) v

omit [DecidableEq α] in
/-- Keys that pass a filter keep their values, the others read as the default. -/
theorem sget_sfilter (p : Nat → Bool) (b : Nat) : ∀ {m : Sparse α}, sget d (sfilter p m) b = if p b then sget d m b else d
  | [] => by simp [sfilter, sget]
  | (k, v) :: r => by
    unfold sfilter
    split
    · next hp =>
      unfold sget
      rw [sget_sfilter p b]
      by_cases hb : b = k
      · subst hb; simp [hp]
      · simp [hb]
    · next hp =>
      rw [sget_sfilter p b]
      by_cases hb : b = k
      · subst hb; simp [hp]
      · simp [sget, hb]

/-- Every value of a changed store is the change of the value before, where the change leaves the default alone. -/
theorem sget_smap {f : α → α} (hf : f d = d) (b : Nat) : ∀ {m : Sparse α}, sget d (smap d f m) b = f (sget d m b)
  | [] => by simp [smap, sget, hf]
  | (k, v) :: r => by
    unfold smap
    rw [sget_sset, sget_smap hf b]
    by_cases hb : b = k <;> simp [sget, hb]

/-! ### Equal stores -/

theorem sparse_ext_from : ∀ {m n : Sparse α} {lo : Nat}, swfFrom d lo m = true → swfFrom d lo n = true →
    (∀ a, sget d m a = sget d n a) → m = n
  | [], [], _, _, _, _ => rfl
  | [], (k, v) :: r, lo, _, hn, h => by
    have := h k
    simp only [swfFrom, Bool.and_eq_true, decide_eq_true_eq, Bool.not_eq_true', decide_eq_false_iff_not] at hn
    simp [sget] at this
    exact absurd this.symm hn.1.2
  | (k, v) :: r, [], lo, hm, _, h => by
    have := h k
    simp only [swfFrom, Bool.and_eq_true, decide_eq_true_eq, Bool.not_eq_true', decide_eq_false_iff_not] at hm
    simp [sget] at this
    exact absurd this hm.1.2
  | (k, v) :: r, (k', v') :: r', lo, hm, hn, h => by
    simp only [swfFrom, Bool.and_eq_true, decide_eq_true_eq, Bool.not_eq_true', decide_eq_false_iff_not] at hm hn
    have hk : k = k' := by
      rcases Nat.lt_trichotomy k k' with hlt | he | hgt
      · have e := h k
        simp only [sget, if_true, if_neg (Nat.ne_of_lt hlt)] at e
        rw [sget_low hn.2 (by omega)] at e
        exact absurd e hm.1.2
      · exact he
      · have e := h k'
        simp only [sget, if_true, if_neg (Nat.ne_of_lt hgt)] at e
        rw [sget_low hm.2 (by omega)] at e
        exact absurd e.symm hn.1.2
    subst hk
    have hv : v = v' := by simpa [sget] using h k
    subst hv
    have : r = r' := sparse_ext_from hm.2 hn.2 (fun a => by
      by_cases ha : a = k
      · subst ha; rw [sget_low hm.2 (Nat.lt_succ_self _), sget_low hn.2 (Nat.lt_succ_self _)]
      · simpa [sget, ha] using h a)
    rw [this]

/-- Two stores in canonical form that read alike everywhere are equal. -/
theorem sparse_ext {m n : Sparse α} (hm : swf d m = true) (hn : swf d n = true) (h : ∀ a, sget d m a = sget d n a) : m = n :=
  sparse_ext_from hm hn h

end Sys2Proof.Machine
end

