-- ==== Sys2Proof/Laws/Keeps.lean ====
section
/-!
SUPPORT. What the shared operations keep: one relation between the state before and the state after, with one lemma for each
operation. `State.Keeps` says that the fuses are as they were, that the memories stay in canonical form, that the registers and
the cost table stay in their ranges and the register files in their shapes, that ENABLE stays set and the set-up registers stay
as they are while it is, and that a stopped block stays stopped.
-/
namespace Sys2Proof.Machine

/-- What an operation keeps. -/
structure State.Keeps (s t : State) : Prop where
  fuses  : t.fuses = s.fuses
  mem    : s.memoriesWf = true → t.memoriesWf = true
  cfg    : s.cfg.inRange = true → t.cfg.inRange = true
  cost   : s.cost.inRange = true → t.cost.inRange = true
  shape  : s.shaped = true → t.shaped = true
  enable : s.cfg.enable = true → t.cfg.enable = true
  setup  : s.cfg.enable = true → t.cfg.setup = s.cfg.setup
  dead   : s.pins.fatalN = false → t.pins.fatalN = false

theorem State.Keeps.refl (s : State) : s.Keeps s := ⟨rfl, id, id, id, id, id, fun _ => rfl, id⟩

theorem State.Keeps.trans {r s t : State} (h : r.Keeps s) (k : s.Keeps t) : r.Keeps t :=
  ⟨k.fuses.trans h.fuses, fun x => k.mem (h.mem x), fun x => k.cfg (h.cfg x), fun x => k.cost (h.cost x),
   fun x => k.shape (h.shape x), fun x => k.enable (h.enable x), fun x => (k.setup (h.enable x)).trans (h.setup x),
   fun x => k.dead (h.dead x)⟩

/-- A record update of the other fields. -/
theorem State.Keeps.upd {r s : State} (h : r.Keeps s)
    {pending' : List Instr} {pins' : Pins} {tick' : Nat} {boot' : Boot} {ready' : Ready} {fatalReg' : FatalReg} {fmap' : FoldMap} {nudges' : List Nat} {pause' : Pause} {twins' : List Twin} {period' : Period} {gate' : Gate} {therm' : Therm} {cnt' : List (BitVec 64)} {intPend' : BitVec 4} {handed' : List (Nat × Nat)} {folds' : Sparse Fold} {pens' : Sparse Pen} {stile' : Stile} {descs' : List Desc} {hor' : Horizons} {plans' : Sparse Plan} {rings' : Sparse CplRing} {evt' : EvtRing} {msgs' : List (Nat × Bool)} {logs' : LogRings} {own' : List Own} {ports' : Ports} {snOut' : List SnReq} {neOut' : List NeOut} {waiting' : List Waiter} {xfers' : List Transfer} {tally' : Tally} {freeCtr' : Nat} {debugOut' : BitVec 32} {nextDid' : Nat} {nextKey' : Nat}
    (hp : pins'.fatalN = s.pins.fatalN) (ht : twins'.length = s.twins.length) (hc : cnt'.length = s.cnt.length)
    (hf : fmap'.phys.length = s.fmap.phys.length) (hs : fmap'.state.length = s.fmap.state.length) :
    r.Keeps { s with pending := pending', pins := pins', tick := tick', boot := boot', ready := ready', fatalReg := fatalReg', fmap := fmap', nudges := nudges', pause := pause', twins := twins', period := period', gate := gate', therm := therm', cnt := cnt', intPend := intPend', handed := handed', folds := folds', pens := pens', stile := stile', descs := descs', hor := hor', plans := plans', rings := rings', evt := evt', msgs := msgs', logs := logs', own := own', ports := ports', snOut := snOut', neOut := neOut', waiting := waiting', xfers := xfers', tally := tally', freeCtr := freeCtr', debugOut := debugOut', nextDid := nextDid', nextKey := nextKey' } :=
  h.trans ⟨rfl, id, id, id, fun x => by simpa [State.shaped, ht, hc, hf, hs] using x, id, fun _ => rfl, fun x => hp.trans x⟩

/-- Steps that each keep, one after another. -/
theorem State.Keeps.foldl {α : Type} {f : State → α → State} (hf : ∀ {r s : State} (_ : r.Keeps s) (a : α), r.Keeps (f s a)) :
    ∀ (l : List α) {r s : State}, r.Keeps s → r.Keeps (l.foldl f s)
  | [], _, _, h => h
  | a :: l, _, _, h => State.Keeps.foldl hf l (hf h a)

theorem State.Keeps.getD {r s : State} (h : r.Keeps s) {o : Option State} (ho : ∀ t, o = some t → r.Keeps t) : r.Keeps (o.getD s) := by
  cases o with
  | none => exact h
  | some t => exact ho t rfl

theorem State.Keeps.inv {s t : State} (h : s.Keeps t) (hs : s.Inv = true) : t.Inv = true := by
  simp only [State.Inv, Bool.and_eq_true] at hs ⊢
  exact ⟨⟨⟨h.mem hs.1.1.1, h.cfg hs.1.1.2⟩, h.cost hs.1.2⟩, h.shape hs.2⟩

@[simp] theorem length_setNth {α : Type} : ∀ (l : List α) (i : Nat) (v : α), (setNth l i v).length = l.length
  | [], _, _ => rfl
  | _ :: _, 0, _ => rfl
  | _ :: r, i + 1, v => by simp [setNth, length_setNth r i v]

/-! ### Memory -/

/-- The two memories of the drovers' pieces change and nothing else that is kept. -/
theorem State.Keeps.memory {r s : State} (h : r.Keeps s) {host' : Sparse Byte} {poison' : Sparse Bool} {past' : Sparse Byte}
    {raddle' : Sparse Bool} {ecc' : Sparse WordErr} {sram' : Sparse Byte}
    (h1 : swf 0 s.host = true → swf 0 host' = true) (h2 : swf false s.poison = true → swf false poison' = true)
    (h3 : swf 0 s.past = true → swf 0 past' = true) (h4 : swf false s.raddle = true → swf false raddle' = true)
    (h5 : swf .none s.ecc = true → swf .none ecc' = true) (h6 : swf 0 s.sram = true → swf 0 sram' = true) :
    r.Keeps { s with host := host', poison := poison', past := past', raddle := raddle', ecc := ecc', sram := sram' } :=
  h.trans ⟨rfl, fun x => by
    simp only [State.memoriesWf, Bool.and_eq_true] at x ⊢
    exact ⟨⟨⟨⟨⟨⟨⟨h1 x.1.1.1.1.1.1.1, h2 x.1.1.1.1.1.1.2⟩, h3 x.1.1.1.1.1.2⟩, h4 x.1.1.1.1.2⟩, h5 x.1.1.1.2⟩, h6 x.1.1.2⟩,
      x.1.2⟩, x.2⟩, id, id, id, id, fun _ => rfl, id⟩

/-- The MRAM changes and nothing else that is kept. -/
theorem State.Keeps.mram {r s : State} (h : r.Keeps s) {m : Mram} (h1 : swf 0 s.mram.ring = true → swf 0 m.ring = true)
    (h2 : swf 0 s.mram.seals = true → swf 0 m.seals = true) : r.Keeps { s with mram := m } :=
  h.trans ⟨rfl, fun x => by
    simp only [State.memoriesWf, Bool.and_eq_true] at x ⊢
    exact ⟨⟨x.1.1, h1 x.1.2⟩, h2 x.2⟩, id, id, id, id, fun _ => rfl, id⟩

/-- A write of registers that keeps their ranges, ENABLE and what is read when it rises. -/
theorem State.Keeps.cfg' {r s : State} (h : r.Keeps s) {c : Cfg} (h1 : s.cfg.inRange = true → c.inRange = true)
    (h2 : s.cfg.enable = true → c.enable = true) (h3 : s.cfg.enable = true → c.setup = s.cfg.setup)
    (h4 : c.dl.length = s.cfg.dl.length) (h5 : c.msgAddr.length = s.cfg.msgAddr.length)
    (h6 : c.msgData.length = s.cfg.msgData.length) : r.Keeps { s with cfg := c } :=
  h.trans ⟨rfl, id, h1, id, fun x => by simpa [State.shaped, h4, h5, h6] using x, h2, h3, id⟩

/-- A change of the cost table that keeps its range. -/
theorem State.Keeps.cost' {r s : State} (h : r.Keeps s) {c : Cost} (h1 : s.cost.inRange = true → c.inRange = true) :
    r.Keeps { s with cost := c } :=
  h.trans ⟨rfl, id, id, h1, id, id, fun _ => rfl, id⟩

theorem State.setFold_keeps {q0 s : State} (h : q0.Keeps s) (p : Nat) (v : Fold) : q0.Keeps (State.setFold s p v) := by
  unfold State.setFold
  try dsimp only
  repeat' first
    | assumption
    | with_reducible refine State.Keeps.foldl (fun hk a => ?_) _ ?_
    | split
    | with_reducible refine State.Keeps.upd ?_ ?_ ?_ ?_ ?_ ?_
    | rfl
    | simp; done

theorem State.modFold_keeps {q0 s : State} (h : q0.Keeps s) (p : Nat) (f : Fold → Fold) : q0.Keeps (State.modFold s p f) := by
  unfold State.modFold
  try dsimp only
  repeat' first
    | assumption
    | with_reducible apply State.setFold_keeps
    | with_reducible refine State.Keeps.foldl (fun hk a => ?_) _ ?_
    | split
    | with_reducible refine State.Keeps.upd ?_ ?_ ?_ ?_ ?_ ?_
    | rfl
    | simp; done

theorem State.modL_keeps {q0 s : State} (h : q0.Keeps s) (f : Nat) (g : Fold → Fold) : q0.Keeps (State.modL s f g) := by
  unfold State.modL
  try dsimp only
  repeat' first
    | assumption
    | with_reducible apply State.modFold_keeps
    | with_reducible refine State.Keeps.foldl (fun hk a => ?_) _ ?_
    | split
    | with_reducible refine State.Keeps.upd ?_ ?_ ?_ ?_ ?_ ?_
    | rfl
    | simp; done

theorem State.hand_keeps {q0 s : State} (h : q0.Keeps s) (w : Nat) : q0.Keeps (State.hand s w) := by
  unfold State.hand
  try dsimp only
  repeat' first
    | assumption
    | with_reducible refine State.Keeps.foldl (fun hk a => ?_) _ ?_
    | split
    | with_reducible refine State.Keeps.upd ?_ ?_ ?_ ?_ ?_ ?_
    | rfl
    | simp; done

theorem State.bumpFault_keeps {r s : State} (h : r.Keeps s) (i n : Nat) : r.Keeps (s.bumpFault i n) := by
  unfold State.bumpFault
  split
  · exact h
  · exact h.upd rfl rfl rfl rfl rfl

theorem State.count_keeps {q0 s : State} (h : q0.Keeps s) (i : Nat) (n : Nat) : q0.Keeps (State.count s i n) := by
  unfold State.count
  try dsimp only
  repeat' first
    | assumption
    | with_reducible refine State.Keeps.foldl (fun hk a => ?_) _ ?_
    | split
    | with_reducible refine State.Keeps.upd ?_ ?_ ?_ ?_ ?_ ?_
    | rfl
    | simp; done

theorem State.corrected_keeps {q0 s : State} (h : q0.Keeps s)  : q0.Keeps (State.corrected s ) := by
  unfold State.corrected
  try dsimp only
  repeat' first
    | assumption
    | with_reducible apply State.bumpFault_keeps
    | with_reducible apply State.count_keeps
    | with_reducible refine State.Keeps.foldl (fun hk a => ?_) _ ?_
    | split
    | with_reducible refine State.Keeps.upd ?_ ?_ ?_ ?_ ?_ ?_
    | rfl
    | simp; done

theorem State.mergeWord_keeps {r s : State} (h : r.Keeps s) (ps : List Piece) (w : Nat) : r.Keeps (s.mergeWord ps w) := by
  have hw : ∀ {t : State}, r.Keeps t → r.Keeps { t with ecc := sset .none t.ecc w .none } := fun ht =>
    ht.memory id id id id (fun x => swf_sset x) id
  unfold State.mergeWord
  split
  · exact h
  · dsimp only
    split
    · exact hw h
    · split
      · exact State.corrected_keeps (hw h)
      · exact State.hand_keeps ((hw h).memory id id id (fun x => swf_ssetAll x) id id) w

theorem State.poisonLine_keeps {r s : State} (h : r.Keeps s) (ps : List Piece) (l : Nat) : r.Keeps (s.poisonLine ps l) := by
  unfold State.poisonLine
  dsimp only
  split
  · exact h.memory id (fun x => swf_sset x) id id id id
  · split
    · exact h.memory id (fun x => swf_sset x) id id id id
    · exact h

theorem State.putPiece_keeps {r s : State} (h : r.Keeps s) (p : Piece) : r.Keeps (s.putPiece p) := by
  unfold State.putPiece
  dsimp only
  split
  · exact h.memory (fun x => swf_sset x) id id id id id
  · exact h.memory id id (fun x => swf_sset x) (fun x => swf_sset x) id id

theorem State.putAll_keeps {r s : State} (h : r.Keeps s) (ps : List Piece) : r.Keeps (s.putAll ps) := by
  unfold State.putAll
  exact State.Keeps.foldl (fun hk p => State.putPiece_keeps hk p) _
    (State.Keeps.foldl (fun hk l => State.poisonLine_keeps hk ps l) _
      (State.Keeps.foldl (fun hk w => State.mergeWord_keeps hk ps w) _ h))

theorem State.noteWord_keeps {q0 s : State} (h : q0.Keeps s) (w : Nat) : q0.Keeps (State.noteWord s w) := by
  unfold State.noteWord
  try dsimp only
  repeat' first
    | assumption
    | with_reducible apply State.hand_keeps
    | with_reducible apply State.corrected_keeps
    | with_reducible refine State.Keeps.foldl (fun hk a => ?_) _ ?_
    | split
    | with_reducible refine State.Keeps.upd ?_ ?_ ?_ ?_ ?_ ?_
    | rfl
    | simp; done

theorem State.noteReads_keeps {q0 s : State} (h : q0.Keeps s) (ws : List Nat) : q0.Keeps (State.noteReads s ws) := by
  unfold State.noteReads
  try dsimp only
  repeat' first
    | assumption
    | with_reducible apply State.noteWord_keeps
    | with_reducible refine State.Keeps.foldl (fun hk a => ?_) _ ?_
    | split
    | with_reducible refine State.Keeps.upd ?_ ?_ ?_ ?_ ?_ ?_
    | rfl
    | simp; done

theorem State.choose_keeps {r s : State} (h : r.Keeps s) (n : Nat) : r.Keeps (s.choose n).2 := h.upd rfl rfl rfl rfl rfl

theorem State.putHost_keeps {q0 s : State} (h : q0.Keeps s) (a : Nat) (l : List Byte) : q0.Keeps (State.putHost s a l) := by
  unfold State.putHost
  try dsimp only
  repeat' first
    | assumption
    | with_reducible apply State.putAll_keeps
    | with_reducible refine State.Keeps.foldl (fun hk a => ?_) _ ?_
    | split
    | with_reducible refine State.Keeps.upd ?_ ?_ ?_ ?_ ?_ ?_
    | rfl
    | simp; done

theorem idleTick_keeps {q0 s : State} (h : q0.Keeps s)  : q0.Keeps (idleTick s ) := by
  unfold idleTick
  try dsimp only
  repeat' first
    | assumption
    | with_reducible refine State.Keeps.foldl (fun hk a => ?_) _ ?_
    | split
    | with_reducible refine State.Keeps.upd ?_ ?_ ?_ ?_ ?_ ?_
    | rfl
    | simp; done

theorem State.event_keeps {q0 s : State} (h : q0.Keeps s) (code : Nat) (fold : Option Nat) (tag : Nat) (brand : Nat) (pen : Nat) (info : Nat) : q0.Keeps (State.event s code fold tag brand pen info) := by
  unfold State.event
  try dsimp only
  repeat' first
    | assumption
    | with_reducible apply State.bumpFault_keeps
    | with_reducible apply State.count_keeps
    | with_reducible refine State.Keeps.foldl (fun hk a => ?_) _ ?_
    | split
    | with_reducible refine State.Keeps.upd ?_ ?_ ?_ ?_ ?_ ?_
    | rfl
    | simp; done

theorem State.note_keeps {q0 s : State} (h : q0.Keeps s) (code : Nat) (info : Nat) : q0.Keeps (State.note s code info) := by
  unfold State.note
  try dsimp only
  repeat' first
    | assumption
    | with_reducible apply State.event_keeps
    | with_reducible refine State.Keeps.foldl (fun hk a => ?_) _ ?_
    | split
    | with_reducible refine State.Keeps.upd ?_ ?_ ?_ ?_ ?_ ?_
    | rfl
    | simp; done

theorem State.noteP_keeps {q0 s : State} (h : q0.Keeps s) (code : Nat) (pen : Nat) (info : Nat) : q0.Keeps (State.noteP s code pen info) := by
  unfold State.noteP
  try dsimp only
  repeat' first
    | assumption
    | with_reducible apply State.event_keeps
    | with_reducible refine State.Keeps.foldl (fun hk a => ?_) _ ?_
    | split
    | with_reducible refine State.Keeps.upd ?_ ?_ ?_ ?_ ?_ ?_
    | rfl
    | simp; done

theorem State.noteF_keeps {q0 s : State} (h : q0.Keeps s) (code : Nat) (f : Nat) (info : Nat) : q0.Keeps (State.noteF s code f info) := by
  unfold State.noteF
  try dsimp only
  repeat' first
    | assumption
    | with_reducible apply State.event_keeps
    | with_reducible refine State.Keeps.foldl (fun hk a => ?_) _ ?_
    | split
    | with_reducible refine State.Keeps.upd ?_ ?_ ?_ ?_ ?_ ?_
    | rfl
    | simp; done

theorem State.noteD_keeps {q0 s : State} (h : q0.Keeps s) (code : Nat) (f : Option Nat) (d : Desc) (info : Nat) : q0.Keeps (State.noteD s code f d info) := by
  unfold State.noteD
  try dsimp only
  repeat' first
    | assumption
    | with_reducible apply State.event_keeps
    | with_reducible refine State.Keeps.foldl (fun hk a => ?_) _ ?_
    | split
    | with_reducible refine State.Keeps.upd ?_ ?_ ?_ ?_ ?_ ?_
    | rfl
    | simp; done

theorem State.modDesc_keeps {q0 s : State} (h : q0.Keeps s) (did : Nat) (f : Desc → Desc) : q0.Keeps (State.modDesc s did f) := by
  unfold State.modDesc
  try dsimp only
  repeat' first
    | assumption
    | with_reducible refine State.Keeps.foldl (fun hk a => ?_) _ ?_
    | split
    | with_reducible refine State.Keeps.upd ?_ ?_ ?_ ?_ ?_ ?_
    | rfl
    | simp; done

theorem State.dropDesc_keeps {q0 s : State} (h : q0.Keeps s) (did : Nat) : q0.Keeps (State.dropDesc s did) := by
  unfold State.dropDesc
  try dsimp only
  repeat' first
    | assumption
    | with_reducible refine State.Keeps.foldl (fun hk a => ?_) _ ?_
    | split
    | with_reducible refine State.Keeps.upd ?_ ?_ ?_ ?_ ?_ ?_
    | rfl
    | simp; done

theorem State.voidBound_keeps {q0 s : State} (h : q0.Keeps s) (did : Nat) : q0.Keeps (State.voidBound s did) := by
  unfold State.voidBound
  try dsimp only
  repeat' first
    | assumption
    | with_reducible apply State.modDesc_keeps
    | with_reducible refine State.Keeps.foldl (fun hk a => ?_) _ ?_
    | split
    | with_reducible refine State.Keeps.upd ?_ ?_ ?_ ?_ ?_ ?_
    | rfl
    | simp; done

theorem State.voidBehind_keeps {q0 s : State} (h : q0.Keeps s) (st : Nat) (fs : List Nat) (all : Bool) : q0.Keeps (State.voidBehind s st fs all) := by
  unfold State.voidBehind
  try dsimp only
  repeat' first
    | assumption
    | with_reducible refine State.Keeps.foldl (fun hk a => ?_) _ ?_
    | split
    | with_reducible refine State.Keeps.upd ?_ ?_ ?_ ?_ ?_ ?_
    | rfl
    | simp; done

theorem State.voidBarred_keeps {q0 s : State} (h : q0.Keeps s)  : q0.Keeps (State.voidBarred s ) := by
  unfold State.voidBarred
  try dsimp only
  repeat' first
    | assumption
    | with_reducible refine State.Keeps.foldl (fun hk a => ?_) _ ?_
    | split
    | with_reducible refine State.Keeps.upd ?_ ?_ ?_ ?_ ?_ ?_
    | rfl
    | simp; done

theorem State.takeId_keeps {r s : State} (h : r.Keeps s) {port : Nat} {x : Nat × State} (e : s.takeId port = some x) : r.Keeps x.2 := by
  have h1 := State.choose_keeps h (s.freeIds port).length
  unfold State.takeId at e
  generalize s.freeIds port = l at e h1
  by_cases hb : (!(bit s.ready.sn.toNat port) || l.isEmpty) = true
  · simp [hb] at e
  · simp only [hb] at e
    obtain rfl := Option.some.inj e
    exact h1

theorem State.emit_keeps {q0 s : State} (h : q0.Keeps s) (r : SnReq) : q0.Keeps (State.emit s r) := by
  unfold State.emit
  try dsimp only
  repeat' first
    | assumption
    | with_reducible refine State.Keeps.foldl (fun hk a => ?_) _ ?_
    | split
    | with_reducible refine State.Keeps.upd ?_ ?_ ?_ ?_ ?_ ?_
    | rfl
    | simp; done

theorem State.issueTxn_keeps {q0 s : State} (h : q0.Keeps s) (owner : Owner) (unit : Nat) (r : SnReq) : q0.Keeps (State.issueTxn s owner unit r) := by
  unfold State.issueTxn
  try dsimp only
  repeat' first
    | assumption
    | with_reducible apply State.emit_keeps
    | with_reducible refine State.Keeps.foldl (fun hk a => ?_) _ ?_
    | split
    | with_reducible refine State.Keeps.upd ?_ ?_ ?_ ?_ ?_ ?_
    | rfl
    | simp; done

theorem State.dropTxn_keeps {q0 s : State} (h : q0.Keeps s) (t : Txn) : q0.Keeps (State.dropTxn s t) := by
  unfold State.dropTxn
  try dsimp only
  repeat' first
    | assumption
    | with_reducible refine State.Keeps.foldl (fun hk a => ?_) _ ?_
    | split
    | with_reducible refine State.Keeps.upd ?_ ?_ ?_ ?_ ?_ ?_
    | rfl
    | simp; done

theorem State.issueLines_keeps : ∀ {r s t : State} (_ : r.Keeps s) {key : Nat} {write msg : Bool} {w : List (Nat × Byte)} (l : List Nat),
    s.issueLines key write msg w l = some t → r.Keeps t
  | _, _, _, h, _, _, _, _, [], e => by cases e; exact h
  | _, _, _, h, _, _, _, _, _ :: r, e => by
    unfold State.issueLines at e
    dsimp only at e
    split at e
    · cases e
    · next heq => exact State.issueLines_keeps (State.issueTxn_keeps (State.takeId_keeps h heq) _ _ _) r e

theorem State.passOwn_keeps {r s : State} (h : r.Keeps s) (write : Bool) (w : List (Nat × Byte)) (lines : List Nat) :
    r.Keeps (s.passOwn write w lines) := by
  refine State.Keeps.foldl (fun {r s} hk a => ?_) _ h
  split
  · exact hk
  · next e => exact State.emit_keeps (State.takeId_keeps hk e) _

theorem State.issueOwn_keeps {r s t : State} (h : r.Keeps s) {kind : OwnKind} {write : Bool} {lines : List Nat}
    {writes : List (Nat × Byte)} (e : s.issueOwn kind write lines writes = some t) : r.Keeps t := by
  have h1 : r.Keeps { s with nextKey := s.nextKey + 1, own := s.own ++ [{ key := s.nextKey, kind := kind, writes := writes, waiting := false }] } := h.upd rfl rfl rfl rfl rfl
  unfold State.issueOwn at e
  exact State.issueLines_keeps h1 lines e

theorem State.dropOwn_keeps {q0 s : State} (h : q0.Keeps s) (key : Nat) : q0.Keeps (State.dropOwn s key) := by
  unfold State.dropOwn
  try dsimp only
  repeat' first
    | assumption
    | with_reducible refine State.Keeps.foldl (fun hk a => ?_) _ ?_
    | split
    | with_reducible refine State.Keeps.upd ?_ ?_ ?_ ?_ ?_ ?_
    | rfl
    | simp; done

theorem State.storeBytes_keeps {q0 s : State} (h : q0.Keeps s) (w : List (Nat × Byte)) : q0.Keeps (State.storeBytes s w) := by
  unfold State.storeBytes
  try dsimp only
  repeat' first
    | assumption
    | with_reducible apply State.putAll_keeps
    | with_reducible refine State.Keeps.foldl (fun hk a => ?_) _ ?_
    | split
    | with_reducible refine State.Keeps.upd ?_ ?_ ?_ ?_ ?_ ?_
    | rfl
    | simp; done

theorem State.setArm_keeps {q0 s : State} (h : q0.Keeps s)  : q0.Keeps (State.setArm s ) := by
  unfold State.setArm
  try dsimp only
  repeat' first
    | assumption
    | with_reducible refine State.Keeps.foldl (fun hk a => ?_) _ ?_
    | split
    | with_reducible refine State.Keeps.upd ?_ ?_ ?_ ?_ ?_ ?_
    | rfl
    | simp; done

theorem State.leaveAll_keeps {q0 s : State} (h : q0.Keeps s) (did : Nat) : q0.Keeps (State.leaveAll s did) := by
  unfold State.leaveAll
  try dsimp only
  repeat' first
    | assumption
    | with_reducible refine State.Keeps.foldl (fun hk a => ?_) _ ?_
    | split
    | with_reducible refine State.Keeps.upd ?_ ?_ ?_ ?_ ?_ ?_
    | rfl
    | simp; done

theorem State.modPair_keeps {q0 s : State} (h : q0.Keeps s) (f : Nat) (g : Fold → Fold) : q0.Keeps (State.modPair s f g) := by
  unfold State.modPair
  try dsimp only
  repeat' first
    | assumption
    | with_reducible apply State.modL_keeps
    | with_reducible refine State.Keeps.foldl (fun hk a => ?_) _ ?_
    | split
    | with_reducible refine State.Keeps.upd ?_ ?_ ?_ ?_ ?_ ?_
    | rfl
    | simp; done

theorem State.wake_keeps {q0 s : State} (h : q0.Keeps s) (fs : List Nat) : q0.Keeps (State.wake s fs) := by
  unfold State.wake
  try dsimp only
  repeat' first
    | assumption
    | with_reducible apply State.modPair_keeps
    | with_reducible refine State.Keeps.foldl (fun hk a => ?_) _ ?_
    | split
    | with_reducible refine State.Keeps.upd ?_ ?_ ?_ ?_ ?_ ?_
    | rfl
    | simp; done

theorem State.dropLoads_keeps {q0 s : State} (h : q0.Keeps s) (d : Desc) : q0.Keeps (State.dropLoads s d) := by
  unfold State.dropLoads
  try dsimp only
  repeat' first
    | assumption
    | with_reducible apply State.modPair_keeps
    | with_reducible refine State.Keeps.foldl (fun hk a => ?_) _ ?_
    | split
    | with_reducible refine State.Keeps.upd ?_ ?_ ?_ ?_ ?_ ?_
    | rfl
    | simp; done

theorem State.dropRoutes_keeps {q0 s : State} (h : q0.Keeps s) (d : Desc) : q0.Keeps (State.dropRoutes s d) := by
  unfold State.dropRoutes
  try dsimp only
  repeat' first
    | assumption
    | with_reducible apply State.modPair_keeps
    | with_reducible refine State.Keeps.foldl (fun hk a => ?_) _ ?_
    | split
    | with_reducible refine State.Keeps.upd ?_ ?_ ?_ ?_ ?_ ?_
    | rfl
    | simp; done

theorem State.flushHeld_keeps {q0 s : State} (h : q0.Keeps s) (d : Desc) : q0.Keeps (State.flushHeld s d) := by
  unfold State.flushHeld
  try dsimp only
  repeat' first
    | assumption
    | with_reducible apply State.putAll_keeps
    | with_reducible refine State.Keeps.foldl (fun hk a => ?_) _ ?_
    | split
    | with_reducible refine State.Keeps.upd ?_ ?_ ?_ ?_ ?_ ?_
    | rfl
    | simp; done

theorem State.endAgain_keeps {q0 s : State} (h : q0.Keeps s) (d : Desc) (st : Status) : q0.Keeps (State.endAgain s d st) := by
  unfold State.endAgain
  try dsimp only
  repeat' first
    | assumption
    | with_reducible apply State.modDesc_keeps
    | with_reducible refine State.Keeps.foldl (fun hk a => ?_) _ ?_
    | split
    | with_reducible refine State.Keeps.upd ?_ ?_ ?_ ?_ ?_ ?_
    | rfl
    | simp; done

theorem State.endEarly_keeps {q0 s : State} (h : q0.Keeps s) (did : Nat) (st : Status) : q0.Keeps (State.endEarly s did st) := by
  unfold State.endEarly
  try dsimp only
  repeat' first
    | assumption
    | with_reducible apply State.modDesc_keeps
    | with_reducible apply State.voidBarred_keeps
    | with_reducible apply State.setArm_keeps
    | with_reducible apply State.leaveAll_keeps
    | with_reducible apply State.dropLoads_keeps
    | with_reducible apply State.dropRoutes_keeps
    | with_reducible apply State.flushHeld_keeps
    | with_reducible apply State.endAgain_keeps
    | with_reducible refine State.Keeps.foldl (fun hk a => ?_) _ ?_
    | split
    | with_reducible refine State.Keeps.upd ?_ ?_ ?_ ?_ ?_ ?_
    | rfl
    | simp; done

theorem State.finish_keeps {q0 s : State} (h : q0.Keeps s) (did : Nat) : q0.Keeps (State.finish s did) := by
  unfold State.finish
  try dsimp only
  repeat' first
    | assumption
    | with_reducible apply State.modDesc_keeps
    | with_reducible apply State.setArm_keeps
    | with_reducible apply State.leaveAll_keeps
    | with_reducible apply State.dropRoutes_keeps
    | with_reducible refine State.Keeps.foldl (fun hk a => ?_) _ ?_
    | split
    | with_reducible refine State.Keeps.upd ?_ ?_ ?_ ?_ ?_ ?_
    | rfl
    | simp; done

theorem State.asShadow_keeps {q0 s : State} (h : q0.Keeps s) (f : Nat) (q : Nat) : q0.Keeps (State.asShadow s f q) := by
  unfold State.asShadow
  try dsimp only
  repeat' first
    | assumption
    | with_reducible apply State.modFold_keeps
    | with_reducible refine State.Keeps.foldl (fun hk a => ?_) _ ?_
    | split
    | with_reducible refine State.Keeps.upd ?_ ?_ ?_ ?_ ?_ ?_
    | rfl
    | simp; done

theorem State.commit_keeps {q0 s : State} (h : q0.Keeps s) (d : Desc) (f : Nat) (u : Nat) (o : Out) : q0.Keeps (State.commit s d f u o) := by
  unfold State.commit
  try dsimp only
  repeat' first
    | assumption
    | with_reducible apply State.putAll_keeps
    | with_reducible apply State.noteReads_keeps
    | with_reducible apply State.noteD_keeps
    | with_reducible apply State.modDesc_keeps
    | with_reducible apply State.modPair_keeps
    | with_reducible refine State.Keeps.foldl (fun hk a => ?_) _ ?_
    | split
    | with_reducible refine State.Keeps.upd ?_ ?_ ?_ ?_ ?_ ?_
    | rfl
    | simp; done

theorem State.loadRoute_keeps {q0 s : State} (h : q0.Keeps s) (d : Desc) (f : Nat) : q0.Keeps (State.loadRoute s d f) := by
  unfold State.loadRoute
  try dsimp only
  repeat' first
    | assumption
    | with_reducible apply State.modL_keeps
    | with_reducible apply State.noteReads_keeps
    | with_reducible apply State.asShadow_keeps
    | with_reducible refine State.Keeps.foldl (fun hk a => ?_) _ ?_
    | split
    | with_reducible refine State.Keeps.upd ?_ ?_ ?_ ?_ ?_ ?_
    | rfl
    | simp; done

theorem State.latchPermute_keeps {q0 s : State} (h : q0.Keeps s) (d : Desc) (f : Nat) : q0.Keeps (State.latchPermute s d f) := by
  unfold State.latchPermute
  try dsimp only
  repeat' first
    | assumption
    | with_reducible apply State.modPair_keeps
    | with_reducible refine State.Keeps.foldl (fun hk a => ?_) _ ?_
    | split
    | with_reducible refine State.Keeps.upd ?_ ?_ ?_ ?_ ?_ ?_
    | rfl
    | simp; done

theorem State.pickPieces_keeps : ∀ {r s : State} (_ : r.Keeps s) (l : List (List Piece)), r.Keeps (s.pickPieces l).1
  | _, _, h, [] => h
  | _, _, h, [] :: l => State.pickPieces_keeps h l
  | _, s, h, (p :: q) :: l => by
    unfold State.pickPieces
    split
    · exact State.pickPieces_keeps h l
    · exact State.pickPieces_keeps (State.choose_keeps h _) l

theorem State.settleBytes_keeps (old : Nat → Bool) : ∀ {r s : State} (_ : r.Keeps s) (l : List Piece), r.Keeps (s.settleBytes old l).1
  | _, _, h, [] => h
  | _, s, h, p :: l => by
    unfold State.settleBytes
    split
    · exact State.settleBytes_keeps old (State.choose_keeps h 2) l
    · exact State.settleBytes_keeps old h l

theorem State.putFree_keeps {r s : State} (h : r.Keeps s) (ps : List Piece) : r.Keeps (s.putFree ps) :=
  State.putAll_keeps (State.pickPieces_keeps h _) _

theorem State.raceByte_keeps : ∀ (n : Nat) {r s : State} (_ : r.Keeps s) (ps : List (Piece × (Byte × Bool))) (cur : Byte × Bool),
    r.Keeps (State.raceByte n s ps cur).1
  | 0, _, _, h, _, _ => h
  | _ + 1, _, _, h, [], _ => h
  | n + 1, _, _, h, _ :: _, _ => State.raceByte_keeps n (State.choose_keeps (State.choose_keeps h _) _) _ _

theorem State.raceBytes_keeps : ∀ {r s : State} (_ : r.Keeps s) (wins : List Win) (l : List Nat), r.Keeps (s.raceBytes wins l).1
  | _, _, h, _, [] => h
  | r, s, h, wins, k :: l => by
    have hf : ∀ (m : List (List (Piece × (Byte × Bool)))) (acc : State × List (Piece × (Byte × Bool))), r.Keeps acc.1 →
        r.Keeps (m.foldl (fun (acc : State × List (Piece × (Byte × Bool))) w =>
          ((acc.1.pickPieces (groupPieces (w.map Prod.fst))).1,
            acc.2 ++ (mergePieces (acc.1.pickPieces (groupPieces (w.map Prod.fst))).2).map (fun p =>
              (p, (w.head?.map Prod.snd).getD (s.hostByte k))))) acc).1 := by
      intro m
      induction m with
      | nil => intro acc ha; exact ha
      | cons w m ih => intro acc ha; exact ih _ (State.pickPieces_keeps ha _)
    exact State.raceBytes_keeps (State.raceByte_keeps _ (hf _ (s, []) h) _ _) wins l

theorem State.settleWins_keeps {r s : State} (h : r.Keeps s) (d : Desc) (wins : List Win) (keys : List (Bool × Nat)) :
    r.Keeps (s.settleWins d wins keys) := by
  unfold State.settleWins
  extract_lets here x
  split
  · exact State.putAll_keeps (State.raceBytes_keeps h _ _) _
  · split
    · exact State.putFree_keeps h _
    · exact State.putFree_keeps h _

theorem State.holdLines_keeps {r s : State} (h : r.Keeps s) (d : Desc) (f u : Nat) (o : Out) : r.Keeps (s.holdLines d f u o).1 := by
  unfold State.holdLines
  split
  · exact h
  · exact State.modL_keeps h _ _

theorem State.modPen_keeps {q0 s : State} (h : q0.Keeps s) (p : Nat) (f : Pen → Pen) : q0.Keeps (State.modPen s p f) := by
  unfold State.modPen
  try dsimp only
  repeat' first
    | assumption
    | with_reducible refine State.Keeps.foldl (fun hk a => ?_) _ ?_
    | split
    | with_reducible refine State.Keeps.upd ?_ ?_ ?_ ?_ ?_ ?_
    | rfl
    | simp; done

theorem State.payLines_keeps {q0 s : State} (h : q0.Keeps s) (d : Desc) (n : Nat) : q0.Keeps (State.payLines s d n) := by
  unfold State.payLines
  try dsimp only
  repeat' first
    | assumption
    | with_reducible apply State.modDesc_keeps
    | with_reducible apply State.modPen_keeps
    | with_reducible refine State.Keeps.foldl (fun hk a => ?_) _ ?_
    | split
    | with_reducible refine State.Keeps.upd ?_ ?_ ?_ ?_ ?_ ?_
    | rfl
    | simp; done

theorem State.waitFor_keeps {q0 s : State} (h : q0.Keeps s) (did : Nat) (f : Nat) : q0.Keeps (State.waitFor s did f) := by
  unfold State.waitFor
  try dsimp only
  repeat' first
    | assumption
    | with_reducible refine State.Keeps.foldl (fun hk a => ?_) _ ?_
    | split
    | with_reducible refine State.Keeps.upd ?_ ?_ ?_ ?_ ?_ ?_
    | rfl
    | simp; done

theorem State.noWait_keeps {q0 s : State} (h : q0.Keeps s) (did : Nat) (f : Nat) : q0.Keeps (State.noWait s did f) := by
  unfold State.noWait
  try dsimp only
  repeat' first
    | assumption
    | with_reducible refine State.Keeps.foldl (fun hk a => ?_) _ ?_
    | split
    | with_reducible refine State.Keeps.upd ?_ ?_ ?_ ?_ ?_ ?_
    | rfl
    | simp; done

theorem State.lineId_keeps {r s : State} (h : r.Keeps s) {d : Desc} {line : Nat} {write : Bool} {x : Nat × Nat × State}
    (e : s.lineId d line write = some x) : r.Keeps x.2.2 := by
  unfold State.lineId at e
  dsimp only at e
  split at e
  · split at e
    · obtain rfl := Option.some.inj e
      exact h
    · cases e
  · obtain ⟨u, hu, e⟩ := Option.map_eq_some_iff.mp e
    subst e
    exact State.modDesc_keeps (State.takeId_keeps h hu) _ _
  · obtain ⟨u, hu, e⟩ := Option.map_eq_some_iff.mp e
    subst e
    exact State.takeId_keeps h hu

theorem State.passBeat_keeps {r s : State} (h : r.Keeps s) (d : Desc) (l : HLine) (beat : BitVec 512 × BitVec 64 × Bool) :
    r.Keeps (s.passBeat d l beat) := by
  unfold State.passBeat
  split
  · exact h
  · next e =>
    obtain ⟨_, _, e⟩ := Option.bind_eq_some_iff.mp e
    exact State.emit_keeps (State.lineId_keeps h e) _

theorem State.passRead_keeps {r s : State} (h : r.Keeps s) (d : Desc) (l : HLine) : r.Keeps (s.passRead d l) := by
  unfold State.passRead
  split
  · exact h
  · next e => exact State.emit_keeps (State.lineId_keeps h e) _

theorem State.passLines_keeps {q0 s : State} (h : q0.Keeps s) (d : Desc) (write : Bool) (ps : List Piece) (hs : List HLine) : q0.Keeps (State.passLines s d write ps hs) := by
  unfold State.passLines
  try dsimp only
  repeat' first
    | assumption
    | with_reducible apply State.passBeat_keeps
    | with_reducible apply State.passRead_keeps
    | with_reducible refine State.Keeps.foldl (fun hk a => ?_) _ ?_
    | split
    | with_reducible refine State.Keeps.upd ?_ ?_ ?_ ?_ ?_ ?_
    | rfl
    | simp; done

theorem State.freeLanding_keeps {q0 s : State} (h : q0.Keeps s) (d : Desc) (f : Nat) (u : Nat) : q0.Keeps (State.freeLanding s d f u) := by
  unfold State.freeLanding
  try dsimp only
  repeat' first
    | assumption
    | with_reducible apply State.modL_keeps
    | with_reducible refine State.Keeps.foldl (fun hk a => ?_) _ ?_
    | split
    | with_reducible refine State.Keeps.upd ?_ ?_ ?_ ?_ ?_ ?_
    | rfl
    | simp; done

theorem State.putXfer_keeps {q0 s : State} (h : q0.Keeps s) (x : Transfer) : q0.Keeps (State.putXfer s x) := by
  unfold State.putXfer
  try dsimp only
  repeat' first
    | assumption
    | with_reducible refine State.Keeps.foldl (fun hk a => ?_) _ ?_
    | split
    | with_reducible refine State.Keeps.upd ?_ ?_ ?_ ?_ ?_ ?_
    | rfl
    | simp; done

theorem State.sendLeg_keeps {q0 s : State} (h : q0.Keeps s) (d : Desc) (x : Transfer) (len : Nat) : q0.Keeps (State.sendLeg s d x len) := by
  unfold State.sendLeg
  try dsimp only
  repeat' first
    | assumption
    | with_reducible apply State.putAll_keeps
    | with_reducible apply State.wake_keeps
    | with_reducible apply State.putXfer_keeps
    | with_reducible refine State.Keeps.foldl (fun hk a => ?_) _ ?_
    | split
    | with_reducible refine State.Keeps.upd ?_ ?_ ?_ ?_ ?_ ?_
    | rfl
    | simp; done

theorem State.startLeg_keeps {q0 s : State} (h : q0.Keeps s) (d : Desc) (k : Nat) (pass : Bool) : q0.Keeps (State.startLeg s d k pass) := by
  unfold State.startLeg
  try dsimp only
  repeat' first
    | assumption
    | with_reducible apply State.sendLeg_keeps
    | with_reducible refine State.Keeps.foldl (fun hk a => ?_) _ ?_
    | split
    | with_reducible refine State.Keeps.upd ?_ ?_ ?_ ?_ ?_ ?_
    | rfl
    | simp; done

theorem State.runLegs_keeps {q0 s : State} (h : q0.Keeps s) (did : Nat) : q0.Keeps (State.runLegs s did) := by
  unfold State.runLegs
  try dsimp only
  repeat' first
    | assumption
    | with_reducible apply State.startLeg_keeps
    | with_reducible refine State.Keeps.foldl (fun hk a => ?_) _ ?_
    | split
    | with_reducible refine State.Keeps.upd ?_ ?_ ?_ ?_ ?_ ?_
    | rfl
    | simp; done

theorem State.settle_keeps {r s : State} (h : r.Keeps s) (d : Desc) (o : Out) : r.Keeps (s.settle d o).1 := by
  unfold State.settle
  split
  · exact State.settleBytes_keeps _ (State.pickPieces_keeps h _) _
  · exact h

theorem State.stepProg_keeps {q0 s : State} (h : q0.Keeps s) (did : Nat) (f : Nat) (u : Nat) : q0.Keeps (State.stepProg s did f u) := by
  unfold State.stepProg
  try dsimp only
  repeat' first
    | assumption
    | with_reducible apply State.modDesc_keeps
    | with_reducible refine State.Keeps.foldl (fun hk a => ?_) _ ?_
    | split
    | with_reducible refine State.Keeps.upd ?_ ?_ ?_ ?_ ?_ ?_
    | rfl
    | simp; done

theorem State.commitRacy_keeps {r s : State} (h : r.Keeps s) (d : Desc) (f u : Nat) (o : Out) : r.Keeps (s.commitRacy d f u o) :=
  State.modDesc_keeps (State.commit_keeps (State.settleWins_keeps h _ _ _) _ _ _ _) _ _

theorem State.commitUnit_keeps {r s : State} (h : r.Keeps s) (d : Desc) (f u : Nat) (ls : List Nat) (ws : List HLine) :
    r.Keeps (s.commitUnit d f u ls ws) := by
  unfold State.commitUnit
  extract_lets o x y s1
  have h1 : r.Keeps s1 := by
    show r.Keeps (if _ then _ else _)
    split
    · exact State.commitRacy_keeps (State.passLines_keeps h _ _ _ _) _ _ _ _
    · exact State.commit_keeps (State.passLines_keeps (State.holdLines_keeps (State.settle_keeps h _ _) _ _ _ _) _ _ _ _) _ _ _ _
  exact State.freeLanding_keeps (State.latchPermute_keeps (State.stepProg_keeps h1 _ _ _) _ _) _ _ _

theorem State.unpair_keeps {q0 s : State} (h : q0.Keeps s) (k : Nat) : q0.Keeps (State.unpair s k) := by
  unfold State.unpair
  try dsimp only
  repeat' first
    | assumption
    | with_reducible apply State.noteF_keeps
    | with_reducible refine State.Keeps.foldl (fun hk a => ?_) _ ?_
    | split
    | with_reducible refine State.Keeps.upd ?_ ?_ ?_ ?_ ?_ ?_
    | rfl
    | simp; done

theorem State.mismatch_keeps {q0 s : State} (h : q0.Keeps s) (k : Nat) (did : Nat) (f : Nat) (shd : Nat) : q0.Keeps (State.mismatch s k did f shd) := by
  unfold State.mismatch
  try dsimp only
  repeat' first
    | assumption
    | with_reducible apply State.modL_keeps
    | with_reducible apply State.endEarly_keeps
    | with_reducible apply State.unpair_keeps
    | with_reducible refine State.Keeps.foldl (fun hk a => ?_) _ ?_
    | split
    | with_reducible refine State.Keeps.upd ?_ ?_ ?_ ?_ ?_ ?_
    | rfl
    | simp; done

theorem State.disagree_keeps {r s : State} (h : r.Keeps s) (d : Desc) (f u : Nat) (ls : List Nat) : r.Keeps (s.disagree d f u ls) := by
  unfold State.disagree
  split
  · exact h
  · extract_lets seen s1 s2 s3
    have h2 : r.Keeps s2 := State.voidBound_keeps (State.noteD_keeps (State.noteReads_keeps h _) _ _ _ _) _
    have h3 : r.Keeps s3 := by
      show r.Keeps (if _ then _ else _)
      split
      · exact h2
      · exact State.noteD_keeps h2 _ _ _ _
    exact State.mismatch_keeps h3 _ _ _ _

theorem State.landPart_keeps {q0 s : State} (h : q0.Keeps s) (did : Nat) (f : Nat) (u : Nat) (hs : List HLine) : q0.Keeps (State.landPart s did f u hs) := by
  unfold State.landPart
  try dsimp only
  repeat' first
    | assumption
    | with_reducible apply State.modL_keeps
    | with_reducible apply State.modDesc_keeps
    | with_reducible refine State.Keeps.foldl (fun hk a => ?_) _ ?_
    | split
    | with_reducible refine State.Keeps.upd ?_ ?_ ?_ ?_ ?_ ?_
    | rfl
    | simp; done

theorem State.unitBytes_keeps {r s : State} (h : r.Keeps s) (d : Desc) (f u : Nat) (ls : List Nat) : r.Keeps (s.unitBytes d f u ls).1 := by
  unfold State.unitBytes
  extract_lets o x
  split
  · exact h
  · exact State.settle_keeps h _ _

theorem State.writePart_keeps {r s : State} (h : r.Keeps s) (d : Desc) (f u : Nat) (ls : List Nat) (hs : List HLine) :
    r.Keeps (s.writePart d f u ls hs) :=
  State.modDesc_keeps (State.putAll_keeps (State.passLines_keeps (State.unitBytes_keeps h _ _ _ _) _ _ _ _) _) _ _

theorem State.deal_keeps {r s : State} (h : r.Keeps s) (d : Desc) (asks : Progress) : r.Keeps (s.deal d asks).1 := by
  unfold State.deal
  extract_lets fs g got s1
  refine State.Keeps.foldl (fun {r s} hk x => ?_) _ (State.payLines_keeps h _ _)
  extract_lets k
  split
  · exact State.noWait_keeps hk _ _
  · refine State.waitFor_keeps ?_ _ _
    split
    · exact hk
    · exact State.noWait_keeps hk _ _

theorem State.rewrite_keeps {q0 s : State} (h : q0.Keeps s) (d : Desc) (ws : List WLine) : q0.Keeps (State.rewrite s d ws) := by
  unfold State.rewrite
  try dsimp only
  repeat' first
    | assumption
    | with_reducible apply State.putAll_keeps
    | with_reducible apply State.modDesc_keeps
    | with_reducible apply State.passBeat_keeps
    | with_reducible refine State.Keeps.foldl (fun hk a => ?_) _ ?_
    | split
    | with_reducible refine State.Keeps.upd ?_ ?_ ?_ ?_ ?_ ?_
    | rfl
    | simp; done

theorem State.runUnits_keeps (did f : Nat) (us : List (List Nat)) : ∀ (l : List (List Nat)) (u k : Nat) {r s : State} (_ : r.Keeps s),
    r.Keeps (s.runUnits did f us u k l)
  | [], _, _, _, _, h => h
  | ls :: l, u, k, r, s, h => by
    unfold State.runUnits
    split
    · next d p e1 e2 =>
      split
      · exact h
      · extract_lets rs ws t
        have ht : r.Keeps t := State.passLines_keeps h _ _ _ _
        split
        · exact State.landPart_keeps ht _ _ _ _
        · split
          · exact State.disagree_keeps ht _ _ _ _
          · split
            · exact State.writePart_keeps (State.landPart_keeps ht _ _ _ _) _ _ _ _ _
            · exact State.runUnits_keeps did f us l _ _ (State.commitUnit_keeps (State.noteReads_keeps ht _) _ _ _ _ _)
    · exact h

theorem State.runFold_keeps {r s : State} (h : r.Keeps s) (d : Desc) (f : Nat) (us : List (List Nat)) (u k : Nat) (ls : List (List Nat)) :
    r.Keeps (s.runFold d f us u k ls) := by
  unfold State.runFold
  extract_lets n t
  have ht : r.Keeps t := State.rewrite_keeps h _ _
  split
  · exact ht
  · exact State.runUnits_keeps _ _ _ _ _ _ ht

theorem State.runStage_keeps {r s : State} (h : r.Keeps s) (did b : Nat) (want : Nat → Nat) : r.Keeps (s.runStage did b want) := by
  unfold State.runStage
  split
  · exact h
  · extract_lets goal mine g
    exact State.Keeps.foldl (fun hk x => State.runFold_keeps hk _ _ _ _ _ _) _ (State.deal_keeps h _ _)

theorem State.stages_keeps (did : Nat) (want : Nat → Nat) : ∀ (l : List Nat) {r s : State} (_ : r.Keeps s), r.Keeps (s.stages did want l)
  | [], _, _, h => h
  | b :: l, r, s, h => by
    unfold State.stages
    extract_lets t
    have ht : r.Keeps t := State.runStage_keeps (State.runLegs_keeps h _) _ _ _
    split
    · exact State.stages_keeps did want l ht
    · exact ht

theorem State.refuseLate_keeps {q0 s : State} (h : q0.Keeps s) (did : Nat) (st : Status) : q0.Keeps (State.refuseLate s did st) := by
  unfold State.refuseLate
  try dsimp only
  repeat' first
    | assumption
    | with_reducible apply State.noteD_keeps
    | with_reducible apply State.modDesc_keeps
    | with_reducible apply State.endEarly_keeps
    | with_reducible refine State.Keeps.foldl (fun hk a => ?_) _ ?_
    | split
    | with_reducible refine State.Keeps.upd ?_ ?_ ?_ ?_ ?_ ?_
    | rfl
    | simp; done

theorem State.readCheck_keeps {r s : State} (h : r.Keeps s) (d : Desc) : r.Keeps (s.readCheck d) := by
  unfold State.readCheck
  extract_lets mine asks g
  refine State.Keeps.foldl (fun {r s} hk x => ?_) _ (State.deal_keeps h _ _)
  exact State.landPart_keeps (State.passLines_keeps hk _ _ _ _) _ _ _ _

theorem State.checkPass_keeps {q0 s : State} (h : q0.Keeps s) (did : Nat) : q0.Keeps (State.checkPass s did) := by
  unfold State.checkPass
  try dsimp only
  repeat' first
    | assumption
    | with_reducible apply State.noteReads_keeps
    | with_reducible apply State.refuseLate_keeps
    | with_reducible apply State.readCheck_keeps
    | with_reducible refine State.Keeps.foldl (fun hk a => ?_) _ ?_
    | split
    | with_reducible refine State.Keeps.upd ?_ ?_ ?_ ?_ ?_ ?_
    | rfl
    | simp; done

theorem State.leaveDone_keeps {q0 s : State} (h : q0.Keeps s) (did : Nat) : q0.Keeps (State.leaveDone s did) := by
  unfold State.leaveDone
  try dsimp only
  repeat' first
    | assumption
    | with_reducible apply State.modPair_keeps
    | with_reducible refine State.Keeps.foldl (fun hk a => ?_) _ ?_
    | split
    | with_reducible refine State.Keeps.upd ?_ ?_ ?_ ?_ ?_ ?_
    | rfl
    | simp; done

theorem State.advance_keeps {r s : State} (h : r.Keeps s) (did : Nat) (want : Nat → Nat) : r.Keeps (s.advance did want) := by
  unfold State.advance
  split
  · exact h
  · split
    · exact h
    · extract_lets s1
      have h1 : r.Keeps s1 := State.checkPass_keeps h _
      split
      · exact h1
      · split
        · exact h1
        · exact State.leaveDone_keeps (State.stages_keeps _ _ _ h1) _

theorem State.advanceAll_keeps {q0 s : State} (h : q0.Keeps s) (did : Nat) : q0.Keeps (State.advanceAll s did) := by
  unfold State.advanceAll
  try dsimp only
  repeat' first
    | assumption
    | with_reducible apply State.advance_keeps
    | with_reducible refine State.Keeps.foldl (fun hk a => ?_) _ ?_
    | split
    | with_reducible refine State.Keeps.upd ?_ ?_ ?_ ?_ ?_ ?_
    | rfl
    | simp; done

theorem State.armPort_keeps {q0 s : State} (h : q0.Keeps s) (d : Desc) : q0.Keeps (State.armPort s d) := by
  unfold State.armPort
  try dsimp only
  repeat' first
    | assumption
    | with_reducible apply State.modDesc_keeps
    | with_reducible refine State.Keeps.foldl (fun hk a => ?_) _ ?_
    | split
    | with_reducible refine State.Keeps.upd ?_ ?_ ?_ ?_ ?_ ?_
    | rfl
    | simp; done

theorem State.startFold_keeps {q0 s : State} (h : q0.Keeps s) (d : Desc) (f : Nat) : q0.Keeps (State.startFold s d f) := by
  unfold State.startFold
  try dsimp only
  repeat' first
    | assumption
    | with_reducible apply State.modDesc_keeps
    | with_reducible apply State.modPair_keeps
    | with_reducible apply State.loadRoute_keeps
    | with_reducible apply State.armPort_keeps
    | with_reducible refine State.Keeps.foldl (fun hk a => ?_) _ ?_
    | split
    | with_reducible refine State.Keeps.upd ?_ ?_ ?_ ?_ ?_ ?_
    | rfl
    | simp; done

theorem State.joinFolds_keeps {q0 s : State} (h : q0.Keeps s) (did : Nat) : q0.Keeps (State.joinFolds s did) := by
  unfold State.joinFolds
  try dsimp only
  repeat' first
    | assumption
    | with_reducible apply State.startFold_keeps
    | with_reducible refine State.Keeps.foldl (fun hk a => ?_) _ ?_
    | split
    | with_reducible refine State.Keeps.upd ?_ ?_ ?_ ?_ ?_ ?_
    | rfl
    | simp; done

theorem State.begin_keeps {q0 s : State} (h : q0.Keeps s) (did : Nat) : q0.Keeps (State.begin s did) := by
  unfold State.begin
  try dsimp only
  repeat' first
    | assumption
    | with_reducible apply State.noteReads_keeps
    | with_reducible apply State.modDesc_keeps
    | with_reducible apply State.refuseLate_keeps
    | with_reducible apply State.joinFolds_keeps
    | with_reducible refine State.Keeps.foldl (fun hk a => ?_) _ ?_
    | split
    | with_reducible refine State.Keeps.upd ?_ ?_ ?_ ?_ ?_ ?_
    | rfl
    | simp; done

theorem State.ensure_keeps {q0 s : State} (h : q0.Keeps s) (did : Nat) : q0.Keeps (State.ensure s did) := by
  unfold State.ensure
  try dsimp only
  repeat' first
    | assumption
    | with_reducible apply State.joinFolds_keeps
    | with_reducible apply State.begin_keeps
    | with_reducible refine State.Keeps.foldl (fun hk a => ?_) _ ?_
    | split
    | with_reducible refine State.Keeps.upd ?_ ?_ ?_ ?_ ?_ ?_
    | rfl
    | simp; done

theorem State.complete_keeps {q0 s : State} (h : q0.Keeps s) (did : Nat) : q0.Keeps (State.complete s did) := by
  unfold State.complete
  try dsimp only
  repeat' first
    | assumption
    | with_reducible apply State.finish_keeps
    | with_reducible apply State.refuseLate_keeps
    | with_reducible apply State.advanceAll_keeps
    | with_reducible refine State.Keeps.foldl (fun hk a => ?_) _ ?_
    | split
    | with_reducible refine State.Keeps.upd ?_ ?_ ?_ ?_ ?_ ?_
    | rfl
    | simp; done

theorem State.runOpcode_keeps {q0 s : State} (h : q0.Keeps s) (o : Opc) (did : Nat) : q0.Keeps (State.runOpcode s o did) := by
  unfold State.runOpcode
  try dsimp only
  repeat' first
    | assumption
    | with_reducible apply State.ensure_keeps
    | with_reducible apply State.complete_keeps
    | with_reducible refine State.Keeps.foldl (fun hk a => ?_) _ ?_
    | split
    | with_reducible refine State.Keeps.upd ?_ ?_ ?_ ?_ ?_ ?_
    | rfl
    | simp; done

theorem State.stopAt_keeps {q0 s : State} (h : q0.Keeps s) (did : Nat) (pts : Progress) (st : Status) : q0.Keeps (State.stopAt s did pts st) := by
  unfold State.stopAt
  try dsimp only
  repeat' first
    | assumption
    | with_reducible apply State.endEarly_keeps
    | with_reducible apply State.advance_keeps
    | with_reducible refine State.Keeps.foldl (fun hk a => ?_) _ ?_
    | split
    | with_reducible refine State.Keeps.upd ?_ ?_ ?_ ?_ ?_ ?_
    | rfl
    | simp; done

theorem State.setPhys_keeps {q0 s : State} (h : q0.Keeps s) (p : Nat) (x : PhysState) : q0.Keeps (State.setPhys s p x) := by
  unfold State.setPhys
  try dsimp only
  repeat' first
    | assumption
    | with_reducible refine State.Keeps.foldl (fun hk a => ?_) _ ?_
    | split
    | with_reducible refine State.Keeps.upd ?_ ?_ ?_ ?_ ?_ ?_
    | rfl
    | simp; done

theorem State.setReady_keeps {q0 s : State} (h : q0.Keeps s) (f : Nat) (b : Bool) : q0.Keeps (State.setReady s f b) := by
  unfold State.setReady
  try dsimp only
  repeat' first
    | assumption
    | with_reducible refine State.Keeps.foldl (fun hk a => ?_) _ ?_
    | split
    | with_reducible refine State.Keeps.upd ?_ ?_ ?_ ?_ ?_ ?_
    | rfl
    | simp; done

theorem State.loseAll_keeps {q0 s : State} (h : q0.Keeps s) (dids : List Nat) (pts : List (Nat × Progress)) : q0.Keeps (State.loseAll s dids pts) := by
  unfold State.loseAll
  try dsimp only
  repeat' first
    | assumption
    | with_reducible apply State.stopAt_keeps
    | with_reducible refine State.Keeps.foldl (fun hk a => ?_) _ ?_
    | split
    | with_reducible refine State.Keeps.upd ?_ ?_ ?_ ?_ ?_ ?_
    | rfl
    | simp; done

theorem State.voidFold_keeps {q0 s : State} (h : q0.Keeps s) (f : Nat) : q0.Keeps (State.voidFold s f) := by
  unfold State.voidFold
  try dsimp only
  repeat' first
    | assumption
    | with_reducible refine State.Keeps.foldl (fun hk a => ?_) _ ?_
    | split
    | with_reducible refine State.Keeps.upd ?_ ?_ ?_ ?_ ?_ ?_
    | rfl
    | simp; done

theorem State.breakPairs_keeps {q0 s : State} (h : q0.Keeps s) (f : Nat) : q0.Keeps (State.breakPairs s f) := by
  unfold State.breakPairs
  try dsimp only
  repeat' first
    | assumption
    | with_reducible apply State.unpair_keeps
    | with_reducible refine State.Keeps.foldl (fun hk a => ?_) _ ?_
    | split
    | with_reducible refine State.Keeps.upd ?_ ?_ ?_ ?_ ?_ ?_
    | rfl
    | simp; done

theorem State.makeAbsent_keeps {q0 s : State} (h : q0.Keeps s) (f : Nat) (p : Nat) (pts : List (Nat × Progress)) : q0.Keeps (State.makeAbsent s f p pts) := by
  unfold State.makeAbsent
  try dsimp only
  repeat' first
    | assumption
    | with_reducible apply State.noteF_keeps
    | with_reducible apply State.setPhys_keeps
    | with_reducible apply State.loseAll_keeps
    | with_reducible refine State.Keeps.foldl (fun hk a => ?_) _ ?_
    | split
    | with_reducible refine State.Keeps.upd ?_ ?_ ?_ ?_ ?_ ?_
    | rfl
    | simp; done

theorem State.startSubst_keeps {q0 s : State} (h : q0.Keeps s) (f : Nat) (sp : Nat) (copy : Option Nat) : q0.Keeps (State.startSubst s f sp copy) := by
  unfold State.startSubst
  try dsimp only
  repeat' first
    | assumption
    | with_reducible apply State.choose_keeps
    | with_reducible refine State.Keeps.foldl (fun hk a => ?_) _ ?_
    | split
    | with_reducible refine State.Keeps.upd ?_ ?_ ?_ ?_ ?_ ?_
    | rfl
    | simp; done

theorem State.findSpare_keeps {q0 s : State} (h : q0.Keeps s) (f : Nat) (p : Nat) (pts : List (Nat × Progress)) : q0.Keeps (State.findSpare s f p pts) := by
  unfold State.findSpare
  try dsimp only
  repeat' first
    | assumption
    | with_reducible apply State.makeAbsent_keeps
    | with_reducible apply State.startSubst_keeps
    | with_reducible refine State.Keeps.foldl (fun hk a => ?_) _ ?_
    | split
    | with_reducible refine State.Keeps.upd ?_ ?_ ?_ ?_ ?_ ?_
    | rfl
    | simp; done

theorem State.withdraw_keeps {q0 s : State} (h : q0.Keeps s) (p : Nat) : q0.Keeps (State.withdraw s p) := by
  unfold State.withdraw
  try dsimp only
  repeat' first
    | assumption
    | with_reducible refine State.Keeps.foldl (fun hk a => ?_) _ ?_
    | split
    | with_reducible refine State.Keeps.upd ?_ ?_ ?_ ?_ ?_ ?_
    | rfl
    | simp; done

theorem State.retireBacking_keeps {q0 s : State} (h : q0.Keeps s) (f : Nat) (p : Nat) (pts : List (Nat × Progress)) : q0.Keeps (State.retireBacking s f p pts) := by
  unfold State.retireBacking
  try dsimp only
  repeat' first
    | assumption
    | with_reducible apply State.bumpFault_keeps
    | with_reducible apply State.noteF_keeps
    | with_reducible apply State.setReady_keeps
    | with_reducible apply State.loseAll_keeps
    | with_reducible apply State.voidFold_keeps
    | with_reducible apply State.breakPairs_keeps
    | with_reducible apply State.withdraw_keeps
    | with_reducible refine State.Keeps.foldl (fun hk a => ?_) _ ?_
    | split
    | with_reducible refine State.Keeps.upd ?_ ?_ ?_ ?_ ?_ ?_
    | rfl
    | simp; done

theorem State.retireSpare_keeps {r s : State} (h : r.Keeps s) (p : Nat) : r.Keeps (s.retireSpare p) := by
  have h1 := State.note_keeps (State.bumpFault_keeps (State.setPhys_keeps h p .retired) 1 1) 0x0306 p
  unfold State.retireSpare
  generalize ((s.setPhys p .retired).bumpFault 1 1).note 0x0306 p = s1 at h1
  dsimp only
  split
  · exact h1
  · split
    · refine State.startSubst_keeps ?_ _ _ _
      exact h1.upd rfl rfl rfl rfl rfl
    · refine State.makeAbsent_keeps ?_ _ _ _
      exact h1.upd rfl rfl rfl rfl rfl

theorem State.retire_keeps {q0 s : State} (h : q0.Keeps s) (p : Nat) (pts : List (Nat × Progress)) : q0.Keeps (State.retire s p pts) := by
  unfold State.retire
  try dsimp only
  repeat' first
    | assumption
    | with_reducible apply State.findSpare_keeps
    | with_reducible apply State.retireBacking_keeps
    | with_reducible apply State.retireSpare_keeps
    | with_reducible refine State.Keeps.foldl (fun hk a => ?_) _ ?_
    | split
    | with_reducible refine State.Keeps.upd ?_ ?_ ?_ ?_ ?_ ?_
    | rfl
    | simp; done

theorem State.copySlice_keeps {r s : State} (h : r.Keeps s) (a b : Nat) : r.Keeps (s.copySlice a b) :=
  (State.noteReads_keeps h _).memory (fun x => x) (fun x => x) (fun x => swf_scopy x) (fun x => swf_ssetAll (swf_scopy x))
    (fun x => swf_sfilter x) (fun x => x)

theorem State.loseSlice_keeps {r s : State} (h : r.Keeps s) (b : Nat) : r.Keeps (s.loseSlice b) :=
  State.Keeps.upd (h.memory (host' := s.host) (poison' := s.poison) (sram' := s.sram) id id (fun x => swf_sfill x)
    (fun x => swf_sfill x) (fun x => swf_sfilter x) id) rfl rfl rfl rfl rfl

theorem State.spareIn_keeps {q0 s : State} (h : q0.Keeps s) (f : Nat) (lost : Bool) : q0.Keeps (State.spareIn s f lost) := by
  unfold State.spareIn
  try dsimp only
  repeat' first
    | assumption
    | with_reducible apply State.setFold_keeps
    | with_reducible apply State.count_keeps
    | with_reducible apply State.noteF_keeps
    | with_reducible apply State.setPhys_keeps
    | with_reducible apply State.setReady_keeps
    | with_reducible apply State.copySlice_keeps
    | with_reducible apply State.loseSlice_keeps
    | with_reducible refine State.Keeps.foldl (fun hk a => ?_) _ ?_
    | split
    | with_reducible refine State.Keeps.upd ?_ ?_ ?_ ?_ ?_ ?_
    | rfl
    | simp; done

theorem State.lockedWrite_keeps {r s : State} (h : r.Keeps s) (perm : Bool) (off : Nat) (l : List Byte) :
    r.Keeps (s.lockedWrite perm off l) := by
  have h1 : r.Keeps { s with mram := s.mram.write perm off l } := by
    cases perm
    · exact h.mram (fun x => swf_ssetAll x) id
    · exact h.mram id (fun x => swf_ssetAll x)
  unfold State.lockedWrite
  dsimp only
  split
  · exact State.note_keeps h1 _ _
  · exact h1

theorem State.putSlot_keeps {r s : State} (h : r.Keeps s) (seqOpen resv mount : Nat) : r.Keeps (s.putSlot seqOpen resv mount) :=
  (State.lockedWrite_keeps h _ _ _).upd rfl rfl rfl rfl rfl

theorem State.finishRefresh_keeps {q0 s : State} (h : q0.Keeps s)  : q0.Keeps (State.finishRefresh s ) := by
  unfold State.finishRefresh
  try dsimp only
  repeat' first
    | assumption
    | with_reducible apply State.putSlot_keeps
    | with_reducible refine State.Keeps.foldl (fun hk a => ?_) _ ?_
    | split
    | with_reducible refine State.Keeps.upd ?_ ?_ ?_ ?_ ?_ ?_
    | rfl
    | simp; done

theorem State.openEpoch_keeps {q0 s : State} (h : q0.Keeps s) (t : Nat) (seq : Nat) (prev : BitVec 256) (mounted : Bool) (lost : Bool) (brk : Bool) (warn : Bool) (breakSeq : Nat) : q0.Keeps (State.openEpoch s t seq prev mounted lost brk warn breakSeq) := by
  unfold State.openEpoch
  try dsimp only
  repeat' first
    | assumption
    | with_reducible refine State.Keeps.foldl (fun hk a => ?_) _ ?_
    | split
    | with_reducible refine State.Keeps.upd ?_ ?_ ?_ ?_ ?_ ?_
    | rfl
    | simp; done

theorem State.modEpoch_keeps {q0 s : State} (h : q0.Keeps s) (f : Epoch → Epoch) : q0.Keeps (State.modEpoch s f) := by
  unfold State.modEpoch
  try dsimp only
  repeat' first
    | assumption
    | with_reducible refine State.Keeps.foldl (fun hk a => ?_) _ ?_
    | split
    | with_reducible refine State.Keeps.upd ?_ ?_ ?_ ?_ ?_ ?_
    | rfl
    | simp; done

theorem State.enterCut_keeps {q0 s : State} (h : q0.Keeps s)  : q0.Keeps (State.enterCut s ) := by
  unfold State.enterCut
  try dsimp only
  repeat' first
    | assumption
    | with_reducible refine State.Keeps.foldl (fun hk a => ?_) _ ?_
    | split
    | with_reducible refine State.Keeps.upd ?_ ?_ ?_ ?_ ?_ ?_
    | rfl
    | simp; done

theorem State.finishCommit_keeps {q0 s : State} (h : q0.Keeps s)  : q0.Keeps (State.finishCommit s ) := by
  unfold State.finishCommit
  try dsimp only
  repeat' first
    | assumption
    | with_reducible apply State.commit_keeps
    | with_reducible apply State.lockedWrite_keeps
    | with_reducible apply State.putSlot_keeps
    | with_reducible apply State.finishRefresh_keeps
    | with_reducible apply State.enterCut_keeps
    | with_reducible refine State.Keeps.foldl (fun hk a => ?_) _ ?_
    | split
    | with_reducible refine State.Keeps.upd ?_ ?_ ?_ ?_ ?_ ?_
    | rfl
    | simp; done

theorem State.closeEpoch_keeps {q0 s : State} (h : q0.Keeps s) (t : Nat) (cut : Bool) : q0.Keeps (State.closeEpoch s t cut) := by
  unfold State.closeEpoch
  try dsimp only
  repeat' first
    | assumption
    | with_reducible apply State.lockedWrite_keeps
    | with_reducible apply State.openEpoch_keeps
    | with_reducible apply State.finishCommit_keeps
    | with_reducible refine State.Keeps.foldl (fun hk a => ?_) _ ?_
    | split
    | with_reducible refine State.Keeps.upd ?_ ?_ ?_ ?_ ?_ ?_
    | rfl
    | simp; done

theorem State.closeIfDue_keeps {q0 s : State} (h : q0.Keeps s) (t : Nat) : q0.Keeps (State.closeIfDue s t) := by
  unfold State.closeIfDue
  try dsimp only
  repeat' first
    | assumption
    | with_reducible apply State.closeEpoch_keeps
    | with_reducible refine State.Keeps.foldl (fun hk a => ?_) _ ?_
    | split
    | with_reducible refine State.Keeps.upd ?_ ?_ ?_ ?_ ?_ ?_
    | rfl
    | simp; done

theorem State.reopenRun_keeps {q0 s : State} (h : q0.Keeps s) (r : RunRec) : q0.Keeps (State.reopenRun s r) := by
  unfold State.reopenRun
  try dsimp only
  repeat' first
    | assumption
    | with_reducible refine State.Keeps.foldl (fun hk a => ?_) _ ?_
    | split
    | with_reducible refine State.Keeps.upd ?_ ?_ ?_ ?_ ?_ ?_
    | rfl
    | simp; done

theorem State.abandonLeaves_keeps {r s : State} (h : r.Keeps s) : r.Keeps s.abandonLeaves :=
  (State.Keeps.foldl (fun hk a => State.reopenRun_keeps hk a) _ h).upd rfl rfl rfl rfl rfl

theorem State.sendBytes_keeps {r s : State} (h : r.Keeps s) (a : Nat) (l : List Byte) : r.Keeps (s.sendBytes a l) :=
  State.putHost_keeps (State.passOwn_keeps h _ _ _) _ _

theorem State.putFrames_keeps {r s : State} (h : r.Keeps s) (x : Export) (n : Nat) : r.Keeps (s.putFrames x n) :=
  State.Keeps.foldl (fun hk _ => State.sendBytes_keeps hk _ _) _ h

theorem State.stopExport_keeps {q0 s : State} (h : q0.Keeps s)  : q0.Keeps (State.stopExport s ) := by
  unfold State.stopExport
  try dsimp only
  repeat' first
    | assumption
    | with_reducible apply State.count_keeps
    | with_reducible apply State.choose_keeps
    | with_reducible apply State.putFrames_keeps
    | with_reducible refine State.Keeps.foldl (fun hk a => ?_) _ ?_
    | split
    | with_reducible refine State.Keeps.upd ?_ ?_ ?_ ?_ ?_ ?_
    | rfl
    | simp; done

theorem State.undoClose_keeps {q0 s : State} (h : q0.Keeps s)  : q0.Keeps (State.undoClose s ) := by
  unfold State.undoClose
  try dsimp only
  repeat' first
    | assumption
    | with_reducible apply State.commit_keeps
    | with_reducible refine State.Keeps.foldl (fun hk a => ?_) _ ?_
    | split
    | with_reducible refine State.Keeps.upd ?_ ?_ ?_ ?_ ?_ ?_
    | rfl
    | simp; done

theorem State.cutNow_keeps {q0 s : State} (h : q0.Keeps s) (why : StopWhy) : q0.Keeps (State.cutNow s why) := by
  unfold State.cutNow
  try dsimp only
  repeat' first
    | assumption
    | with_reducible apply State.finishRefresh_keeps
    | with_reducible apply State.finishCommit_keeps
    | with_reducible apply State.closeEpoch_keeps
    | with_reducible apply State.abandonLeaves_keeps
    | with_reducible apply State.stopExport_keeps
    | with_reducible apply State.undoClose_keeps
    | with_reducible refine State.Keeps.foldl (fun hk a => ?_) _ ?_
    | split
    | with_reducible refine State.Keeps.upd ?_ ?_ ?_ ?_ ?_ ?_
    | rfl
    | simp; done

theorem State.putSeal_keeps {r s : State} (h : r.Keeps s) (b : Nat) : r.Keeps (s.putSeal b) := by
  have h1 : r.Keeps { s with tally := { s.tally with sealTicks := 0, sealFull := true } } := h.upd rfl rfl rfl rfl rfl
  unfold State.putSeal
  extract_lets last t sh body s1 s2
  split
  · split
    · exact h1
    · exact State.note_keeps h1 _ _
  · exact (State.lockedWrite_keeps (State.lockedWrite_keeps h _ _ _) _ _ _).upd rfl rfl rfl rfl rfl

theorem State.rebuildSeal_keeps {r s : State} (h : r.Keeps s) (new : Nat) : r.Keeps (s.rebuildSeal new) := by
  unfold State.rebuildSeal
  extract_lets last a
  exact h.upd rfl rfl rfl rfl rfl

theorem State.modRing_keeps {q0 s : State} (h : q0.Keeps s) (r : Nat) (f : CplRing → CplRing) : q0.Keeps (State.modRing s r f) := by
  unfold State.modRing
  try dsimp only
  repeat' first
    | assumption
    | with_reducible refine State.Keeps.foldl (fun hk a => ?_) _ ?_
    | split
    | with_reducible refine State.Keeps.upd ?_ ?_ ?_ ?_ ?_ ?_
    | rfl
    | simp; done

theorem State.enterLayer_keeps {q0 s : State} (h : q0.Keeps s) (d : Desc) : q0.Keeps (State.enterLayer s d) := by
  unfold State.enterLayer
  try dsimp only
  repeat' first
    | assumption
    | with_reducible apply State.noteD_keeps
    | with_reducible apply State.modPen_keeps
    | with_reducible refine State.Keeps.foldl (fun hk a => ?_) _ ?_
    | split
    | with_reducible refine State.Keeps.upd ?_ ?_ ?_ ?_ ?_ ?_
    | rfl
    | simp; done

theorem State.countRecord_keeps {q0 s : State} (h : q0.Keeps s) (d : Desc) : q0.Keeps (State.countRecord s d) := by
  unfold State.countRecord
  try dsimp only
  repeat' first
    | assumption
    | with_reducible apply State.count_keeps
    | with_reducible refine State.Keeps.foldl (fun hk a => ?_) _ ?_
    | split
    | with_reducible refine State.Keeps.upd ?_ ?_ ?_ ?_ ?_ ?_
    | rfl
    | simp; done

theorem State.faultRecord_keeps {q0 s : State} (h : q0.Keeps s) (d : Desc) : q0.Keeps (State.faultRecord s d) := by
  unfold State.faultRecord
  try dsimp only
  repeat' first
    | assumption
    | with_reducible apply State.bumpFault_keeps
    | with_reducible refine State.Keeps.foldl (fun hk a => ?_) _ ?_
    | split
    | with_reducible refine State.Keeps.upd ?_ ?_ ?_ ?_ ?_ ?_
    | rfl
    | simp; done

theorem State.relAtEnd_keeps {q0 s : State} (h : q0.Keeps s) (d : Desc) : q0.Keeps (State.relAtEnd s d) := by
  unfold State.relAtEnd
  try dsimp only
  repeat' first
    | assumption
    | with_reducible apply State.modPair_keeps
    | with_reducible refine State.Keeps.foldl (fun hk a => ?_) _ ?_
    | split
    | with_reducible refine State.Keeps.upd ?_ ?_ ?_ ?_ ?_ ?_
    | rfl
    | simp; done

theorem State.installAtEnd_keeps {q0 s : State} (h : q0.Keeps s) (d : Desc) : q0.Keeps (State.installAtEnd s d) := by
  unfold State.installAtEnd
  try dsimp only
  repeat' first
    | assumption
    | with_reducible apply State.modPair_keeps
    | with_reducible refine State.Keeps.foldl (fun hk a => ?_) _ ?_
    | split
    | with_reducible refine State.Keeps.upd ?_ ?_ ?_ ?_ ?_ ?_
    | rfl
    | simp; done

theorem State.voidWaiters_keeps {q0 s : State} (h : q0.Keeps s) (did : Nat) : q0.Keeps (State.voidWaiters s did) := by
  unfold State.voidWaiters
  try dsimp only
  repeat' first
    | assumption
    | with_reducible refine State.Keeps.foldl (fun hk a => ?_) _ ?_
    | split
    | with_reducible refine State.Keeps.upd ?_ ?_ ?_ ?_ ?_ ?_
    | rfl
    | simp; done

theorem State.issueRecord_keeps {r s t : State} (h : r.Keeps s) {d : Desc} {held : Bool} (e : s.issueRecord d held = some t) : r.Keeps t := by
  unfold State.issueRecord at e
  dsimp only at e
  obtain ⟨u, hu, e⟩ := Option.map_eq_some_iff.mp e
  subst e
  have h1 : r.Keeps (u.modRing (s.ringOf d) (fun x => { x with w := x.w + 1, held := x.held.filter (fun i => i ≠ d.did) })) :=
    State.modRing_keeps (State.issueOwn_keeps h hu) _ _
  have h2 := State.installAtEnd_keeps (State.relAtEnd_keeps (State.faultRecord_keeps (State.countRecord_keeps h1 d) d) d) d
  refine State.dropDesc_keeps ?_ _
  split
  · refine State.voidWaiters_keeps ?_ _
    split
    · exact State.enterLayer_keeps h2 d
    · exact h2
  · split
    · exact State.enterLayer_keeps h2 d
    · exact h2

theorem State.releaseHeld_keeps (q : Nat) : ∀ (n : Nat) {r s : State} (_ : r.Keeps s), r.Keeps (s.releaseHeld q n)
  | 0, _, _, h => h
  | n + 1, r, s, h => by
    unfold State.releaseHeld
    split
    · exact h
    · split
      · exact h
      · split
        · exact State.releaseHeld_keeps q n (State.modRing_keeps h _ _)
        · split
          · exact h
          · next e => exact State.releaseHeld_keeps q n (State.issueRecord_keeps h e)

theorem State.flushRing_keeps {q0 s : State} (h : q0.Keeps s) (r : Nat) : q0.Keeps (State.flushRing s r) := by
  unfold State.flushRing
  try dsimp only
  repeat' first
    | assumption
    | with_reducible apply State.modRing_keeps
    | with_reducible apply State.releaseHeld_keeps
    | with_reducible refine State.Keeps.foldl (fun hk a => ?_) _ ?_
    | split
    | with_reducible refine State.Keeps.upd ?_ ?_ ?_ ?_ ?_ ?_
    | rfl
    | simp; done

theorem State.readWord_keeps {q0 s : State} (h : q0.Keeps s) (a : Nat) : q0.Keeps (State.readWord s a) := by
  unfold State.readWord
  try dsimp only
  repeat' first
    | assumption
    | with_reducible apply State.passOwn_keeps
    | with_reducible refine State.Keeps.foldl (fun hk a => ?_) _ ?_
    | split
    | with_reducible refine State.Keeps.upd ?_ ?_ ?_ ?_ ?_ ?_
    | rfl
    | simp; done

theorem State.readCons_keeps {q0 s : State} (h : q0.Keeps s) (r : Nat) : q0.Keeps (State.readCons s r) := by
  unfold State.readCons
  try dsimp only
  repeat' first
    | assumption
    | with_reducible apply State.modRing_keeps
    | with_reducible apply State.readWord_keeps
    | with_reducible refine State.Keeps.foldl (fun hk a => ?_) _ ?_
    | split
    | with_reducible refine State.Keeps.upd ?_ ?_ ?_ ?_ ?_ ?_
    | rfl
    | simp; done

theorem State.sendRecord_keeps {r s : State} (h : r.Keeps s) (d : Desc) : r.Keeps (s.sendRecord d) := by
  have h1 : r.Keeps (if (s.ring (s.ringOf d)).bad || (s.ring (s.ringOf d)).full then s else s.readCons (s.ringOf d)) := by
    split
    · exact h
    · exact State.readCons_keeps h _
  unfold State.sendRecord
  extract_lets q t c hold
  have hh : ∀ {u : State}, r.Keeps u → r.Keeps (hold u) := fun hu => State.modRing_keeps hu _ _
  have ht : r.Keeps t := h1
  split
  · exact ht
  · split
    · split
      · exact hh ht
      · exact hh (State.note_keeps (State.modRing_keeps ht _ _) _ _)
    · split
      · split
        · exact hh ht
        · exact hh (State.note_keeps (State.modRing_keeps ht _ _) _ _)
      · split
        · exact hh ht
        · exact State.Keeps.getD ht (fun _ e => State.issueRecord_keeps ht e)

theorem State.putMap_keeps {r s t : State} (h : r.Keeps s) {d : Desc} (e : s.putMap d = some t) : r.Keeps t := by
  unfold State.putMap at e
  extract_lets base n w at e
  split at e
  · cases e; exact h
  · split at e
    · cases e
    · split at e
      · split at e
        · cases e; exact h
        · exact State.issueOwn_keeps h e
      · cases e; exact State.noteD_keeps h _ _ _ _

theorem State.issueMessage_keeps {r s t : State} (h : r.Keeps s) {v : Nat} {pend : Bool} (e : s.issueMessage v pend = some t) : r.Keeps t :=
  State.issueOwn_keeps h e

theorem State.dueMessage_keeps {q0 s : State} (h : q0.Keeps s) (v : Nat) : q0.Keeps (State.dueMessage s v) := by
  unfold State.dueMessage
  try dsimp only
  repeat' first
    | assumption
    | with_reducible refine State.Keeps.foldl (fun hk a => ?_) _ ?_
    | split
    | with_reducible refine State.Keeps.upd ?_ ?_ ?_ ?_ ?_ ?_
    | rfl
    | simp; done

theorem State.issueEvent_keeps {r s : State} (h : r.Keeps s) : r.Keeps s.issueEvent := by
  unfold State.issueEvent
  split
  · exact h
  · extract_lets b l w a
    refine State.Keeps.getD h (fun t e => ?_)
    obtain ⟨u, hu, e⟩ := Option.map_eq_some_iff.mp e
    subst e
    exact (State.issueOwn_keeps h hu).upd rfl rfl rfl rfl rfl

theorem State.issueRun_keeps {r s : State} (h : r.Keeps s) (x : RunRec) : r.Keeps (s.issueRun x) :=
  State.Keeps.getD h (fun _ e => State.issueOwn_keeps h e)

theorem State.finishTally_keeps {q0 s : State} (h : q0.Keeps s) (did : Nat) : q0.Keeps (State.finishTally s did) := by
  unfold State.finishTally
  try dsimp only
  repeat' first
    | assumption
    | with_reducible apply State.modDesc_keeps
    | with_reducible refine State.Keeps.foldl (fun hk a => ?_) _ ?_
    | split
    | with_reducible refine State.Keeps.upd ?_ ?_ ?_ ?_ ?_ ?_
    | rfl
    | simp; done

theorem State.finishOwn_keeps {r s : State} (h : r.Keeps s) (o : Own) : r.Keeps (s.finishOwn o) := by
  have ht : r.Keeps (s.dropOwn o.key) := State.dropOwn_keeps h _
  unfold State.finishOwn
  generalize s.dropOwn o.key = t at ht
  dsimp only
  split
  · exact h
  · exact h
  · refine State.flushRing_keeps ?_ _
    split
    · exact State.dueMessage_keeps (State.modRing_keeps ht _ _) _
    · exact State.modRing_keeps ht _ _
  · split
    · exact State.dueMessage_keeps (State.count_keeps (ht.upd rfl rfl rfl rfl rfl) _ _) _
    · exact State.count_keeps (ht.upd rfl rfl rfl rfl rfl) _ _
  · exact State.flushRing_keeps ((State.modRing_keeps ht _ _).upd rfl rfl rfl rfl rfl) _
  · split
    · exact ht.upd rfl rfl rfl rfl rfl
    · exact ht
  · exact State.finishTally_keeps (ht.upd rfl rfl rfl rfl rfl) _

theorem State.ownLine_keeps {q0 s : State} (h : q0.Keeps s) (key : Nat) (line : Nat) : q0.Keeps (State.ownLine s key line) := by
  unfold State.ownLine
  try dsimp only
  repeat' first
    | assumption
    | with_reducible apply State.storeBytes_keeps
    | with_reducible apply State.finishOwn_keeps
    | with_reducible refine State.Keeps.foldl (fun hk a => ?_) _ ?_
    | split
    | with_reducible refine State.Keeps.upd ?_ ?_ ?_ ?_ ?_ ?_
    | rfl
    | simp; done

theorem State.dropFetch_keeps {q0 s : State} (h : q0.Keeps s) (p : Nat) : q0.Keeps (State.dropFetch s p) := by
  unfold State.dropFetch
  try dsimp only
  repeat' first
    | assumption
    | with_reducible apply State.dropOwn_keeps
    | with_reducible refine State.Keeps.foldl (fun hk a => ?_) _ ?_
    | split
    | with_reducible refine State.Keeps.upd ?_ ?_ ?_ ?_ ?_ ?_
    | rfl
    | simp; done

theorem State.loadPen_keeps {q0 s : State} (h : q0.Keeps s) (p : Nat) : q0.Keeps (State.loadPen s p) := by
  unfold State.loadPen
  try dsimp only
  repeat' first
    | assumption
    | with_reducible apply State.noteP_keeps
    | with_reducible apply State.passOwn_keeps
    | with_reducible apply State.modPen_keeps
    | with_reducible apply State.dropFetch_keeps
    | with_reducible refine State.Keeps.foldl (fun hk a => ?_) _ ?_
    | split
    | with_reducible refine State.Keeps.upd ?_ ?_ ?_ ?_ ?_ ?_
    | rfl
    | simp; done

theorem State.servePen_keeps {q0 s : State} (h : q0.Keeps s) (p : Nat) : q0.Keeps (State.servePen s p) := by
  unfold State.servePen
  try dsimp only
  repeat' first
    | assumption
    | with_reducible apply State.loadPen_keeps
    | with_reducible refine State.Keeps.foldl (fun hk a => ?_) _ ?_
    | split
    | with_reducible refine State.Keeps.upd ?_ ?_ ?_ ?_ ?_ ?_
    | rfl
    | simp; done

theorem State.readDoorbell_keeps {r s t : State} (h : r.Keeps s) {p : Nat} (e : s.readDoorbell p = some t) : r.Keeps t :=
  State.issueOwn_keeps h e

theorem State.serveNudge_keeps {r s : State} (h : r.Keeps s) (p : Nat) : r.Keeps (s.serveNudge p) := by
  unfold State.serveNudge
  extract_lets s1 clear
  have h1 : r.Keeps s1 := State.servePen_keeps h p
  have hc : ∀ {t : State}, r.Keeps t → r.Keeps (clear t) := fun ht => ht.upd rfl rfl rfl rfl rfl
  split
  · exact h
  · split
    · exact hc h1
    · split
      · exact h1
      · split
        · exact h1
        · next e => exact hc (State.readDoorbell_keeps h1 e)

theorem State.nudgePen_keeps {q0 s : State} (h : q0.Keeps s) (p : Nat) : q0.Keeps (State.nudgePen s p) := by
  unfold State.nudgePen
  try dsimp only
  repeat' first
    | assumption
    | with_reducible apply State.serveNudge_keeps
    | with_reducible refine State.Keeps.foldl (fun hk a => ?_) _ ?_
    | split
    | with_reducible refine State.Keeps.upd ?_ ?_ ?_ ?_ ?_ ?_
    | rfl
    | simp; done

theorem State.setNudgeEn_keeps {r s : State} (h : r.Keeps s) (on : Bool) : r.Keeps (s.setNudgeEn on) := by
  have h1 : r.Keeps ({ s with cfg := { s.cfg with nudgeEn := on } } : State) := h.cfg' id id (fun _ => rfl) rfl rfl rfl
  unfold State.setNudgeEn
  dsimp only
  split
  · exact h
  · split
    · exact h1.upd rfl rfl rfl rfl rfl
    · exact h1.upd rfl rfl rfl rfl rfl

theorem State.reload_keeps {q0 s : State} (h : q0.Keeps s) (p : Nat) : q0.Keeps (State.reload s p) := by
  unfold State.reload
  try dsimp only
  repeat' first
    | assumption
    | with_reducible apply State.noteP_keeps
    | with_reducible apply State.loadPen_keeps
    | with_reducible apply State.nudgePen_keeps
    | with_reducible refine State.Keeps.foldl (fun hk a => ?_) _ ?_
    | split
    | with_reducible refine State.Keeps.upd ?_ ?_ ?_ ?_ ?_ ?_
    | rfl
    | simp; done

theorem State.loadRing_keeps {q0 s : State} (h : q0.Keeps s) (r : Nat) : q0.Keeps (State.loadRing s r) := by
  unfold State.loadRing
  try dsimp only
  repeat' first
    | assumption
    | with_reducible apply State.passOwn_keeps
    | with_reducible apply State.modRing_keeps
    | with_reducible refine State.Keeps.foldl (fun hk a => ?_) _ ?_
    | split
    | with_reducible refine State.Keeps.upd ?_ ?_ ?_ ?_ ?_ ?_
    | rfl
    | simp; done

theorem State.crload_keeps {q0 s : State} (h : q0.Keeps s) (r : Nat) : q0.Keeps (State.crload s r) := by
  unfold State.crload
  try dsimp only
  repeat' first
    | assumption
    | with_reducible apply State.note_keeps
    | with_reducible apply State.flushRing_keeps
    | with_reducible apply State.readCons_keeps
    | with_reducible apply State.loadRing_keeps
    | with_reducible refine State.Keeps.foldl (fun hk a => ?_) _ ?_
    | split
    | with_reducible refine State.Keeps.upd ?_ ?_ ?_ ?_ ?_ ?_
    | rfl
    | simp; done

theorem State.nudgeMap_keeps {q0 s : State} (h : q0.Keeps s) (w : Nat) (bits : Nat) : q0.Keeps (State.nudgeMap s w bits) := by
  unfold State.nudgeMap
  try dsimp only
  repeat' first
    | assumption
    | with_reducible apply State.nudgePen_keeps
    | with_reducible refine State.Keeps.foldl (fun hk a => ?_) _ ?_
    | split
    | with_reducible refine State.Keeps.upd ?_ ?_ ?_ ?_ ?_ ?_
    | rfl
    | simp; done

theorem State.sweepRead_keeps {r s : State} (h : r.Keeps s) (p : Nat) : r.Keeps (s.sweepRead p) := by
  unfold State.sweepRead
  split
  · next e => exact State.readDoorbell_keeps h e
  · exact h.upd rfl rfl rfl rfl rfl

theorem State.acceptPidx_keeps {q0 s : State} (h : q0.Keeps s) (p : Nat) (v : BitVec 32) : q0.Keeps (State.acceptPidx s p v) := by
  unfold State.acceptPidx
  try dsimp only
  repeat' first
    | assumption
    | with_reducible apply State.modPen_keeps
    | with_reducible refine State.Keeps.foldl (fun hk a => ?_) _ ?_
    | split
    | with_reducible refine State.Keeps.upd ?_ ?_ ?_ ?_ ?_ ?_
    | rfl
    | simp; done

theorem State.doorbell_keeps {r s : State} (h : r.Keeps s) (p : Nat) (w : BitVec 64) : r.Keeps (s.doorbell p w) := by
  unfold State.doorbell
  extract_lets pn v l c
  split
  · exact State.noteP_keeps h _ _ _
  · split
    · exact State.noteP_keeps h _ _ _
    · split
      · exact State.noteP_keeps (State.acceptPidx_keeps h _ _) _ _ _
      · exact State.acceptPidx_keeps h _ _

theorem State.takeWord_keeps {q0 s : State} (h : q0.Keeps s) (p : Nat) : q0.Keeps (State.takeWord s p) := by
  unfold State.takeWord
  try dsimp only
  repeat' first
    | assumption
    | with_reducible apply State.dropOwn_keeps
    | with_reducible apply State.doorbell_keeps
    | with_reducible refine State.Keeps.foldl (fun hk a => ?_) _ ?_
    | split
    | with_reducible refine State.Keeps.upd ?_ ?_ ?_ ?_ ?_ ?_
    | rfl
    | simp; done

theorem State.issueBurst_keeps {r s : State} (h : r.Keeps s) (p : Nat) : r.Keeps (s.issueBurst p) := by
  unfold State.issueBurst
  dsimp only
  split
  · exact h
  · next e =>
    have h1 := State.issueOwn_keeps h e
    split
    · exact h1.upd rfl rfl rfl rfl rfl
    · exact (h1.upd rfl rfl rfl rfl rfl).upd rfl rfl rfl rfl rfl

theorem State.takeCell_keeps {r s : State} (h : r.Keeps s) (p n : Nat) (c : Cell) : r.Keeps (s.takeCell p n c) := by
  unfold State.takeCell
  extract_lets pn open_ did cells whole at_ s2
  have h2 : r.Keeps s2 := State.modPen_keeps h _ _
  split
  · exact h2.upd rfl rfl rfl rfl rfl
  · exact h2

theorem State.refuse_keeps {q0 s : State} (h : q0.Keeps s) (did : Nat) (st : Status) : q0.Keeps (State.refuse s did st) := by
  unfold State.refuse
  try dsimp only
  repeat' first
    | assumption
    | with_reducible apply State.modDesc_keeps
    | with_reducible refine State.Keeps.foldl (fun hk a => ?_) _ ?_
    | split
    | with_reducible refine State.Keeps.upd ?_ ?_ ?_ ?_ ?_ ?_
    | rfl
    | simp; done

theorem State.noteRemaps_keeps {q0 s : State} (h : q0.Keeps s) (d : Desc) : q0.Keeps (State.noteRemaps s d) := by
  unfold State.noteRemaps
  try dsimp only
  repeat' first
    | assumption
    | with_reducible apply State.noteD_keeps
    | with_reducible refine State.Keeps.foldl (fun hk a => ?_) _ ?_
    | split
    | with_reducible refine State.Keeps.upd ?_ ?_ ?_ ?_ ?_ ?_
    | rfl
    | simp; done

theorem State.check_keeps {r s : State} (h : r.Keeps s) (d : Desc) : r.Keeps (s.check d).1 := by
  unfold State.check
  split
  · exact State.refuse_keeps (State.noteD_keeps h _ _ _ _) _ _
  · dsimp only
    generalize s.verdict d.cells d.pen d.did = v
    have h1 : r.Keeps (if v.pastRemap && !d.p.strict then s.noteRemaps d else s) := by
      split
      · exact State.noteRemaps_keeps h d
      · exact h
    generalize (if v.pastRemap && !d.p.strict then s.noteRemaps d else s) = s1 at h1
    cases v with
    | pass => exact h1
    | bad b => exact State.refuse_keeps (State.noteD_keeps h1 _ _ _ _) _ _
    | refuse st => exact State.refuse_keeps h1 _ _

theorem State.raiseHorizons_keeps {q0 s : State} (h : q0.Keeps s) (d : Desc) (x : Priced) : q0.Keeps (State.raiseHorizons s d x) := by
  unfold State.raiseHorizons
  try dsimp only
  repeat' first
    | assumption
    | with_reducible apply State.modPen_keeps
    | with_reducible refine State.Keeps.foldl (fun hk a => ?_) _ ?_
    | split
    | with_reducible refine State.Keeps.upd ?_ ?_ ?_ ?_ ?_ ?_
    | rfl
    | simp; done

theorem State.atAdmission_keeps {q0 s : State} (h : q0.Keeps s) (d : Desc) : q0.Keeps (State.atAdmission s d) := by
  unfold State.atAdmission
  try dsimp only
  repeat' first
    | assumption
    | with_reducible apply State.setArm_keeps
    | with_reducible apply State.modPen_keeps
    | with_reducible refine State.Keeps.foldl (fun hk a => ?_) _ ?_
    | split
    | with_reducible refine State.Keeps.upd ?_ ?_ ?_ ?_ ?_ ?_
    | rfl
    | simp; done

theorem State.takeIn_keeps {q0 s : State} (h : q0.Keeps s) (d : Desc) (x : Priced) : q0.Keeps (State.takeIn s d x) := by
  unfold State.takeIn
  try dsimp only
  repeat' first
    | assumption
    | with_reducible apply State.count_keeps
    | with_reducible apply State.modDesc_keeps
    | with_reducible apply State.wake_keeps
    | with_reducible apply State.modPen_keeps
    | with_reducible apply State.raiseHorizons_keeps
    | with_reducible apply State.atAdmission_keeps
    | with_reducible refine State.Keeps.foldl (fun hk a => ?_) _ ?_
    | split
    | with_reducible refine State.Keeps.upd ?_ ?_ ?_ ?_ ?_ ?_
    | rfl
    | simp; done

theorem State.priceAdmit_keeps {q0 s : State} (h : q0.Keeps s) (d : Desc) : q0.Keeps (State.priceAdmit s d) := by
  unfold State.priceAdmit
  try dsimp only
  repeat' first
    | assumption
    | with_reducible apply State.refuse_keeps
    | with_reducible apply State.takeIn_keeps
    | with_reducible refine State.Keeps.foldl (fun hk a => ?_) _ ?_
    | split
    | with_reducible refine State.Keeps.upd ?_ ?_ ?_ ?_ ?_ ?_
    | rfl
    | simp; done

theorem State.hold_keeps {q0 s : State} (h : q0.Keeps s) (d : Desc) (w : HoldWhy) : q0.Keeps (State.hold s d w) := by
  unfold State.hold
  try dsimp only
  repeat' first
    | assumption
    | with_reducible apply State.count_keeps
    | with_reducible apply State.modDesc_keeps
    | with_reducible refine State.Keeps.foldl (fun hk a => ?_) _ ?_
    | split
    | with_reducible refine State.Keeps.upd ?_ ?_ ?_ ?_ ?_ ?_
    | rfl
    | simp; done

theorem State.take_keeps {r s : State} (h : r.Keeps s) (d : Desc) : r.Keeps (s.take d) := by
  have hc := State.check_keeps h d
  unfold State.take
  extract_lets c
  split
  · exact hc
  · split
    · exact State.hold_keeps hc _ _
    · exact State.priceAdmit_keeps hc d

theorem State.settleLine_keeps {r s : State} (h : r.Keeps s) (o : Own) (line : Nat) : r.Keeps (State.settleLine o s line) := by
  unfold State.settleLine
  extract_lets c
  split
  · exact State.storeBytes_keeps (State.choose_keeps h 2) _
  · exact State.choose_keeps h 2

theorem State.settleOwn_keeps {r s : State} (h : r.Keeps s) : r.Keeps s.settleOwn :=
  State.Keeps.foldl (fun hk o => State.Keeps.foldl (fun hj l => State.settleLine_keeps hj o l) _ hk) _ h

theorem State.shepherdStore_keeps {r s : State} (h : r.Keeps s) (a : Nat) (b : Byte) : r.Keeps (s.shepherdStore a b) := by
  unfold State.shepherdStore
  split
  · exact h.memory id id id id id (fun x => swf_sset x)
  · exact h

theorem State.loadImage_keeps {q0 s : State} (h : q0.Keeps s) (image : List Byte) : q0.Keeps (State.loadImage s image) := by
  unfold State.loadImage
  try dsimp only
  repeat' first
    | assumption
    | with_reducible apply State.shepherdStore_keeps
    | with_reducible refine State.Keeps.foldl (fun hk a => ?_) _ ?_
    | split
    | with_reducible refine State.Keeps.upd ?_ ?_ ?_ ?_ ?_ ?_
    | rfl
    | simp; done

theorem State.setRemap_keeps {r s : State} (h : r.Keeps s) : r.Keeps s.setRemap := by
  unfold State.setRemap
  split
  · exact h.cfg' id id (fun _ => rfl) rfl rfl rfl
  · exact State.note_keeps h _ _

theorem State.raiseStile_keeps {q0 s : State} (h : q0.Keeps s)  : q0.Keeps (State.raiseStile s ) := by
  unfold State.raiseStile
  try dsimp only
  repeat' first
    | assumption
    | with_reducible refine State.Keeps.foldl (fun hk a => ?_) _ ?_
    | split
    | with_reducible refine State.Keeps.upd ?_ ?_ ?_ ?_ ?_ ?_
    | rfl
    | simp; done

theorem State.failTally_keeps {q0 s : State} (h : q0.Keeps s) (why : Nat) : q0.Keeps (State.failTally s why) := by
  unfold State.failTally
  try dsimp only
  repeat' first
    | assumption
    | with_reducible apply State.note_keeps
    | with_reducible apply State.raiseStile_keeps
    | with_reducible refine State.Keeps.foldl (fun hk a => ?_) _ ?_
    | split
    | with_reducible refine State.Keeps.upd ?_ ?_ ?_ ?_ ?_ ?_
    | rfl
    | simp; done

theorem State.mountOn_keeps {r s : State} (h : r.Keeps s) (j : Nat) (key : BitVec 256) : r.Keeps (s.mountOn j key) := by
  unfold State.mountOn
  exact State.raiseStile_keeps (State.openEpoch_keeps (State.putSlot_keeps (h.upd rfl rfl rfl rfl rfl) _ _ _) _ _ _ _ _ _ _ _)

theorem State.passFirst_keeps {q0 s : State} (h : q0.Keeps s) (p : Nat) : q0.Keeps (State.passFirst s p) := by
  unfold State.passFirst
  try dsimp only
  repeat' first
    | assumption
    | with_reducible apply State.modFold_keeps
    | with_reducible apply State.setReady_keeps
    | with_reducible refine State.Keeps.foldl (fun hk a => ?_) _ ?_
    | split
    | with_reducible refine State.Keeps.upd ?_ ?_ ?_ ?_ ?_ ?_
    | rfl
    | simp; done

theorem State.failFirst_keeps {q0 s : State} (h : q0.Keeps s) (p : Nat) : q0.Keeps (State.failFirst s p) := by
  unfold State.failFirst
  try dsimp only
  repeat' first
    | assumption
    | with_reducible apply State.bumpFault_keeps
    | with_reducible apply State.choose_keeps
    | with_reducible apply State.event_keeps
    | with_reducible apply State.setPhys_keeps
    | with_reducible apply State.retireSpare_keeps
    | with_reducible refine State.Keeps.foldl (fun hk a => ?_) _ ?_
    | split
    | with_reducible refine State.Keeps.upd ?_ ?_ ?_ ?_ ?_ ?_
    | rfl
    | simp; done

theorem State.nameSpare_keeps {q0 s : State} (h : q0.Keeps s) (f : Nat) : q0.Keeps (State.nameSpare s f) := by
  unfold State.nameSpare
  try dsimp only
  repeat' first
    | assumption
    | with_reducible apply State.makeAbsent_keeps
    | with_reducible apply State.startSubst_keeps
    | with_reducible refine State.Keeps.foldl (fun hk a => ?_) _ ?_
    | split
    | with_reducible refine State.Keeps.upd ?_ ?_ ?_ ?_ ?_ ?_
    | rfl
    | simp; done

theorem State.readTwin_keeps {q0 s : State} (h : q0.Keeps s) (k : Nat) : q0.Keeps (State.readTwin s k) := by
  unfold State.readTwin
  try dsimp only
  repeat' first
    | assumption
    | with_reducible apply State.note_keeps
    | with_reducible refine State.Keeps.foldl (fun hk a => ?_) _ ?_
    | split
    | with_reducible refine State.Keeps.upd ?_ ?_ ?_ ?_ ?_ ?_
    | rfl
    | simp; done

theorem State.enable_keeps {r s : State} (h : r.Keeps s) : r.Keeps s.enable := by
  unfold State.enable
  split
  · exact h
  · next hc =>
    have he : s.cfg.enable = false := by
      cases hE : s.cfg.enable
      · rfl
      · simp [hE] at hc
    refine State.Keeps.foldl (fun hk a => State.serveNudge_keeps hk a) _
      (State.Keeps.foldl (fun hk a => State.readTwin_keeps hk a) _
        (State.Keeps.foldl (fun hk a => State.loadRing_keeps hk a) _ ?_))
    exact State.Keeps.upd (h.cfg' (c := { s.cfg with enable := true }) id (fun _ => rfl)
        (fun x => by rw [he] at x; cases x) rfl rfl rfl) rfl rfl rfl rfl rfl

theorem State.writeCfg_keeps {q0 s : State} (h : q0.Keeps s) (en : Bool) (remap : Bool) (nudge : Bool) : q0.Keeps (State.writeCfg s en remap nudge) := by
  unfold State.writeCfg
  try dsimp only
  repeat' first
    | assumption
    | with_reducible apply State.setNudgeEn_keeps
    | with_reducible apply State.setRemap_keeps
    | with_reducible apply State.enable_keeps
    | with_reducible refine State.Keeps.foldl (fun hk a => ?_) _ ?_
    | split
    | with_reducible refine State.Keeps.upd ?_ ?_ ?_ ?_ ?_ ?_
    | rfl
    | simp; done

theorem State.prepareTwin_keeps {q0 s : State} (h : q0.Keeps s) (k : Nat) (t : Twin) : q0.Keeps (State.prepareTwin s k t) := by
  unfold State.prepareTwin
  try dsimp only
  repeat' first
    | assumption
    | with_reducible apply State.modFold_keeps
    | with_reducible apply State.copySlice_keeps
    | with_reducible refine State.Keeps.foldl (fun hk a => ?_) _ ?_
    | split
    | with_reducible refine State.Keeps.upd ?_ ?_ ?_ ?_ ?_ ?_
    | rfl
    | simp; done

theorem State.suspendOn_keeps {q0 s : State} (h : q0.Keeps s) (f : Nat) (did : Nat) (why : SuspWhy) : q0.Keeps (State.suspendOn s f did why) := by
  unfold State.suspendOn
  try dsimp only
  repeat' first
    | assumption
    | with_reducible apply State.voidBarred_keeps
    | with_reducible apply State.modPair_keeps
    | with_reducible refine State.Keeps.foldl (fun hk a => ?_) _ ?_
    | split
    | with_reducible refine State.Keeps.upd ?_ ?_ ?_ ?_ ?_ ?_
    | rfl
    | simp; done

theorem State.advanceOne_keeps {q0 s : State} (h : q0.Keeps s) (did : Nat) (f : Nat) (u : Nat) : q0.Keeps (State.advanceOne s did f u) := by
  unfold State.advanceOne
  try dsimp only
  repeat' first
    | assumption
    | with_reducible apply State.advance_keeps
    | with_reducible refine State.Keeps.foldl (fun hk a => ?_) _ ?_
    | split
    | with_reducible refine State.Keeps.upd ?_ ?_ ?_ ?_ ?_ ?_
    | rfl
    | simp; done

theorem State.resumeOn_keeps {q0 s : State} (h : q0.Keeps s) (f : Nat) (did : Nat) : q0.Keeps (State.resumeOn s f did) := by
  unfold State.resumeOn
  try dsimp only
  repeat' first
    | assumption
    | with_reducible apply State.modDesc_keeps
    | with_reducible apply State.modPair_keeps
    | with_reducible apply State.loadRoute_keeps
    | with_reducible refine State.Keeps.foldl (fun hk a => ?_) _ ?_
    | split
    | with_reducible refine State.Keeps.upd ?_ ?_ ?_ ?_ ?_ ?_
    | rfl
    | simp; done

theorem State.endFault_keeps {q0 s : State} (h : q0.Keeps s) (did : Nat) (pts : Progress) : q0.Keeps (State.endFault s did pts) := by
  unfold State.endFault
  try dsimp only
  repeat' first
    | assumption
    | with_reducible apply State.stopAt_keeps
    | with_reducible refine State.Keeps.foldl (fun hk a => ?_) _ ?_
    | split
    | with_reducible refine State.Keeps.upd ?_ ?_ ?_ ?_ ?_ ?_
    | rfl
    | simp; done

theorem State.issueHost_keeps {q0 s : State} (h : q0.Keeps s) (d : Desc) (f : Nat) (p : Nat) (u : Nat) (write : Bool) (h : HLine) (beat : BitVec 512 × BitVec 64 × Bool) (bs : List Batch) : q0.Keeps (State.issueHost s d f p u write h beat bs) := by
  unfold State.issueHost
  try dsimp only
  repeat' first
    | assumption
    | with_reducible apply State.modFold_keeps
    | with_reducible apply State.modDesc_keeps
    | with_reducible apply State.issueTxn_keeps
    | with_reducible apply State.payLines_keeps
    | with_reducible apply State.noWait_keeps
    | with_reducible apply State.lineId_keeps
    | with_reducible refine State.Keeps.foldl (fun hk a => ?_) _ ?_
    | split
    | with_reducible refine State.Keeps.upd ?_ ?_ ?_ ?_ ?_ ?_
    | rfl
    | simp; done

theorem State.grantOne_keeps {q0 s : State} (h : q0.Keeps s) (d : Desc) (f : Nat) (p : Nat) (u : Nat) (write : Bool) (h : HLine) (beat : BitVec 512 × BitVec 64 × Bool) : q0.Keeps (State.grantOne s d f p u write h beat) := by
  unfold State.grantOne
  try dsimp only
  repeat' first
    | assumption
    | with_reducible apply State.waitFor_keeps
    | with_reducible apply State.issueHost_keeps
    | with_reducible refine State.Keeps.foldl (fun hk a => ?_) _ ?_
    | split
    | with_reducible refine State.Keeps.upd ?_ ?_ ?_ ?_ ?_ ?_
    | rfl
    | simp; done

theorem State.grantRead_keeps {q0 s : State} (h : q0.Keeps s) (d : Desc) (f : Nat) (p : Nat) (line : Nat) : q0.Keeps (State.grantRead s d f p line) := by
  unfold State.grantRead
  try dsimp only
  repeat' first
    | assumption
    | with_reducible apply State.grantOne_keeps
    | with_reducible refine State.Keeps.foldl (fun hk a => ?_) _ ?_
    | split
    | with_reducible refine State.Keeps.upd ?_ ?_ ?_ ?_ ?_ ?_
    | rfl
    | simp; done

theorem State.comeOn_keeps {r s : State} (h : r.Keeps s) (did f : Nat) : r.Keeps (s.comeOn did f) := by
  unfold State.comeOn
  split
  · split
    · exact (State.advanceOne_keeps h _ _ _).upd rfl rfl rfl rfl rfl
    · exact h
  · exact h

theorem State.grantWrite_keeps {q0 s : State} (h : q0.Keeps s) (d : Desc) (f : Nat) (p : Nat) (line : Nat) : q0.Keeps (State.grantWrite s d f p line) := by
  unfold State.grantWrite
  try dsimp only
  repeat' first
    | assumption
    | with_reducible apply State.grantOne_keeps
    | with_reducible refine State.Keeps.foldl (fun hk a => ?_) _ ?_
    | split
    | with_reducible refine State.Keeps.upd ?_ ?_ ?_ ?_ ?_ ?_
    | rfl
    | simp; done

theorem State.answerDrover_keeps {q0 s : State} (h : q0.Keeps s) (t : Txn) (p : Nat) (did : Nat) : q0.Keeps (State.answerDrover s t p did) := by
  unfold State.answerDrover
  try dsimp only
  repeat' first
    | assumption
    | with_reducible apply State.modFold_keeps
    | with_reducible apply State.dropTxn_keeps
    | with_reducible refine State.Keeps.foldl (fun hk a => ?_) _ ?_
    | split
    | with_reducible refine State.Keeps.upd ?_ ?_ ?_ ?_ ?_ ?_
    | rfl
    | simp; done

theorem State.lateDone_keeps {q0 s : State} (h : q0.Keeps s) (did : Nat) : q0.Keeps (State.lateDone s did) := by
  unfold State.lateDone
  try dsimp only
  repeat' first
    | assumption
    | with_reducible apply State.modDesc_keeps
    | with_reducible refine State.Keeps.foldl (fun hk a => ?_) _ ?_
    | split
    | with_reducible refine State.Keeps.upd ?_ ?_ ?_ ?_ ?_ ?_
    | rfl
    | simp; done

theorem State.storeTxn_keeps {q0 s : State} (h : q0.Keeps s) (t : Txn) : q0.Keeps (State.storeTxn s t) := by
  unfold State.storeTxn
  try dsimp only
  repeat' first
    | assumption
    | with_reducible apply State.putAll_keeps
    | with_reducible refine State.Keeps.foldl (fun hk a => ?_) _ ?_
    | split
    | with_reducible refine State.Keeps.upd ?_ ?_ ?_ ?_ ?_ ?_
    | rfl
    | simp; done

theorem State.unexpected_keeps {q0 s : State} (h : q0.Keeps s) (port : Nat) (id : Nat) : q0.Keeps (State.unexpected s port id) := by
  unfold State.unexpected
  try dsimp only
  repeat' first
    | assumption
    | with_reducible apply State.note_keeps
    | with_reducible refine State.Keeps.foldl (fun hk a => ?_) _ ?_
    | split
    | with_reducible refine State.Keeps.upd ?_ ?_ ?_ ?_ ?_ ?_
    | rfl
    | simp; done

theorem State.landLine_keeps {q0 s : State} (h : q0.Keeps s) (t : Txn) (p : Nat) (did : Nat) (data : BitVec 512) (rad : Bool) : q0.Keeps (State.landLine s t p did data rad) := by
  unfold State.landLine
  try dsimp only
  repeat' first
    | assumption
    | with_reducible apply State.modFold_keeps
    | with_reducible apply State.answerDrover_keeps
    | with_reducible refine State.Keeps.foldl (fun hk a => ?_) _ ?_
    | split
    | with_reducible refine State.Keeps.upd ?_ ?_ ?_ ?_ ?_ ?_
    | rfl
    | simp; done

theorem State.ownRead_keeps {r s : State} (h : r.Keeps s) (t : Txn) (data : BitVec 512) : r.Keeps (s.ownRead t data) :=
  State.putHost_keeps (State.dropTxn_keeps h _) _ _

theorem State.swapTxn_keeps {q0 s : State} (h : q0.Keeps s) (t : Txn) (u : Txn) : q0.Keeps (State.swapTxn s t u) := by
  unfold State.swapTxn
  try dsimp only
  repeat' first
    | assumption
    | with_reducible refine State.Keeps.foldl (fun hk a => ?_) _ ?_
    | split
    | with_reducible refine State.Keeps.upd ?_ ?_ ?_ ?_ ?_ ?_
    | rfl
    | simp; done

theorem State.reissue_keeps {q0 s : State} (h : q0.Keeps s) (t : Txn) : q0.Keeps (State.reissue s t) := by
  unfold State.reissue
  try dsimp only
  repeat' first
    | assumption
    | with_reducible apply State.emit_keeps
    | with_reducible refine State.Keeps.foldl (fun hk a => ?_) _ ?_
    | split
    | with_reducible refine State.Keeps.upd ?_ ?_ ?_ ?_ ?_ ?_
    | rfl
    | simp; done

theorem State.loseLine_keeps {q0 s : State} (h : q0.Keeps s) (d : Desc) (f : Nat) (line : Nat) : q0.Keeps (State.loseLine s d f line) := by
  unfold State.loseLine
  try dsimp only
  repeat' first
    | assumption
    | with_reducible apply State.modDesc_keeps
    | with_reducible refine State.Keeps.foldl (fun hk a => ?_) _ ?_
    | split
    | with_reducible refine State.Keeps.upd ?_ ?_ ?_ ?_ ?_ ?_
    | rfl
    | simp; done

theorem State.derrDrover_keeps {r s : State} (h : r.Keeps s) (t : Txn) (p did : Nat) (data : BitVec 512) :
    r.Keeps (s.derrDrover t p did data) := by
  unfold State.derrDrover
  split
  · exact State.answerDrover_keeps h _ _ _
  · split
    · exact State.noteD_keeps (State.lateDone_keeps (State.loseLine_keeps (State.answerDrover_keeps h _ _ _) _ _ _) _) _ _ _ _
    · exact State.noteD_keeps (State.landLine_keeps h _ _ _ _ _) _ _ _ _

theorem State.derrOwn_keeps {q0 s : State} (h : q0.Keeps s) (t : Txn) (key : Nat) : q0.Keeps (State.derrOwn s t key) := by
  unfold State.derrOwn
  try dsimp only
  repeat' first
    | assumption
    | with_reducible apply State.note_keeps
    | with_reducible apply State.dropTxn_keeps
    | with_reducible apply State.ownLine_keeps
    | with_reducible refine State.Keeps.foldl (fun hk a => ?_) _ ?_
    | split
    | with_reducible refine State.Keeps.upd ?_ ?_ ?_ ?_ ?_ ?_
    | rfl
    | simp; done

theorem State.noteOwn_keeps {q0 s : State} (h : q0.Keeps s) (first : Bool) (pen : Option Nat) (row : Nat) (line : Nat) : q0.Keeps (State.noteOwn s first pen row line) := by
  unfold State.noteOwn
  try dsimp only
  repeat' first
    | assumption
    | with_reducible apply State.note_keeps
    | with_reducible apply State.noteP_keeps
    | with_reducible refine State.Keeps.foldl (fun hk a => ?_) _ ?_
    | split
    | with_reducible refine State.Keeps.upd ?_ ?_ ?_ ?_ ?_ ?_
    | rfl
    | simp; done

theorem State.waitOwn_keeps {q0 s : State} (h : q0.Keeps s) (key : Nat) : q0.Keeps (State.waitOwn s key) := by
  unfold State.waitOwn
  try dsimp only
  repeat' first
    | assumption
    | with_reducible refine State.Keeps.foldl (fun hk a => ?_) _ ?_
    | split
    | with_reducible refine State.Keeps.upd ?_ ?_ ?_ ?_ ?_ ?_
    | rfl
    | simp; done

theorem State.ownFault_keeps {r s : State} (h : r.Keeps s) (key line : Nat) : r.Keeps (s.ownFault key line) := by
  unfold State.ownFault
  split
  · exact h
  · split
    · exact State.noteOwn_keeps ((State.dropOwn_keeps h _).upd rfl rfl rfl rfl rfl) _ _ _ _
    · extract_lets gone s1 s2
      have h1 : r.Keeps s1 := State.Keeps.foldl (fun hk x => State.dropOwn_keeps hk _) _ h
      exact State.noteOwn_keeps (State.modPen_keeps (h1.upd rfl rfl rfl rfl rfl) _ _) _ _ _ _
    · exact State.noteOwn_keeps (State.modRing_keeps (State.waitOwn_keeps h _) _ _) _ _ _ _
    · exact State.noteOwn_keeps (State.modRing_keeps (State.waitOwn_keeps h _) _ _) _ _ _ _
    · exact State.noteOwn_keeps ((State.waitOwn_keeps h _).upd rfl rfl rfl rfl rfl) _ _ _ _
    · exact (State.waitOwn_keeps h _).upd rfl rfl rfl rfl rfl
    · exact State.waitOwn_keeps h _

theorem State.faultVoids_keeps {q0 s : State} (h : q0.Keeps s) (d : Desc) (f : Nat) (line : Nat) : q0.Keeps (State.faultVoids s d f line) := by
  unfold State.faultVoids
  try dsimp only
  repeat' first
    | assumption
    | with_reducible apply State.noteD_keeps
    | with_reducible apply State.modDesc_keeps
    | with_reducible apply State.voidBound_keeps
    | with_reducible apply State.voidBehind_keeps
    | with_reducible refine State.Keeps.foldl (fun hk a => ?_) _ ?_
    | split
    | with_reducible refine State.Keeps.upd ?_ ?_ ?_ ?_ ?_ ?_
    | rfl
    | simp; done

theorem State.restartOn_keeps {q0 s : State} (h : q0.Keeps s) (did : Nat) (f : Nat) : q0.Keeps (State.restartOn s did f) := by
  unfold State.restartOn
  try dsimp only
  repeat' first
    | assumption
    | with_reducible apply State.modDesc_keeps
    | with_reducible apply State.modPair_keeps
    | with_reducible refine State.Keeps.foldl (fun hk a => ?_) _ ?_
    | split
    | with_reducible refine State.Keeps.upd ?_ ?_ ?_ ?_ ?_ ?_
    | rfl
    | simp; done

theorem State.stallOn_keeps {q0 s : State} (h : q0.Keeps s) (did : Nat) (f : Nat) : q0.Keeps (State.stallOn s did f) := by
  unfold State.stallOn
  try dsimp only
  repeat' first
    | assumption
    | with_reducible apply State.modPair_keeps
    | with_reducible apply State.suspendOn_keeps
    | with_reducible refine State.Keeps.foldl (fun hk a => ?_) _ ?_
    | split
    | with_reducible refine State.Keeps.upd ?_ ?_ ?_ ?_ ?_ ?_
    | rfl
    | simp; done

theorem State.reopen_keeps {q0 s : State} (h : q0.Keeps s) (did : Nat) : q0.Keeps (State.reopen s did) := by
  unfold State.reopen
  try dsimp only
  repeat' first
    | assumption
    | with_reducible apply State.modDesc_keeps
    | with_reducible refine State.Keeps.foldl (fun hk a => ?_) _ ?_
    | split
    | with_reducible refine State.Keeps.upd ?_ ?_ ?_ ?_ ?_ ?_
    | rfl
    | simp; done

theorem State.keepStalled_keeps {q0 s : State} (h : q0.Keeps s) (t : Txn) (f : Nat) (did : Nat) : q0.Keeps (State.keepStalled s t f did) := by
  unfold State.keepStalled
  try dsimp only
  repeat' first
    | assumption
    | with_reducible apply State.modDesc_keeps
    | with_reducible apply State.reopen_keeps
    | with_reducible refine State.Keeps.foldl (fun hk a => ?_) _ ?_
    | split
    | with_reducible refine State.Keeps.upd ?_ ?_ ?_ ?_ ?_ ?_
    | rfl
    | simp; done

theorem State.stallDrover_keeps {r s : State} (h : r.Keeps s) (t : Txn) (p did units row : Nat) :
    r.Keeps (s.stallDrover t p did units row) := by
  unfold State.stallDrover
  extract_lets s0
  have h0 : r.Keeps s0 := State.answerDrover_keeps h _ _ _
  split
  · exact h0
  · extract_lets keep s1
    have hk : ∀ {u : State}, r.Keeps u → r.Keeps (keep u) := fun hu => State.keepStalled_keeps hu _ _ _
    have h1 : r.Keeps s1 := by
      show r.Keeps (if _ then _ else _)
      split
      · exact State.reopen_keeps h0 _
      · exact h0
    split
    · exact h1
    · split
      · exact hk h1
      · extract_lets s2 u s3
        have h2 : r.Keeps s2 := State.faultVoids_keeps (State.noteD_keeps h1 _ _ _ _) _ _ _
        split
        · exact State.restartOn_keeps h2 _ _
        · split
          · exact State.stallOn_keeps (hk (State.advanceOne_keeps h2 _ _ _)) _ _
          · split
            · exact State.stallOn_keeps (hk h2) _ _
            · exact hk h2

theorem State.lateEnd_keeps {q0 s : State} (h : q0.Keeps s) (did : Nat) (st : Status) : q0.Keeps (State.lateEnd s did st) := by
  unfold State.lateEnd
  try dsimp only
  repeat' first
    | assumption
    | with_reducible apply State.modDesc_keeps
    | with_reducible refine State.Keeps.foldl (fun hk a => ?_) _ ?_
    | split
    | with_reducible refine State.Keeps.upd ?_ ?_ ?_ ?_ ?_ ?_
    | rfl
    | simp; done

theorem State.denyDrover_keeps {q0 s : State} (h : q0.Keeps s) (t : Txn) (p : Nat) (did : Nat) (pts : Progress) : q0.Keeps (State.denyDrover s t p did pts) := by
  unfold State.denyDrover
  try dsimp only
  repeat' first
    | assumption
    | with_reducible apply State.noteD_keeps
    | with_reducible apply State.endFault_keeps
    | with_reducible apply State.answerDrover_keeps
    | with_reducible apply State.faultVoids_keeps
    | with_reducible apply State.lateEnd_keeps
    | with_reducible refine State.Keeps.foldl (fun hk a => ?_) _ ?_
    | split
    | with_reducible refine State.Keeps.upd ?_ ?_ ?_ ?_ ?_ ?_
    | rfl
    | simp; done

theorem State.timeOut_keeps {q0 s : State} (h : q0.Keeps s) (t : Txn) (pts : Progress) : q0.Keeps (State.timeOut s t pts) := by
  unfold State.timeOut
  try dsimp only
  repeat' first
    | assumption
    | with_reducible apply State.note_keeps
    | with_reducible apply State.noteD_keeps
    | with_reducible apply State.dropTxn_keeps
    | with_reducible apply State.stopAt_keeps
    | with_reducible apply State.answerDrover_keeps
    | with_reducible apply State.ownFault_keeps
    | with_reducible apply State.lateEnd_keeps
    | with_reducible refine State.Keeps.foldl (fun hk a => ?_) _ ?_
    | split
    | with_reducible refine State.Keeps.upd ?_ ?_ ?_ ?_ ?_ ?_
    | rfl
    | simp; done

theorem State.retryOn_keeps {q0 s : State} (h : q0.Keeps s) (f : Nat) : q0.Keeps (State.retryOn s f) := by
  unfold State.retryOn
  try dsimp only
  repeat' first
    | assumption
    | with_reducible apply State.modPair_keeps
    | with_reducible apply State.restartOn_keeps
    | with_reducible refine State.Keeps.foldl (fun hk a => ?_) _ ?_
    | split
    | with_reducible refine State.Keeps.upd ?_ ?_ ?_ ?_ ?_ ?_
    | rfl
    | simp; done

theorem State.xresume_keeps {q0 s : State} (h : q0.Keeps s) (f : Nat) (abort : Bool) (pts : Progress) : q0.Keeps (State.xresume s f abort pts) := by
  unfold State.xresume
  try dsimp only
  repeat' first
    | assumption
    | with_reducible apply State.noteF_keeps
    | with_reducible apply State.endFault_keeps
    | with_reducible apply State.retryOn_keeps
    | with_reducible refine State.Keeps.foldl (fun hk a => ?_) _ ?_
    | split
    | with_reducible refine State.Keeps.upd ?_ ?_ ?_ ?_ ?_ ?_
    | rfl
    | simp; done

theorem State.prepareRecord_keeps {r s : State} (h : r.Keeps s) (d : Desc) : r.Keeps (s.prepareRecord d) := by
  unfold State.prepareRecord
  split
  · exact h
  · next t e =>
    extract_lets t1
    have ht : r.Keeps t := State.putMap_keeps h e
    refine State.modDesc_keeps (?_ : r.Keeps t1) _ _
    show r.Keeps (match d.bound with | some b => _ | none => _)
    split
    · split
      · exact State.noteD_keeps ht _ _ _ _
      · exact ht
    · exact ht

theorem State.tryRecord_keeps {q0 s : State} (h : q0.Keeps s) (d : Desc) : q0.Keeps (State.tryRecord s d) := by
  unfold State.tryRecord
  try dsimp only
  repeat' first
    | assumption
    | with_reducible apply State.sendRecord_keeps
    | with_reducible apply State.prepareRecord_keeps
    | with_reducible refine State.Keeps.foldl (fun hk a => ?_) _ ?_
    | split
    | with_reducible refine State.Keeps.upd ?_ ?_ ?_ ?_ ?_ ?_
    | rfl
    | simp; done

theorem State.rereadCons_keeps {r s : State} (h : r.Keeps s) (q : Nat) (cons : BitVec 32) (fault : Bool) : r.Keeps (s.rereadCons q cons fault) := by
  unfold State.rereadCons
  extract_lets addr
  split
  · exact State.noteOwn_keeps (State.modRing_keeps (State.readWord_keeps h _) _ _) _ _ _ _
  · exact State.flushRing_keeps (State.modRing_keeps (State.putHost_keeps (State.readWord_keeps h _) _ _) _ _) _

theorem State.sendMessage_keeps {r s : State} (h : r.Keeps s) : r.Keeps s.sendMessage := by
  unfold State.sendMessage
  split
  · exact h
  · split
    · exact h.upd rfl rfl rfl rfl rfl
    · exact State.Keeps.getD h (fun _ e => State.issueMessage_keeps (h.upd rfl rfl rfl rfl rfl) e)

theorem State.setMask_keeps {r s : State} (h : r.Keeps s) (m : BitVec 4) : r.Keeps (s.setMask m) :=
  State.Keeps.upd (h.cfg' (c := { s.cfg with intMask := m }) id id (fun _ => rfl) rfl rfl rfl) rfl rfl rfl rfl rfl

theorem State.retryOwn_keeps {r s : State} (h : r.Keeps s) (o : Own) : r.Keeps (s.retryOwn o) := by
  unfold State.retryOwn
  extract_lets msg t lines
  have ht : r.Keeps t := h.upd rfl rfl rfl rfl rfl
  split
  · exact State.finishOwn_keeps ht o
  · exact State.Keeps.getD h (fun _ e => State.issueLines_keeps ht _ e)

theorem State.flipWord_keeps {r s : State} (h : r.Keeps s) (w : Nat) (flips : BitVec 64) : r.Keeps (s.flipWord w flips) :=
  h.memory id id (fun x => swf_ssetAll x) id id id

theorem State.strike_keeps {r s : State} (h : r.Keeps s) (p : Nat) (u : Upset) : r.Keeps (s.strike p u) := by
  cases u with
  | pasture word hard flips =>
    simp only [State.strike]
    split
    · exact (State.flipWord_keeps h _ _).memory id id id id (fun x => swf_sset x) id
    · exact h.memory id id id id (fun x => swf_sset x) id
  | vfile word hard flips =>
    simp only [State.strike]
    split
    · exact State.modFold_keeps h _ _
    · exact h

theorem State.scrubWord_keeps {r s : State} (h : r.Keeps s) (w : Nat) : r.Keeps (s.scrubWord w) := by
  unfold State.scrubWord
  split
  · exact h
  · exact State.corrected_keeps (h.memory id id id id (fun x => swf_sset x) id)
  · exact State.hand_keeps h w

theorem State.wordAddr_keeps {r s : State} (h : r.Keeps s) (w : Nat) : r.Keeps (s.wordAddr w).2 := by
  unfold State.wordAddr
  split
  · exact h
  · exact State.choose_keeps h _

theorem State.reread_keeps {r s : State} (h : r.Keeps s) (w : Nat) : r.Keeps (s.reread w) := by
  unfold State.reread
  extract_lets s1 s2 a
  have h1 : r.Keeps s1 := h.upd rfl rfl rfl rfl rfl
  have h2 : r.Keeps s2 := by
    show r.Keeps (if _ then _ else _)
    split
    · exact h1.memory id id id (fun x => swf_ssetAll x) (fun x => swf_sset x) id
    · exact h1
  exact State.count_keeps (State.bumpFault_keeps (State.event_keeps (State.wordAddr_keeps h2 w) _ _ _ _ _ _) _ _) _ _

theorem State.diverge_keeps {q0 s : State} (h : q0.Keeps s) (k : Nat) (t : Twin) (d : Desc) (units : Nat) (pts : Progress) : q0.Keeps (State.diverge s k t d units pts) := by
  unfold State.diverge
  try dsimp only
  repeat' first
    | assumption
    | with_reducible apply State.noteD_keeps
    | with_reducible apply State.voidBound_keeps
    | with_reducible apply State.modPair_keeps
    | with_reducible apply State.mismatch_keeps
    | with_reducible apply State.advance_keeps
    | with_reducible apply State.advanceOne_keeps
    | with_reducible refine State.Keeps.foldl (fun hk a => ?_) _ ?_
    | split
    | with_reducible refine State.Keeps.upd ?_ ?_ ?_ ?_ ?_ ?_
    | rfl
    | simp; done

theorem State.rerun_keeps {q0 s : State} (h : q0.Keeps s) (d : Desc) (f : Nat) (units : Nat) (pts : Progress) : q0.Keeps (State.rerun s d f units pts) := by
  unfold State.rerun
  try dsimp only
  repeat' first
    | assumption
    | with_reducible apply State.modL_keeps
    | with_reducible apply State.voidBound_keeps
    | with_reducible apply State.retire_keeps
    | with_reducible apply State.advanceOne_keeps
    | with_reducible refine State.Keeps.foldl (fun hk a => ?_) _ ?_
    | split
    | with_reducible refine State.Keeps.upd ?_ ?_ ?_ ?_ ?_ ?_
    | rfl
    | simp; done

theorem State.halt_keeps {q0 s : State} (h : q0.Keeps s) (pts : List (Nat × Progress)) (did : Nat) : q0.Keeps (State.halt s pts did) := by
  unfold State.halt
  try dsimp only
  repeat' first
    | assumption
    | with_reducible apply State.leaveAll_keeps
    | with_reducible apply State.dropLoads_keeps
    | with_reducible apply State.dropRoutes_keeps
    | with_reducible apply State.flushHeld_keeps
    | with_reducible apply State.advance_keeps
    | with_reducible refine State.Keeps.foldl (fun hk a => ?_) _ ?_
    | split
    | with_reducible refine State.Keeps.upd ?_ ?_ ?_ ?_ ?_ ?_
    | rfl
    | simp; done

theorem State.fatalStop_keeps {r s : State} (h : r.Keeps s) (cause phys : Nat) (pts : List (Nat × Progress)) (mramSound snSound : Bool) :
    r.Keeps (s.fatalStop cause phys pts mramSound snSound) := by
  unfold State.fatalStop
  have h1 : r.Keeps ({ s with pins := { s.pins with fatalN := false }, fatalReg := { cause := BitVec.ofNat 8 cause, phys := BitVec.ofNat 7 (if cause = 6 then phys else 0), valid := true } } : State) :=
    h.trans ⟨rfl, id, id, id, id, id, fun _ => rfl, fun _ => rfl⟩
  have h2 := State.Keeps.foldl (f := fun t did => t.halt pts did) (fun hk d => State.halt_keeps hk _ _)
    ((({ s with pins := { s.pins with fatalN := false }, fatalReg := { cause := BitVec.ofNat 8 cause, phys := BitVec.ofNat 7 (if cause = 6 then phys else 0), valid := true } } : State).descs.filter (fun d => d.active)).map (fun d => d.did)) h1
  dsimp only at h2 ⊢
  split
  · refine State.note_keeps ?_ _ _
    split
    · exact State.cutNow_keeps h2 _
    · exact h2.upd rfl rfl rfl rfl rfl
  · split
    · exact (State.cutNow_keeps h2 _).upd rfl rfl rfl rfl rfl
    · exact (h2.upd rfl rfl rfl rfl rfl).upd rfl rfl rfl rfl rfl

theorem State.usePort_keeps {q0 s : State} (h : q0.Keeps s) (n : Nat) : q0.Keeps (State.usePort s n) := by
  unfold State.usePort
  try dsimp only
  repeat' first
    | assumption
    | with_reducible refine State.Keeps.foldl (fun hk a => ?_) _ ?_
    | split
    | with_reducible refine State.Keeps.upd ?_ ?_ ?_ ?_ ?_ ?_
    | rfl
    | simp; done

theorem State.portStall_keeps {q0 s : State} (h : q0.Keeps s) (did : Nat) (stall : Nat) : q0.Keeps (State.portStall s did stall) := by
  unfold State.portStall
  try dsimp only
  repeat' first
    | assumption
    | with_reducible apply State.noteD_keeps
    | with_reducible apply State.voidBound_keeps
    | with_reducible refine State.Keeps.foldl (fun hk a => ?_) _ ?_
    | split
    | with_reducible refine State.Keeps.upd ?_ ?_ ?_ ?_ ?_ ?_
    | rfl
    | simp; done

theorem State.runPort_keeps {q0 s : State} (h : q0.Keeps s) (o : Opc) (did : Nat) (stall : Nat) : q0.Keeps (State.runPort s o did stall) := by
  unfold State.runPort
  try dsimp only
  repeat' first
    | assumption
    | with_reducible apply State.armPort_keeps
    | with_reducible apply State.ensure_keeps
    | with_reducible apply State.complete_keeps
    | with_reducible apply State.usePort_keeps
    | with_reducible apply State.portStall_keeps
    | with_reducible refine State.Keeps.foldl (fun hk a => ?_) _ ?_
    | split
    | with_reducible refine State.Keeps.upd ?_ ?_ ?_ ?_ ?_ ?_
    | rfl
    | simp; done

theorem State.landBeat_keeps {q0 s : State} (h : q0.Keeps s) (d : Desc) (ofs : BitVec 26) (data : BitVec 512) (last : Bool) (poison : Bool) : q0.Keeps (State.landBeat s d ofs data last poison) := by
  unfold State.landBeat
  try dsimp only
  repeat' first
    | assumption
    | with_reducible apply State.noteD_keeps
    | with_reducible apply State.modDesc_keeps
    | with_reducible apply State.armPort_keeps
    | with_reducible apply State.usePort_keeps
    | with_reducible refine State.Keeps.foldl (fun hk a => ?_) _ ?_
    | split
    | with_reducible refine State.Keeps.upd ?_ ?_ ?_ ?_ ?_ ?_
    | rfl
    | simp; done

theorem State.abortPort_keeps {q0 s : State} (h : q0.Keeps s) (did : Nat) (beats : Nat) : q0.Keeps (State.abortPort s did beats) := by
  unfold State.abortPort
  try dsimp only
  repeat' first
    | assumption
    | with_reducible refine State.Keeps.foldl (fun hk a => ?_) _ ?_
    | split
    | with_reducible refine State.Keeps.upd ?_ ?_ ?_ ?_ ?_ ?_
    | rfl
    | simp; done

theorem State.portExpire_keeps {q0 s : State} (h : q0.Keeps s) (d : Desc) (pts : Progress) (beats : Nat) (stall : Nat) : q0.Keeps (State.portExpire s d pts beats stall) := by
  unfold State.portExpire
  try dsimp only
  repeat' first
    | assumption
    | with_reducible apply State.noteD_keeps
    | with_reducible apply State.endEarly_keeps
    | with_reducible apply State.advance_keeps
    | with_reducible apply State.portStall_keeps
    | with_reducible apply State.abortPort_keeps
    | with_reducible refine State.Keeps.foldl (fun hk a => ?_) _ ?_
    | split
    | with_reducible refine State.Keeps.upd ?_ ?_ ?_ ?_ ?_ ?_
    | rfl
    | simp; done

theorem State.takePlan_keeps {q0 s : State} (h : q0.Keeps s) (plan : Nat) (pen : Nat) (bad : List Nat) (x : Nat × List Cell) : q0.Keeps (State.takePlan s plan pen bad x) := by
  unfold State.takePlan
  try dsimp only
  repeat' first
    | assumption
    | with_reducible apply State.noteD_keeps
    | with_reducible apply State.refuse_keeps
    | with_reducible apply State.take_keeps
    | with_reducible refine State.Keeps.foldl (fun hk a => ?_) _ ?_
    | split
    | with_reducible refine State.Keeps.upd ?_ ?_ ?_ ?_ ?_ ?_
    | rfl
    | simp; done

theorem State.admitPlans_keeps {q0 s : State} (h : q0.Keeps s)  : q0.Keeps (State.admitPlans s ) := by
  unfold State.admitPlans
  try dsimp only
  repeat' first
    | assumption
    | with_reducible apply State.servePen_keeps
    | with_reducible apply State.takePlan_keeps
    | with_reducible refine State.Keeps.foldl (fun hk a => ?_) _ ?_
    | split
    | with_reducible refine State.Keeps.upd ?_ ?_ ?_ ?_ ?_ ?_
    | rfl
    | simp; done

theorem State.finishOpt_keeps {r s : State} (h : r.Keeps s) (o : Option Nat) : r.Keeps (s.finishOpt o) := by
  cases o
  · exact h
  · exact State.finish_keeps h _

theorem State.turnPlans_keeps {r s : State} (h : r.Keeps s) : r.Keeps s.turnPlans :=
  State.Keeps.foldl (fun hk o => State.finishOpt_keeps hk o) _ (h.upd rfl rfl rfl rfl rfl)

theorem State.upsetPlan_keeps {q0 s : State} (h : q0.Keeps s) (x : Nat × Nat) : q0.Keeps (State.upsetPlan s x) := by
  unfold State.upsetPlan
  try dsimp only
  repeat' first
    | assumption
    | with_reducible refine State.Keeps.foldl (fun hk a => ?_) _ ?_
    | split
    | with_reducible refine State.Keeps.upd ?_ ?_ ?_ ?_ ?_ ?_
    | rfl
    | simp; done

theorem State.countBoundary_keeps {q0 s : State} (h : q0.Keeps s)  : q0.Keeps (State.countBoundary s ) := by
  unfold State.countBoundary
  try dsimp only
  repeat' first
    | assumption
    | with_reducible apply State.count_keeps
    | with_reducible apply State.note_keeps
    | with_reducible apply State.modEpoch_keeps
    | with_reducible refine State.Keeps.foldl (fun hk a => ?_) _ ?_
    | split
    | with_reducible refine State.Keeps.upd ?_ ?_ ?_ ?_ ?_ ?_
    | rfl
    | simp; done

theorem State.openPeriod_keeps {q0 s : State} (h : q0.Keeps s) (e : Nat) : q0.Keeps (State.openPeriod s e) := by
  unfold State.openPeriod
  try dsimp only
  repeat' first
    | assumption
    | with_reducible refine State.Keeps.foldl (fun hk a => ?_) _ ?_
    | split
    | with_reducible refine State.Keeps.upd ?_ ?_ ?_ ?_ ?_ ?_
    | rfl
    | simp; done

theorem State.raiseCost_keeps {r s : State} (h : r.Keeps s) (c : Option (BitVec 16 × BitVec 16 × BitVec 16)) : r.Keeps (s.raiseCost c) := by
  unfold State.raiseCost
  split
  · exact h
  · refine h.cost' (fun hs => ?_)
    have hm : ∀ a b : BitVec 16, a.toNat ≤ (max16 a b).toNat := fun a b => by unfold max16; split <;> omega
    simp only [Cost.inRange, decide_eq_true_eq] at hs ⊢
    exact ⟨Nat.le_trans hs.1 (hm _ _), Nat.le_trans hs.2.1 (hm _ _), Nat.le_trans hs.2.2 (hm _ _)⟩

theorem State.voidAll_keeps {q0 s : State} (h : q0.Keeps s)  : q0.Keeps (State.voidAll s ) := by
  unfold State.voidAll
  try dsimp only
  repeat' first
    | assumption
    | with_reducible refine State.Keeps.foldl (fun hk a => ?_) _ ?_
    | split
    | with_reducible refine State.Keeps.upd ?_ ?_ ?_ ?_ ?_ ?_
    | rfl
    | simp; done

theorem State.startPause_keeps {q0 s : State} (h : q0.Keeps s)  : q0.Keeps (State.startPause s ) := by
  unfold State.startPause
  try dsimp only
  repeat' first
    | assumption
    | with_reducible apply State.modEpoch_keeps
    | with_reducible refine State.Keeps.foldl (fun hk a => ?_) _ ?_
    | split
    | with_reducible refine State.Keeps.upd ?_ ?_ ?_ ?_ ?_ ?_
    | rfl
    | simp; done

theorem State.passImage_keeps {r s : State} (h : r.Keeps s) (line : Nat) (data : BitVec 512) (rad : Bool) :
    r.Keeps (s.passImage line data rad) := by
  unfold State.passImage
  extract_lets t
  refine State.putAll_keeps (?_ : r.Keeps t) _
  show r.Keeps (match s.takeId (snPort line) with | none => _ | some x => _)
  split
  · exact h
  · next e => exact State.emit_keeps (State.takeId_keeps h e) _

theorem State.writeImage_keeps {q0 s : State} (h : q0.Keeps s) (f : Nat) : q0.Keeps (State.writeImage s f) := by
  unfold State.writeImage
  try dsimp only
  repeat' first
    | assumption
    | with_reducible apply State.noteF_keeps
    | with_reducible apply State.passImage_keeps
    | with_reducible refine State.Keeps.foldl (fun hk a => ?_) _ ?_
    | split
    | with_reducible refine State.Keeps.upd ?_ ?_ ?_ ?_ ?_ ?_
    | rfl
    | simp; done

theorem State.pauseOne_keeps {q0 s : State} (h : q0.Keeps s) (pts : List (Nat × Progress)) (did : Nat) : q0.Keeps (State.pauseOne s pts did) := by
  unfold State.pauseOne
  try dsimp only
  repeat' first
    | assumption
    | with_reducible apply State.advance_keeps
    | with_reducible apply State.complete_keeps
    | with_reducible apply State.suspendOn_keeps
    | with_reducible refine State.Keeps.foldl (fun hk a => ?_) _ ?_
    | split
    | with_reducible refine State.Keeps.upd ?_ ?_ ?_ ?_ ?_ ?_
    | rfl
    | simp; done

theorem State.takeSrow_keeps {q0 s : State} (h : q0.Keeps s) (f : Nat) (n : Nat) : q0.Keeps (State.takeSrow s f n) := by
  unfold State.takeSrow
  try dsimp only
  repeat' first
    | assumption
    | with_reducible apply State.modDesc_keeps
    | with_reducible apply State.modPair_keeps
    | with_reducible refine State.Keeps.foldl (fun hk a => ?_) _ ?_
    | split
    | with_reducible refine State.Keeps.upd ?_ ?_ ?_ ?_ ?_ ?_
    | rfl
    | simp; done

theorem State.restore_keeps {r s : State} (h : r.Keeps s) (f : Nat) : r.Keeps (s.restore f) := by
  unfold State.restore
  extract_lets a n
  split
  · split
    · exact State.retire_keeps h _ _
    · exact h
  · exact State.takeSrow_keeps (State.modL_keeps (State.passOwn_keeps h _ _ _) _ _) _ _

theorem State.restoreShadow_keeps {q0 s : State} (h : q0.Keeps s) (t : Twin) : q0.Keeps (State.restoreShadow s t) := by
  unfold State.restoreShadow
  try dsimp only
  repeat' first
    | assumption
    | with_reducible apply State.modL_keeps
    | with_reducible apply State.passOwn_keeps
    | with_reducible refine State.Keeps.foldl (fun hk a => ?_) _ ?_
    | split
    | with_reducible refine State.Keeps.upd ?_ ?_ ?_ ?_ ?_ ?_
    | rfl
    | simp; done

theorem State.wakeSusp_keeps {q0 s : State} (h : q0.Keeps s) (f : Nat) : q0.Keeps (State.wakeSusp s f) := by
  unfold State.wakeSusp
  try dsimp only
  repeat' first
    | assumption
    | with_reducible apply State.modL_keeps
    | with_reducible refine State.Keeps.foldl (fun hk a => ?_) _ ?_
    | split
    | with_reducible refine State.Keeps.upd ?_ ?_ ?_ ?_ ?_ ?_
    | rfl
    | simp; done

theorem State.lateResume_keeps {q0 s : State} (h : q0.Keeps s) (x : Nat × Bool) : q0.Keeps (State.lateResume s x) := by
  unfold State.lateResume
  try dsimp only
  repeat' first
    | assumption
    | with_reducible apply State.endFault_keeps
    | with_reducible apply State.retryOn_keeps
    | with_reducible refine State.Keeps.foldl (fun hk a => ?_) _ ?_
    | split
    | with_reducible refine State.Keeps.upd ?_ ?_ ?_ ?_ ?_ ?_
    | rfl
    | simp; done

theorem State.resume_keeps {r s : State} (h : r.Keeps s) : r.Keeps s.resume := by
  unfold State.resume
  extract_lets s1 s2 s3 s4 s5
  have h1 : r.Keeps s1 := State.Keeps.foldl (fun hk a => State.restore_keeps hk a) _ h
  have h2 : r.Keeps s2 := State.Keeps.foldl (fun hk a => State.restoreShadow_keeps hk a) _ h1
  have h3 : r.Keeps s3 := State.Keeps.foldl (fun hk a => State.wakeSusp_keeps hk a) _ h2
  have h4 : r.Keeps s4 := State.Keeps.foldl (fun hk a => State.lateResume_keeps hk a) _ h3
  have h5 : r.Keeps s5 := by
    show r.Keeps (if _ then _ else _)
    split
    · exact State.Keeps.foldl (fun hk a => State.readTwin_keeps hk a) _ h4
    · exact h4
  exact h5.upd rfl rfl rfl rfl rfl

theorem State.writePause_keeps {q0 s : State} (h : q0.Keeps s) (req : Bool) : q0.Keeps (State.writePause s req) := by
  unfold State.writePause
  try dsimp only
  repeat' first
    | assumption
    | with_reducible apply State.note_keeps
    | with_reducible apply State.startPause_keeps
    | with_reducible apply State.resume_keeps
    | with_reducible refine State.Keeps.foldl (fun hk a => ?_) _ ?_
    | split
    | with_reducible refine State.Keeps.upd ?_ ?_ ?_ ?_ ?_ ?_
    | rfl
    | simp; done

theorem State.takeGate_keeps {q0 s : State} (h : q0.Keeps s) (did : Nat) (arms : Bool) : q0.Keeps (State.takeGate s did arms) := by
  unfold State.takeGate
  try dsimp only
  repeat' first
    | assumption
    | with_reducible apply State.modDesc_keeps
    | with_reducible apply State.setArm_keeps
    | with_reducible refine State.Keeps.foldl (fun hk a => ?_) _ ?_
    | split
    | with_reducible refine State.Keeps.upd ?_ ?_ ?_ ?_ ?_ ?_
    | rfl
    | simp; done

theorem State.cancelFetched_keeps {q0 s : State} (h : q0.Keeps s) (did : Nat) : q0.Keeps (State.cancelFetched s did) := by
  unfold State.cancelFetched
  try dsimp only
  repeat' first
    | assumption
    | with_reducible apply State.refuse_keeps
    | with_reducible refine State.Keeps.foldl (fun hk a => ?_) _ ?_
    | split
    | with_reducible refine State.Keeps.upd ?_ ?_ ?_ ?_ ?_ ?_
    | rfl
    | simp; done

theorem State.cancelTally_keeps {r s : State} (h : r.Keeps s) (did : Nat) : r.Keeps (s.cancelTally did) := by
  unfold State.cancelTally
  split
  · exact State.endEarly_keeps h _ _
  · split
    · exact h
    · exact State.endEarly_keeps ((State.reopenRun_keeps h _).upd rfl rfl rfl rfl rfl) _ _

theorem State.cancelOne_keeps {q0 s : State} (h : q0.Keeps s) (did : Nat) (pts : Progress) : q0.Keeps (State.cancelOne s did pts) := by
  unfold State.cancelOne
  try dsimp only
  repeat' first
    | assumption
    | with_reducible apply State.stopAt_keeps
    | with_reducible apply State.cancelFetched_keeps
    | with_reducible apply State.cancelTally_keeps
    | with_reducible refine State.Keeps.foldl (fun hk a => ?_) _ ?_
    | split
    | with_reducible refine State.Keeps.upd ?_ ?_ ?_ ?_ ?_ ?_
    | rfl
    | simp; done

theorem State.replaceLoad_keeps {q0 s : State} (h : q0.Keeps s) (p : Plan) : q0.Keeps (State.replaceLoad s p) := by
  unfold State.replaceLoad
  try dsimp only
  repeat' first
    | assumption
    | with_reducible apply State.endEarly_keeps
    | with_reducible refine State.Keeps.foldl (fun hk a => ?_) _ ?_
    | split
    | with_reducible refine State.Keeps.upd ?_ ?_ ?_ ?_ ?_ ?_
    | rfl
    | simp; done

theorem State.setPlan_keeps {q0 s : State} (h : q0.Keeps s) (k : Nat) (p : Plan) : q0.Keeps (State.setPlan s k p) := by
  unfold State.setPlan
  try dsimp only
  repeat' first
    | assumption
    | with_reducible refine State.Keeps.foldl (fun hk a => ?_) _ ?_
    | split
    | with_reducible refine State.Keeps.upd ?_ ?_ ?_ ?_ ?_ ?_
    | rfl
    | simp; done

theorem State.readImageLines_keeps {q0 s : State} (h : q0.Keeps s) (d : Desc) : q0.Keeps (State.readImageLines s d) := by
  unfold State.readImageLines
  try dsimp only
  repeat' first
    | assumption
    | with_reducible apply State.passOwn_keeps
    | with_reducible refine State.Keeps.foldl (fun hk a => ?_) _ ?_
    | split
    | with_reducible refine State.Keeps.upd ?_ ?_ ?_ ?_ ?_ ?_
    | rfl
    | simp; done

theorem State.planLoad_keeps {q0 s : State} (h : q0.Keeps s) (d : Desc) : q0.Keeps (State.planLoad s d) := by
  unfold State.planLoad
  try dsimp only
  repeat' first
    | assumption
    | with_reducible apply State.endEarly_keeps
    | with_reducible apply State.finish_keeps
    | with_reducible apply State.replaceLoad_keeps
    | with_reducible apply State.setPlan_keeps
    | with_reducible refine State.Keeps.foldl (fun hk a => ?_) _ ?_
    | split
    | with_reducible refine State.Keeps.upd ?_ ?_ ?_ ?_ ?_ ?_
    | rfl
    | simp; done

theorem State.buildRun_keeps {q0 s : State} (h : q0.Keeps s) (d : Desc) : q0.Keeps (State.buildRun s d) := by
  unfold State.buildRun
  try dsimp only
  repeat' first
    | assumption
    | with_reducible apply State.noteReads_keeps
    | with_reducible apply State.noteD_keeps
    | with_reducible apply State.modPen_keeps
    | with_reducible refine State.Keeps.foldl (fun hk a => ?_) _ ?_
    | split
    | with_reducible refine State.Keeps.upd ?_ ?_ ?_ ?_ ?_ ?_
    | rfl
    | simp; done

theorem State.setEpochS_keeps {r s : State} (h : r.Keeps s) (v : BitVec 10) : r.Keeps (s.setEpochS v) := by
  unfold State.setEpochS
  split
  · next hv =>
    refine h.cfg' (fun hs => ?_) id (fun _ => rfl) rfl rfl rfl
    simp only [Cfg.inRange, Bool.and_eq_true, decide_eq_true_eq] at hs ⊢
    exact ⟨⟨⟨hs.1.1.1, hv⟩, hs.1.2⟩, hs.2⟩
  · exact State.note_keeps h _ _

theorem State.cutBySoftware_keeps {q0 s : State} (h : q0.Keeps s)  : q0.Keeps (State.cutBySoftware s ) := by
  unfold State.cutBySoftware
  try dsimp only
  repeat' first
    | assumption
    | with_reducible apply State.commit_keeps
    | with_reducible apply State.enterCut_keeps
    | with_reducible apply State.cutNow_keeps
    | with_reducible refine State.Keeps.foldl (fun hk a => ?_) _ ?_
    | split
    | with_reducible refine State.Keeps.upd ?_ ?_ ?_ ?_ ?_ ?_
    | rfl
    | simp; done

theorem State.settleTallies_keeps {q0 s : State} (h : q0.Keeps s)  : q0.Keeps (State.settleTallies s ) := by
  unfold State.settleTallies
  try dsimp only
  repeat' first
    | assumption
    | with_reducible apply State.endEarly_keeps
    | with_reducible refine State.Keeps.foldl (fun hk a => ?_) _ ?_
    | split
    | with_reducible refine State.Keeps.upd ?_ ?_ ?_ ?_ ?_ ?_
    | rfl
    | simp; done

theorem State.warnReturn_keeps {q0 s : State} (h : q0.Keeps s)  : q0.Keeps (State.warnReturn s ) := by
  unfold State.warnReturn
  try dsimp only
  repeat' first
    | assumption
    | with_reducible apply State.putSlot_keeps
    | with_reducible apply State.openEpoch_keeps
    | with_reducible apply State.finishCommit_keeps
    | with_reducible apply State.settleTallies_keeps
    | with_reducible refine State.Keeps.foldl (fun hk a => ?_) _ ?_
    | split
    | with_reducible refine State.Keeps.upd ?_ ?_ ?_ ?_ ?_ ?_
    | rfl
    | simp; done

theorem State.startExport_keeps {q0 s : State} (h : q0.Keeps s)  : q0.Keeps (State.startExport s ) := by
  unfold State.startExport
  try dsimp only
  repeat' first
    | assumption
    | with_reducible apply State.count_keeps
    | with_reducible apply State.note_keeps
    | with_reducible refine State.Keeps.foldl (fun hk a => ?_) _ ?_
    | split
    | with_reducible refine State.Keeps.upd ?_ ?_ ?_ ?_ ?_ ?_
    | rfl
    | simp; done

theorem State.writeTwin_keeps {q0 s : State} (h : q0.Keeps s) (k : Nat) (w : BitVec 32) : q0.Keeps (State.writeTwin s k w) := by
  unfold State.writeTwin
  try dsimp only
  repeat' first
    | assumption
    | with_reducible apply State.note_keeps
    | with_reducible apply State.enable_keeps
    | with_reducible refine State.Keeps.foldl (fun hk a => ?_) _ ?_
    | split
    | with_reducible refine State.Keeps.upd ?_ ?_ ?_ ?_ ?_ ?_
    | rfl
    | simp; done

theorem State.writeNudge_keeps {r s : State} (h : r.Keeps s) (w : BitVec 32) : r.Keeps (s.writeNudge w) := by
  unfold State.writeNudge
  extract_lets n s1
  have h1 : r.Keeps s1 := by
    show r.Keeps (if _ then _ else _)
    split
    · exact State.reload_keeps h _
    · exact h
  split
  · exact State.nudgePen_keeps h _
  · split
    · exact State.crload_keeps h1 _
    · exact h1

theorem State.writePeriod_keeps {r s : State} (h : r.Keeps s) (w : BitVec 32) : r.Keeps (s.writePeriod w) := by
  unfold State.writePeriod
  extract_lets v late
  refine State.Keeps.upd (h.cfg' (c := { s.cfg with period := v }) (fun hs => ?_) id (fun _ => rfl) rfl rfl rfl) rfl rfl rfl rfl rfl
  simp only [Cfg.inRange, Bool.and_eq_true, decide_eq_true_eq] at hs ⊢
  refine ⟨⟨⟨⟨⟨⟨⟨?_, hs.1.1.1.1.1.1.2⟩, hs.1.1.1.1.1.2⟩, hs.1.1.1.1.2⟩, hs.1.1.1.2⟩, hs.1.1.2⟩, hs.1.2⟩, hs.2⟩
  show 0x10000 ≤ BitVec.toNat (if _ then _ else _)
  split
  · decide
  · omega

theorem State.writeTherm_keeps {r s : State} (h : r.Keeps s) (w : BitVec 32) : r.Keeps (s.writeTherm w) :=
  State.Keeps.upd (h.cfg' (c := { s.cfg with forceCap := bit w.toNat 3 }) id id (fun _ => rfl) rfl rfl rfl) rfl rfl rfl rfl rfl

theorem State.writeTally_keeps {q0 s : State} (h : q0.Keeps s) (w : BitVec 32) : q0.Keeps (State.writeTally s w) := by
  unfold State.writeTally
  try dsimp only
  repeat' first
    | assumption
    | with_reducible apply State.setEpochS_keeps
    | with_reducible apply State.cutBySoftware_keeps
    | with_reducible refine State.Keeps.foldl (fun hk a => ?_) _ ?_
    | split
    | with_reducible refine State.Keeps.upd ?_ ?_ ?_ ?_ ?_ ?_
    | rfl
    | simp; done

/-! ### Registers that carry only a number -/

/-- A base address on a multiple of k below 2^48. -/
abbrev baseOk (k : Nat) (a : BitVec 64) : Prop := a.toNat % k = 0 ∧ a.toNat < 2 ^ 48

theorem putWord_low {old : BitVec 64} {w : BitVec 32} {k m : Nat} (h : baseOk k old)
    (hm : (w.toNat &&& m) % k = 0) (hl : m < 2 ^ 32) (hk : 2 ^ 32 % k = 0) : baseOk k (putWord old false w m) := by
  have h2 : w.toNat &&& m < 2 ^ 32 := Nat.lt_of_le_of_lt Nat.and_le_right hl
  have h3 : (putWord old false w m).toNat = (w.toNat &&& m) + old.toNat / 2 ^ 32 * 2 ^ 32 := by
    simp only [putWord, BitVec.toNat_ofNat]
    exact Nat.mod_eq_of_lt (by simp; omega)
  unfold baseOk
  rw [h3]
  exact ⟨by rw [Nat.add_mod, hm, Nat.mul_mod, hk]; simp, by omega⟩

theorem putWord_high {old : BitVec 64} {w : BitVec 32} {k : Nat} (h : baseOk k old) (hk : 2 ^ 32 % k = 0) :
    baseOk k (putWord old true w 0xFFFF) := by
  have h2 : w.toNat &&& 0xFFFF < 2 ^ 16 := Nat.lt_of_le_of_lt Nat.and_le_right (by decide)
  have h3 : (putWord old true w 0xFFFF).toNat = old.toNat % 2 ^ 32 + (w.toNat &&& 0xFFFF) * 2 ^ 32 := by
    simp only [putWord, BitVec.toNat_ofNat]
    exact Nat.mod_eq_of_lt (by simp; omega)
  unfold baseOk
  rw [h3]
  refine ⟨?_, by omega⟩
  have h4 : old.toNat % 2 ^ 32 % k = 0 := by
    rw [Nat.mod_mod_of_dvd _ (Nat.dvd_of_mod_eq_zero hk)]; exact h.1
  rw [Nat.add_mod, h4, Nat.mul_mod, hk]; simp

theorem putWord_page {old : BitVec 64} {w : BitVec 32} (h : baseOk 4096 old) : baseOk 4096 (putWord old false w 0xFFFFF000) :=
  putWord_low h (by rw [show (4096 : Nat) = 2 ^ 12 from rfl, Nat.and_mod_two_pow]; simp) (by decide) (by decide)

theorem putWord_line {old : BitVec 64} {w : BitVec 32} (h : baseOk 64 old) : baseOk 64 (putWord old false w 0xFFFFFFC0) :=
  putWord_low h (by rw [show (64 : Nat) = 2 ^ 6 from rfl, Nat.and_mod_two_pow]; simp) (by decide) (by decide)

/-- A rule for both arms of a choice holds of the choice. -/
theorem ite_both {α : Type} (P : α → Prop) {c : Prop} [Decidable c] {a b : α} (h1 : P a) (h2 : P b) : P (if c then a else b) := by
  split
  · exact h1
  · exact h2

theorem Cfg.writeTmo_inRange {c : Cfg} (h : c.inRange = true) (i : Nat) (w : BitVec 32) : (c.writeTmo i w).inRange = true := by
  have f16 : ∀ n, fld n 0 16 < 65536 := fun n => by unfold fld; omega
  have f12 : ∀ n j, fld n j 12 < 4096 := fun n j => by unfold fld; omega
  have fm : ∀ a b, Nat.max a b = max a b := fun _ _ => rfl
  unfold Cfg.writeTmo
  dsimp only
  split
  · have := f16 w.toNat; have := f12 w.toNat 16
    simp [Cfg.inRange, fm] at h ⊢; omega
  · split
    · have := f12 w.toNat 0
      simp [Cfg.inRange, fm] at h ⊢; omega
    · split <;> exact h

theorem Cfg.writeSetup_inRange {c : Cfg} (h : c.inRange = true) (off : Nat) (w : BitVec 32) : (c.writeSetup off w).inRange = true := by
  simp only [Cfg.inRange, List.all_cons, List.all_nil, Bool.and_eq_true, decide_eq_true_eq] at h
  obtain ⟨⟨⟨⟨⟨⟨⟨h1, h2⟩, h3⟩, h4⟩, h5⟩, h6⟩, h7, h8, h9, -⟩, h10, h11, -⟩ := h
  have mk : ∀ c' : Cfg, c'.period = c.period → c'.snTmo = c.snTmo → c'.neTmo = c.neTmo → c'.nrTmo = c.nrTmo →
      c'.rshare.toNat ≤ 1024 → c'.epochS = c.epochS → baseOk 4096 c'.pentab → baseOk 4096 c'.doorbell → baseOk 4096 c'.cplring →
      c'.ctxBase = c.ctxBase → c'.expAddr = c.expAddr → c'.inRange = true := by
    intro c' a1 a2 a3 a4 a5 a6 a7 a8 a9 a10 a11
    simp only [Cfg.inRange, List.all_cons, List.all_nil, Bool.and_eq_true, decide_eq_true_eq, a1, a2, a3, a4, a6, a10, a11]
    exact ⟨⟨⟨⟨⟨⟨⟨h1, h2⟩, h3⟩, h4⟩, a5⟩, h6⟩, a7, a8, a9, trivial⟩, h10, h11, trivial⟩
  unfold Cfg.writeSetup
  repeat' first
    | with_reducible refine ite_both (fun x : Cfg => x.inRange = true) ?_ ?_
    | with_reducible exact mk _ rfl rfl rfl rfl h5 rfl h7 h8 h9 rfl rfl
    | with_reducible exact mk _ rfl rfl rfl rfl h5 rfl (putWord_page h7) h8 h9 rfl rfl
    | with_reducible exact mk _ rfl rfl rfl rfl h5 rfl (putWord_high h7 (by decide)) h8 h9 rfl rfl
    | with_reducible exact mk _ rfl rfl rfl rfl h5 rfl h7 (putWord_page h8) h9 rfl rfl
    | with_reducible exact mk _ rfl rfl rfl rfl h5 rfl h7 (putWord_high h8 (by decide)) h9 rfl rfl
    | with_reducible exact mk _ rfl rfl rfl rfl h5 rfl h7 h8 (putWord_page h9) rfl rfl
    | with_reducible exact mk _ rfl rfl rfl rfl h5 rfl h7 h8 (putWord_high h9 (by decide)) rfl rfl
    | with_reducible exact mk _ rfl rfl rfl rfl (by rw [BitVec.toNat_ofNat]; exact Nat.le_trans (Nat.mod_le _ _) (Nat.min_le_left _ _)) rfl h7 h8 h9 rfl rfl

theorem Cfg.writePlain_inRange {c : Cfg} (h : c.inRange = true) (off : Nat) (w : BitVec 32) : (c.writePlain off w).inRange = true := by
  have hh := h
  simp only [Cfg.inRange, List.all_cons, List.all_nil, Bool.and_eq_true, decide_eq_true_eq] at h
  obtain ⟨⟨⟨⟨⟨⟨⟨h1, h2⟩, h3⟩, h4⟩, h5⟩, h6⟩, h7, h8, h9, -⟩, h10, h11, -⟩ := h
  have mk : ∀ c' : Cfg, c'.period = c.period → c'.snTmo = c.snTmo → c'.neTmo = c.neTmo → c'.nrTmo = c.nrTmo →
      c'.rshare = c.rshare → c'.epochS = c.epochS → c'.pentab = c.pentab → c'.doorbell = c.doorbell → c'.cplring = c.cplring →
      baseOk 64 c'.ctxBase → baseOk 64 c'.expAddr → c'.inRange = true := by
    intro c' a1 a2 a3 a4 a5 a6 a7 a8 a9 a10 a11
    simp only [Cfg.inRange, List.all_cons, List.all_nil, Bool.and_eq_true, decide_eq_true_eq, a1, a2, a3, a4, a5, a6, a7, a8, a9]
    exact ⟨⟨⟨⟨⟨⟨⟨h1, h2⟩, h3⟩, h4⟩, h5⟩, h6⟩, h7, h8, h9, trivial⟩, a10, a11, trivial⟩
  unfold Cfg.writePlain
  dsimp only
  repeat' first
    | with_reducible refine ite_both (fun x : Cfg => x.inRange = true) ?_ ?_
    | with_reducible exact Cfg.writeTmo_inRange hh _ _
    | with_reducible exact mk _ rfl rfl rfl rfl rfl rfl rfl rfl rfl h10 h11
    | with_reducible exact mk _ rfl rfl rfl rfl rfl rfl rfl rfl rfl (putWord_line h10) h11
    | with_reducible exact mk _ rfl rfl rfl rfl rfl rfl rfl rfl rfl (putWord_high h10 (by decide)) h11
    | with_reducible exact mk _ rfl rfl rfl rfl rfl rfl rfl rfl rfl h10 (putWord_line h11)
    | with_reducible exact mk _ rfl rfl rfl rfl rfl rfl rfl rfl rfl h10 (putWord_high h11 (by decide))

/-- What a write of a register that carries only a number leaves. -/
def Cfg.plainKept (c d : Cfg) : Prop :=
  d.enable = c.enable ∧ d.setup = c.setup ∧ d.dl.length = c.dl.length ∧ d.msgAddr.length = c.msgAddr.length ∧
    d.msgData.length = c.msgData.length

theorem Cfg.writePlain_rest (c : Cfg) (off : Nat) (w : BitVec 32) : c.plainKept (c.writePlain off w) := by
  unfold Cfg.writePlain Cfg.writeTmo
  dsimp only
  repeat' first
    | with_reducible refine ite_both (fun x : Cfg => c.plainKept x) ?_ ?_
    | simp only [Cfg.plainKept, Cfg.setup, length_setNth, and_self]

/-- What a write of a set-up register leaves. -/
def Cfg.setupKept (c d : Cfg) : Prop :=
  d.enable = c.enable ∧ d.dl.length = c.dl.length ∧ d.msgAddr.length = c.msgAddr.length ∧ d.msgData.length = c.msgData.length

theorem Cfg.writeSetup_rest (c : Cfg) (off : Nat) (w : BitVec 32) : c.setupKept (c.writeSetup off w) := by
  unfold Cfg.writeSetup
  repeat' first
    | with_reducible refine ite_both (fun x : Cfg => c.setupKept x) ?_ ?_
    | simp only [Cfg.setupKept, and_self]

theorem State.setupWrite_keeps {r s : State} (h : r.Keeps s) (off : Nat) (w : BitVec 32) :
    r.Keeps (if s.cfg.enable then s else { s with cfg := s.cfg.writeSetup off w }) := by
  split
  · exact h
  · next he =>
    have k := Cfg.writeSetup_rest s.cfg off w
    exact h.cfg' (fun x => Cfg.writeSetup_inRange x off w) (fun x => k.1.trans x) (fun x => absurd x he) k.2.1 k.2.2.1 k.2.2.2

theorem State.plainWrite_keeps {r s : State} (h : r.Keeps s) (off : Nat) (w : BitVec 32) :
    r.Keeps ({ s with cfg := s.cfg.writePlain off w } : State) := by
  have k := Cfg.writePlain_rest s.cfg off w
  exact h.cfg' (fun x => Cfg.writePlain_inRange x off w) (fun x => k.1.trans x) (fun _ => k.2.1) k.2.2.1 k.2.2.2.1 k.2.2.2.2

theorem State.writeReg_keeps {r s : State} (h : r.Keeps s) (off : Nat) (w : BitVec 32) : r.Keeps (s.writeReg off w) := by
  unfold State.writeReg
  repeat' first
    | with_reducible exact h
    | with_reducible apply State.nudgeMap_keeps
    | with_reducible apply State.writeCfg_keeps
    | with_reducible apply State.xresume_keeps
    | with_reducible apply State.setMask_keeps
    | with_reducible apply State.writePause_keeps
    | with_reducible apply State.startExport_keeps
    | with_reducible apply State.writeTwin_keeps
    | with_reducible apply State.writeNudge_keeps
    | with_reducible apply State.writePeriod_keeps
    | with_reducible apply State.writeTherm_keeps
    | with_reducible apply State.writeTally_keeps
    | with_reducible exact State.plainWrite_keeps h off w
    | with_reducible exact State.setupWrite_keeps h off w
    | with_reducible refine ite_both (fun x : State => r.Keeps x) ?_ ?_

end Sys2Proof.Machine
end

