-- ==== Sys2Proof/Laws/State.lean ====
section
/-!
SUPPORT. What the named updates of the state leave alone, field by field, so that no proof unfolds a record update: one lemma
for each update, which `simp` reads as one equation for each field; and what a read of a descriptor, a fold, a pen, a ring or a
plan gives after an update.
-/
namespace Sys2Proof.Machine

variable (s : State)

@[simp] theorem State.setFold_fields (p : Nat) (v : Fold) :
    (s.setFold p v).pending = s.pending ∧ (s.setFold p v).fuses = s.fuses ∧ (s.setFold p v).pins = s.pins ∧
    (s.setFold p v).tick = s.tick ∧ (s.setFold p v).boot = s.boot ∧ (s.setFold p v).ready = s.ready ∧
    (s.setFold p v).cfg = s.cfg ∧ (s.setFold p v).fatalReg = s.fatalReg ∧ (s.setFold p v).fmap = s.fmap ∧
    (s.setFold p v).nudges = s.nudges ∧ (s.setFold p v).pause = s.pause ∧ (s.setFold p v).twins = s.twins ∧
    (s.setFold p v).period = s.period ∧ (s.setFold p v).gate = s.gate ∧ (s.setFold p v).therm = s.therm ∧
    (s.setFold p v).cost = s.cost ∧ (s.setFold p v).cnt = s.cnt ∧ (s.setFold p v).intPend = s.intPend ∧
    (s.setFold p v).host = s.host ∧ (s.setFold p v).poison = s.poison ∧ (s.setFold p v).past = s.past ∧
    (s.setFold p v).raddle = s.raddle ∧ (s.setFold p v).ecc = s.ecc ∧ (s.setFold p v).handed = s.handed ∧
    (s.setFold p v).sram = s.sram ∧ (s.setFold p v).pens = s.pens ∧ (s.setFold p v).stile = s.stile ∧
    (s.setFold p v).descs = s.descs ∧ (s.setFold p v).hor = s.hor ∧ (s.setFold p v).plans = s.plans ∧
    (s.setFold p v).rings = s.rings ∧ (s.setFold p v).evt = s.evt ∧ (s.setFold p v).msgs = s.msgs ∧
    (s.setFold p v).logs = s.logs ∧ (s.setFold p v).own = s.own ∧ (s.setFold p v).ports = s.ports ∧
    (s.setFold p v).snOut = s.snOut ∧ (s.setFold p v).neOut = s.neOut ∧ (s.setFold p v).waiting = s.waiting ∧
    (s.setFold p v).xfers = s.xfers ∧ (s.setFold p v).mram = s.mram ∧ (s.setFold p v).tally = s.tally ∧
    (s.setFold p v).freeCtr = s.freeCtr ∧ (s.setFold p v).debugOut = s.debugOut ∧ (s.setFold p v).nextDid = s.nextDid ∧
    (s.setFold p v).nextKey = s.nextKey := by
  and_intros <;> rfl

@[simp] theorem State.modFold_fields (p : Nat) (f : Fold → Fold) :
    (s.modFold p f).pending = s.pending ∧ (s.modFold p f).fuses = s.fuses ∧ (s.modFold p f).pins = s.pins ∧
    (s.modFold p f).tick = s.tick ∧ (s.modFold p f).boot = s.boot ∧ (s.modFold p f).ready = s.ready ∧
    (s.modFold p f).cfg = s.cfg ∧ (s.modFold p f).fatalReg = s.fatalReg ∧ (s.modFold p f).fmap = s.fmap ∧
    (s.modFold p f).nudges = s.nudges ∧ (s.modFold p f).pause = s.pause ∧ (s.modFold p f).twins = s.twins ∧
    (s.modFold p f).period = s.period ∧ (s.modFold p f).gate = s.gate ∧ (s.modFold p f).therm = s.therm ∧
    (s.modFold p f).cost = s.cost ∧ (s.modFold p f).cnt = s.cnt ∧ (s.modFold p f).intPend = s.intPend ∧
    (s.modFold p f).host = s.host ∧ (s.modFold p f).poison = s.poison ∧ (s.modFold p f).past = s.past ∧
    (s.modFold p f).raddle = s.raddle ∧ (s.modFold p f).ecc = s.ecc ∧ (s.modFold p f).handed = s.handed ∧
    (s.modFold p f).sram = s.sram ∧ (s.modFold p f).pens = s.pens ∧ (s.modFold p f).stile = s.stile ∧
    (s.modFold p f).descs = s.descs ∧ (s.modFold p f).hor = s.hor ∧ (s.modFold p f).plans = s.plans ∧
    (s.modFold p f).rings = s.rings ∧ (s.modFold p f).evt = s.evt ∧ (s.modFold p f).msgs = s.msgs ∧
    (s.modFold p f).logs = s.logs ∧ (s.modFold p f).own = s.own ∧ (s.modFold p f).ports = s.ports ∧
    (s.modFold p f).snOut = s.snOut ∧ (s.modFold p f).neOut = s.neOut ∧ (s.modFold p f).waiting = s.waiting ∧
    (s.modFold p f).xfers = s.xfers ∧ (s.modFold p f).mram = s.mram ∧ (s.modFold p f).tally = s.tally ∧
    (s.modFold p f).freeCtr = s.freeCtr ∧ (s.modFold p f).debugOut = s.debugOut ∧ (s.modFold p f).nextDid = s.nextDid ∧
    (s.modFold p f).nextKey = s.nextKey := by
  and_intros <;> rfl

@[simp] theorem State.count_fields (i n : Nat) :
    (s.count i n).pending = s.pending ∧ (s.count i n).fuses = s.fuses ∧ (s.count i n).pins = s.pins ∧
    (s.count i n).tick = s.tick ∧ (s.count i n).boot = s.boot ∧ (s.count i n).ready = s.ready ∧ (s.count i n).cfg = s.cfg ∧
    (s.count i n).fatalReg = s.fatalReg ∧ (s.count i n).fmap = s.fmap ∧ (s.count i n).nudges = s.nudges ∧
    (s.count i n).pause = s.pause ∧ (s.count i n).twins = s.twins ∧ (s.count i n).period = s.period ∧
    (s.count i n).gate = s.gate ∧ (s.count i n).therm = s.therm ∧ (s.count i n).cost = s.cost ∧
    (s.count i n).intPend = s.intPend ∧ (s.count i n).host = s.host ∧ (s.count i n).poison = s.poison ∧
    (s.count i n).past = s.past ∧ (s.count i n).raddle = s.raddle ∧ (s.count i n).ecc = s.ecc ∧
    (s.count i n).handed = s.handed ∧ (s.count i n).sram = s.sram ∧ (s.count i n).folds = s.folds ∧
    (s.count i n).pens = s.pens ∧ (s.count i n).stile = s.stile ∧ (s.count i n).descs = s.descs ∧
    (s.count i n).hor = s.hor ∧ (s.count i n).plans = s.plans ∧ (s.count i n).rings = s.rings ∧ (s.count i n).evt = s.evt ∧
    (s.count i n).msgs = s.msgs ∧ (s.count i n).logs = s.logs ∧ (s.count i n).own = s.own ∧ (s.count i n).ports = s.ports ∧
    (s.count i n).snOut = s.snOut ∧ (s.count i n).neOut = s.neOut ∧ (s.count i n).waiting = s.waiting ∧
    (s.count i n).xfers = s.xfers ∧ (s.count i n).mram = s.mram ∧ (s.count i n).tally = s.tally ∧
    (s.count i n).freeCtr = s.freeCtr ∧ (s.count i n).debugOut = s.debugOut ∧ (s.count i n).nextDid = s.nextDid ∧
    (s.count i n).nextKey = s.nextKey := by
  and_intros <;> rfl

@[simp] theorem State.modDesc_fields (i : Nat) (f : Desc → Desc) :
    (s.modDesc i f).pending = s.pending ∧ (s.modDesc i f).fuses = s.fuses ∧ (s.modDesc i f).pins = s.pins ∧
    (s.modDesc i f).tick = s.tick ∧ (s.modDesc i f).boot = s.boot ∧ (s.modDesc i f).ready = s.ready ∧
    (s.modDesc i f).cfg = s.cfg ∧ (s.modDesc i f).fatalReg = s.fatalReg ∧ (s.modDesc i f).fmap = s.fmap ∧
    (s.modDesc i f).nudges = s.nudges ∧ (s.modDesc i f).pause = s.pause ∧ (s.modDesc i f).twins = s.twins ∧
    (s.modDesc i f).period = s.period ∧ (s.modDesc i f).gate = s.gate ∧ (s.modDesc i f).therm = s.therm ∧
    (s.modDesc i f).cost = s.cost ∧ (s.modDesc i f).cnt = s.cnt ∧ (s.modDesc i f).intPend = s.intPend ∧
    (s.modDesc i f).host = s.host ∧ (s.modDesc i f).poison = s.poison ∧ (s.modDesc i f).past = s.past ∧
    (s.modDesc i f).raddle = s.raddle ∧ (s.modDesc i f).ecc = s.ecc ∧ (s.modDesc i f).handed = s.handed ∧
    (s.modDesc i f).sram = s.sram ∧ (s.modDesc i f).folds = s.folds ∧ (s.modDesc i f).pens = s.pens ∧
    (s.modDesc i f).stile = s.stile ∧ (s.modDesc i f).hor = s.hor ∧ (s.modDesc i f).plans = s.plans ∧
    (s.modDesc i f).rings = s.rings ∧ (s.modDesc i f).evt = s.evt ∧ (s.modDesc i f).msgs = s.msgs ∧
    (s.modDesc i f).logs = s.logs ∧ (s.modDesc i f).own = s.own ∧ (s.modDesc i f).ports = s.ports ∧
    (s.modDesc i f).snOut = s.snOut ∧ (s.modDesc i f).neOut = s.neOut ∧ (s.modDesc i f).waiting = s.waiting ∧
    (s.modDesc i f).xfers = s.xfers ∧ (s.modDesc i f).mram = s.mram ∧ (s.modDesc i f).tally = s.tally ∧
    (s.modDesc i f).freeCtr = s.freeCtr ∧ (s.modDesc i f).debugOut = s.debugOut ∧ (s.modDesc i f).nextDid = s.nextDid ∧
    (s.modDesc i f).nextKey = s.nextKey := by
  and_intros <;> rfl

@[simp] theorem State.dropDesc_fields (i : Nat) :
    (s.dropDesc i).pending = s.pending ∧ (s.dropDesc i).fuses = s.fuses ∧ (s.dropDesc i).pins = s.pins ∧
    (s.dropDesc i).tick = s.tick ∧ (s.dropDesc i).boot = s.boot ∧ (s.dropDesc i).ready = s.ready ∧
    (s.dropDesc i).cfg = s.cfg ∧ (s.dropDesc i).fatalReg = s.fatalReg ∧ (s.dropDesc i).fmap = s.fmap ∧
    (s.dropDesc i).nudges = s.nudges ∧ (s.dropDesc i).pause = s.pause ∧ (s.dropDesc i).twins = s.twins ∧
    (s.dropDesc i).period = s.period ∧ (s.dropDesc i).gate = s.gate ∧ (s.dropDesc i).therm = s.therm ∧
    (s.dropDesc i).cost = s.cost ∧ (s.dropDesc i).cnt = s.cnt ∧ (s.dropDesc i).intPend = s.intPend ∧
    (s.dropDesc i).host = s.host ∧ (s.dropDesc i).poison = s.poison ∧ (s.dropDesc i).past = s.past ∧
    (s.dropDesc i).raddle = s.raddle ∧ (s.dropDesc i).ecc = s.ecc ∧ (s.dropDesc i).handed = s.handed ∧
    (s.dropDesc i).sram = s.sram ∧ (s.dropDesc i).folds = s.folds ∧ (s.dropDesc i).pens = s.pens ∧
    (s.dropDesc i).stile = s.stile ∧ (s.dropDesc i).hor = s.hor ∧ (s.dropDesc i).plans = s.plans ∧
    (s.dropDesc i).rings = s.rings ∧ (s.dropDesc i).evt = s.evt ∧ (s.dropDesc i).msgs = s.msgs ∧
    (s.dropDesc i).logs = s.logs ∧ (s.dropDesc i).own = s.own ∧ (s.dropDesc i).ports = s.ports ∧
    (s.dropDesc i).snOut = s.snOut ∧ (s.dropDesc i).neOut = s.neOut ∧ (s.dropDesc i).waiting = s.waiting ∧
    (s.dropDesc i).xfers = s.xfers ∧ (s.dropDesc i).mram = s.mram ∧ (s.dropDesc i).tally = s.tally ∧
    (s.dropDesc i).freeCtr = s.freeCtr ∧ (s.dropDesc i).debugOut = s.debugOut ∧ (s.dropDesc i).nextDid = s.nextDid ∧
    (s.dropDesc i).nextKey = s.nextKey := by
  and_intros <;> rfl

@[simp] theorem State.voidBound_fields (i : Nat) :
    (s.voidBound i).pending = s.pending ∧ (s.voidBound i).fuses = s.fuses ∧ (s.voidBound i).pins = s.pins ∧
    (s.voidBound i).tick = s.tick ∧ (s.voidBound i).boot = s.boot ∧ (s.voidBound i).ready = s.ready ∧
    (s.voidBound i).cfg = s.cfg ∧ (s.voidBound i).fatalReg = s.fatalReg ∧ (s.voidBound i).fmap = s.fmap ∧
    (s.voidBound i).nudges = s.nudges ∧ (s.voidBound i).pause = s.pause ∧ (s.voidBound i).twins = s.twins ∧
    (s.voidBound i).period = s.period ∧ (s.voidBound i).gate = s.gate ∧ (s.voidBound i).therm = s.therm ∧
    (s.voidBound i).cost = s.cost ∧ (s.voidBound i).cnt = s.cnt ∧ (s.voidBound i).intPend = s.intPend ∧
    (s.voidBound i).host = s.host ∧ (s.voidBound i).poison = s.poison ∧ (s.voidBound i).past = s.past ∧
    (s.voidBound i).raddle = s.raddle ∧ (s.voidBound i).ecc = s.ecc ∧ (s.voidBound i).handed = s.handed ∧
    (s.voidBound i).sram = s.sram ∧ (s.voidBound i).folds = s.folds ∧ (s.voidBound i).pens = s.pens ∧
    (s.voidBound i).stile = s.stile ∧ (s.voidBound i).hor = s.hor ∧ (s.voidBound i).plans = s.plans ∧
    (s.voidBound i).rings = s.rings ∧ (s.voidBound i).evt = s.evt ∧ (s.voidBound i).msgs = s.msgs ∧
    (s.voidBound i).logs = s.logs ∧ (s.voidBound i).own = s.own ∧ (s.voidBound i).ports = s.ports ∧
    (s.voidBound i).snOut = s.snOut ∧ (s.voidBound i).neOut = s.neOut ∧ (s.voidBound i).waiting = s.waiting ∧
    (s.voidBound i).xfers = s.xfers ∧ (s.voidBound i).mram = s.mram ∧ (s.voidBound i).tally = s.tally ∧
    (s.voidBound i).freeCtr = s.freeCtr ∧ (s.voidBound i).debugOut = s.debugOut ∧ (s.voidBound i).nextDid = s.nextDid ∧
    (s.voidBound i).nextKey = s.nextKey := by
  and_intros <;> rfl

@[simp] theorem State.voidBehind_fields (st : Nat) (fs : List Nat) (all : Bool) :
    (s.voidBehind st fs all).pending = s.pending ∧ (s.voidBehind st fs all).fuses = s.fuses ∧
    (s.voidBehind st fs all).pins = s.pins ∧ (s.voidBehind st fs all).tick = s.tick ∧
    (s.voidBehind st fs all).boot = s.boot ∧ (s.voidBehind st fs all).ready = s.ready ∧
    (s.voidBehind st fs all).cfg = s.cfg ∧ (s.voidBehind st fs all).fatalReg = s.fatalReg ∧
    (s.voidBehind st fs all).fmap = s.fmap ∧ (s.voidBehind st fs all).nudges = s.nudges ∧
    (s.voidBehind st fs all).pause = s.pause ∧ (s.voidBehind st fs all).twins = s.twins ∧
    (s.voidBehind st fs all).period = s.period ∧ (s.voidBehind st fs all).gate = s.gate ∧
    (s.voidBehind st fs all).therm = s.therm ∧ (s.voidBehind st fs all).cost = s.cost ∧
    (s.voidBehind st fs all).cnt = s.cnt ∧ (s.voidBehind st fs all).intPend = s.intPend ∧
    (s.voidBehind st fs all).host = s.host ∧ (s.voidBehind st fs all).poison = s.poison ∧
    (s.voidBehind st fs all).past = s.past ∧ (s.voidBehind st fs all).raddle = s.raddle ∧
    (s.voidBehind st fs all).ecc = s.ecc ∧ (s.voidBehind st fs all).handed = s.handed ∧
    (s.voidBehind st fs all).sram = s.sram ∧ (s.voidBehind st fs all).folds = s.folds ∧
    (s.voidBehind st fs all).pens = s.pens ∧ (s.voidBehind st fs all).stile = s.stile ∧
    (s.voidBehind st fs all).hor = s.hor ∧ (s.voidBehind st fs all).plans = s.plans ∧
    (s.voidBehind st fs all).rings = s.rings ∧ (s.voidBehind st fs all).evt = s.evt ∧
    (s.voidBehind st fs all).msgs = s.msgs ∧ (s.voidBehind st fs all).logs = s.logs ∧ (s.voidBehind st fs all).own = s.own ∧
    (s.voidBehind st fs all).ports = s.ports ∧ (s.voidBehind st fs all).snOut = s.snOut ∧
    (s.voidBehind st fs all).neOut = s.neOut ∧ (s.voidBehind st fs all).waiting = s.waiting ∧
    (s.voidBehind st fs all).xfers = s.xfers ∧ (s.voidBehind st fs all).mram = s.mram ∧
    (s.voidBehind st fs all).tally = s.tally ∧ (s.voidBehind st fs all).freeCtr = s.freeCtr ∧
    (s.voidBehind st fs all).debugOut = s.debugOut ∧ (s.voidBehind st fs all).nextDid = s.nextDid ∧
    (s.voidBehind st fs all).nextKey = s.nextKey := by
  and_intros <;> rfl

@[simp] theorem State.voidAll_fields :
    (s.voidAll).pending = s.pending ∧ (s.voidAll).fuses = s.fuses ∧ (s.voidAll).pins = s.pins ∧ (s.voidAll).tick = s.tick ∧
    (s.voidAll).boot = s.boot ∧ (s.voidAll).ready = s.ready ∧ (s.voidAll).cfg = s.cfg ∧ (s.voidAll).fatalReg = s.fatalReg ∧
    (s.voidAll).fmap = s.fmap ∧ (s.voidAll).nudges = s.nudges ∧ (s.voidAll).pause = s.pause ∧ (s.voidAll).twins = s.twins ∧
    (s.voidAll).period = s.period ∧ (s.voidAll).gate = s.gate ∧ (s.voidAll).therm = s.therm ∧ (s.voidAll).cost = s.cost ∧
    (s.voidAll).cnt = s.cnt ∧ (s.voidAll).intPend = s.intPend ∧ (s.voidAll).host = s.host ∧ (s.voidAll).poison = s.poison ∧
    (s.voidAll).past = s.past ∧ (s.voidAll).raddle = s.raddle ∧ (s.voidAll).ecc = s.ecc ∧ (s.voidAll).handed = s.handed ∧
    (s.voidAll).sram = s.sram ∧ (s.voidAll).folds = s.folds ∧ (s.voidAll).pens = s.pens ∧ (s.voidAll).stile = s.stile ∧
    (s.voidAll).hor = s.hor ∧ (s.voidAll).plans = s.plans ∧ (s.voidAll).rings = s.rings ∧ (s.voidAll).evt = s.evt ∧
    (s.voidAll).msgs = s.msgs ∧ (s.voidAll).logs = s.logs ∧ (s.voidAll).own = s.own ∧ (s.voidAll).ports = s.ports ∧
    (s.voidAll).snOut = s.snOut ∧ (s.voidAll).neOut = s.neOut ∧ (s.voidAll).waiting = s.waiting ∧
    (s.voidAll).xfers = s.xfers ∧ (s.voidAll).mram = s.mram ∧ (s.voidAll).tally = s.tally ∧
    (s.voidAll).freeCtr = s.freeCtr ∧ (s.voidAll).debugOut = s.debugOut ∧ (s.voidAll).nextDid = s.nextDid ∧
    (s.voidAll).nextKey = s.nextKey := by
  and_intros <;> rfl

@[simp] theorem State.voidWaiters_fields (i : Nat) :
    (s.voidWaiters i).pending = s.pending ∧ (s.voidWaiters i).fuses = s.fuses ∧ (s.voidWaiters i).pins = s.pins ∧
    (s.voidWaiters i).tick = s.tick ∧ (s.voidWaiters i).boot = s.boot ∧ (s.voidWaiters i).ready = s.ready ∧
    (s.voidWaiters i).cfg = s.cfg ∧ (s.voidWaiters i).fatalReg = s.fatalReg ∧ (s.voidWaiters i).fmap = s.fmap ∧
    (s.voidWaiters i).nudges = s.nudges ∧ (s.voidWaiters i).pause = s.pause ∧ (s.voidWaiters i).twins = s.twins ∧
    (s.voidWaiters i).period = s.period ∧ (s.voidWaiters i).gate = s.gate ∧ (s.voidWaiters i).therm = s.therm ∧
    (s.voidWaiters i).cost = s.cost ∧ (s.voidWaiters i).cnt = s.cnt ∧ (s.voidWaiters i).intPend = s.intPend ∧
    (s.voidWaiters i).host = s.host ∧ (s.voidWaiters i).poison = s.poison ∧ (s.voidWaiters i).past = s.past ∧
    (s.voidWaiters i).raddle = s.raddle ∧ (s.voidWaiters i).ecc = s.ecc ∧ (s.voidWaiters i).handed = s.handed ∧
    (s.voidWaiters i).sram = s.sram ∧ (s.voidWaiters i).folds = s.folds ∧ (s.voidWaiters i).pens = s.pens ∧
    (s.voidWaiters i).stile = s.stile ∧ (s.voidWaiters i).hor = s.hor ∧ (s.voidWaiters i).plans = s.plans ∧
    (s.voidWaiters i).rings = s.rings ∧ (s.voidWaiters i).evt = s.evt ∧ (s.voidWaiters i).msgs = s.msgs ∧
    (s.voidWaiters i).logs = s.logs ∧ (s.voidWaiters i).own = s.own ∧ (s.voidWaiters i).ports = s.ports ∧
    (s.voidWaiters i).snOut = s.snOut ∧ (s.voidWaiters i).neOut = s.neOut ∧ (s.voidWaiters i).waiting = s.waiting ∧
    (s.voidWaiters i).xfers = s.xfers ∧ (s.voidWaiters i).mram = s.mram ∧ (s.voidWaiters i).tally = s.tally ∧
    (s.voidWaiters i).freeCtr = s.freeCtr ∧ (s.voidWaiters i).debugOut = s.debugOut ∧
    (s.voidWaiters i).nextDid = s.nextDid ∧ (s.voidWaiters i).nextKey = s.nextKey := by
  and_intros <;> rfl

@[simp] theorem State.voidFold_fields (f : Nat) :
    (s.voidFold f).pending = s.pending ∧ (s.voidFold f).fuses = s.fuses ∧ (s.voidFold f).pins = s.pins ∧
    (s.voidFold f).tick = s.tick ∧ (s.voidFold f).boot = s.boot ∧ (s.voidFold f).ready = s.ready ∧
    (s.voidFold f).cfg = s.cfg ∧ (s.voidFold f).fatalReg = s.fatalReg ∧ (s.voidFold f).fmap = s.fmap ∧
    (s.voidFold f).nudges = s.nudges ∧ (s.voidFold f).pause = s.pause ∧ (s.voidFold f).twins = s.twins ∧
    (s.voidFold f).period = s.period ∧ (s.voidFold f).gate = s.gate ∧ (s.voidFold f).therm = s.therm ∧
    (s.voidFold f).cost = s.cost ∧ (s.voidFold f).cnt = s.cnt ∧ (s.voidFold f).intPend = s.intPend ∧
    (s.voidFold f).host = s.host ∧ (s.voidFold f).poison = s.poison ∧ (s.voidFold f).past = s.past ∧
    (s.voidFold f).raddle = s.raddle ∧ (s.voidFold f).ecc = s.ecc ∧ (s.voidFold f).handed = s.handed ∧
    (s.voidFold f).sram = s.sram ∧ (s.voidFold f).folds = s.folds ∧ (s.voidFold f).pens = s.pens ∧
    (s.voidFold f).stile = s.stile ∧ (s.voidFold f).hor = s.hor ∧ (s.voidFold f).plans = s.plans ∧
    (s.voidFold f).rings = s.rings ∧ (s.voidFold f).evt = s.evt ∧ (s.voidFold f).msgs = s.msgs ∧
    (s.voidFold f).logs = s.logs ∧ (s.voidFold f).own = s.own ∧ (s.voidFold f).ports = s.ports ∧
    (s.voidFold f).snOut = s.snOut ∧ (s.voidFold f).neOut = s.neOut ∧ (s.voidFold f).waiting = s.waiting ∧
    (s.voidFold f).xfers = s.xfers ∧ (s.voidFold f).mram = s.mram ∧ (s.voidFold f).tally = s.tally ∧
    (s.voidFold f).freeCtr = s.freeCtr ∧ (s.voidFold f).debugOut = s.debugOut ∧ (s.voidFold f).nextDid = s.nextDid ∧
    (s.voidFold f).nextKey = s.nextKey := by
  and_intros <;> rfl

@[simp] theorem State.refuse_fields (i : Nat) (st : Status) :
    (s.refuse i st).pending = s.pending ∧ (s.refuse i st).fuses = s.fuses ∧ (s.refuse i st).pins = s.pins ∧
    (s.refuse i st).tick = s.tick ∧ (s.refuse i st).boot = s.boot ∧ (s.refuse i st).ready = s.ready ∧
    (s.refuse i st).cfg = s.cfg ∧ (s.refuse i st).fatalReg = s.fatalReg ∧ (s.refuse i st).fmap = s.fmap ∧
    (s.refuse i st).nudges = s.nudges ∧ (s.refuse i st).pause = s.pause ∧ (s.refuse i st).twins = s.twins ∧
    (s.refuse i st).period = s.period ∧ (s.refuse i st).gate = s.gate ∧ (s.refuse i st).therm = s.therm ∧
    (s.refuse i st).cost = s.cost ∧ (s.refuse i st).cnt = s.cnt ∧ (s.refuse i st).intPend = s.intPend ∧
    (s.refuse i st).host = s.host ∧ (s.refuse i st).poison = s.poison ∧ (s.refuse i st).past = s.past ∧
    (s.refuse i st).raddle = s.raddle ∧ (s.refuse i st).ecc = s.ecc ∧ (s.refuse i st).handed = s.handed ∧
    (s.refuse i st).sram = s.sram ∧ (s.refuse i st).folds = s.folds ∧ (s.refuse i st).pens = s.pens ∧
    (s.refuse i st).stile = s.stile ∧ (s.refuse i st).hor = s.hor ∧ (s.refuse i st).plans = s.plans ∧
    (s.refuse i st).rings = s.rings ∧ (s.refuse i st).evt = s.evt ∧ (s.refuse i st).msgs = s.msgs ∧
    (s.refuse i st).logs = s.logs ∧ (s.refuse i st).own = s.own ∧ (s.refuse i st).ports = s.ports ∧
    (s.refuse i st).snOut = s.snOut ∧ (s.refuse i st).neOut = s.neOut ∧ (s.refuse i st).waiting = s.waiting ∧
    (s.refuse i st).xfers = s.xfers ∧ (s.refuse i st).mram = s.mram ∧ (s.refuse i st).tally = s.tally ∧
    (s.refuse i st).freeCtr = s.freeCtr ∧ (s.refuse i st).debugOut = s.debugOut ∧ (s.refuse i st).nextDid = s.nextDid ∧
    (s.refuse i st).nextKey = s.nextKey := by
  and_intros <;> rfl

@[simp] theorem State.emit_fields (r : SnReq) :
    (s.emit r).pending = s.pending ∧ (s.emit r).fuses = s.fuses ∧ (s.emit r).pins = s.pins ∧ (s.emit r).tick = s.tick ∧
    (s.emit r).boot = s.boot ∧ (s.emit r).ready = s.ready ∧ (s.emit r).cfg = s.cfg ∧ (s.emit r).fatalReg = s.fatalReg ∧
    (s.emit r).fmap = s.fmap ∧ (s.emit r).nudges = s.nudges ∧ (s.emit r).pause = s.pause ∧ (s.emit r).twins = s.twins ∧
    (s.emit r).period = s.period ∧ (s.emit r).gate = s.gate ∧ (s.emit r).therm = s.therm ∧ (s.emit r).cost = s.cost ∧
    (s.emit r).cnt = s.cnt ∧ (s.emit r).intPend = s.intPend ∧ (s.emit r).host = s.host ∧ (s.emit r).poison = s.poison ∧
    (s.emit r).past = s.past ∧ (s.emit r).raddle = s.raddle ∧ (s.emit r).ecc = s.ecc ∧ (s.emit r).handed = s.handed ∧
    (s.emit r).sram = s.sram ∧ (s.emit r).folds = s.folds ∧ (s.emit r).pens = s.pens ∧ (s.emit r).stile = s.stile ∧
    (s.emit r).descs = s.descs ∧ (s.emit r).hor = s.hor ∧ (s.emit r).plans = s.plans ∧ (s.emit r).rings = s.rings ∧
    (s.emit r).evt = s.evt ∧ (s.emit r).msgs = s.msgs ∧ (s.emit r).logs = s.logs ∧ (s.emit r).own = s.own ∧
    (s.emit r).neOut = s.neOut ∧ (s.emit r).waiting = s.waiting ∧ (s.emit r).xfers = s.xfers ∧ (s.emit r).mram = s.mram ∧
    (s.emit r).tally = s.tally ∧ (s.emit r).freeCtr = s.freeCtr ∧ (s.emit r).debugOut = s.debugOut ∧
    (s.emit r).nextDid = s.nextDid ∧ (s.emit r).nextKey = s.nextKey := by
  and_intros <;> rfl

@[simp] theorem State.issueTxn_fields (owner : Owner) (unit : Nat) (r : SnReq) :
    (s.issueTxn owner unit r).pending = s.pending ∧ (s.issueTxn owner unit r).fuses = s.fuses ∧
    (s.issueTxn owner unit r).pins = s.pins ∧ (s.issueTxn owner unit r).tick = s.tick ∧
    (s.issueTxn owner unit r).boot = s.boot ∧ (s.issueTxn owner unit r).ready = s.ready ∧
    (s.issueTxn owner unit r).cfg = s.cfg ∧ (s.issueTxn owner unit r).fatalReg = s.fatalReg ∧
    (s.issueTxn owner unit r).fmap = s.fmap ∧ (s.issueTxn owner unit r).nudges = s.nudges ∧
    (s.issueTxn owner unit r).pause = s.pause ∧ (s.issueTxn owner unit r).twins = s.twins ∧
    (s.issueTxn owner unit r).period = s.period ∧ (s.issueTxn owner unit r).gate = s.gate ∧
    (s.issueTxn owner unit r).therm = s.therm ∧ (s.issueTxn owner unit r).cost = s.cost ∧
    (s.issueTxn owner unit r).cnt = s.cnt ∧ (s.issueTxn owner unit r).intPend = s.intPend ∧
    (s.issueTxn owner unit r).host = s.host ∧ (s.issueTxn owner unit r).poison = s.poison ∧
    (s.issueTxn owner unit r).past = s.past ∧ (s.issueTxn owner unit r).raddle = s.raddle ∧
    (s.issueTxn owner unit r).ecc = s.ecc ∧ (s.issueTxn owner unit r).handed = s.handed ∧
    (s.issueTxn owner unit r).sram = s.sram ∧ (s.issueTxn owner unit r).folds = s.folds ∧
    (s.issueTxn owner unit r).pens = s.pens ∧ (s.issueTxn owner unit r).stile = s.stile ∧
    (s.issueTxn owner unit r).descs = s.descs ∧ (s.issueTxn owner unit r).hor = s.hor ∧
    (s.issueTxn owner unit r).plans = s.plans ∧ (s.issueTxn owner unit r).rings = s.rings ∧
    (s.issueTxn owner unit r).evt = s.evt ∧ (s.issueTxn owner unit r).msgs = s.msgs ∧
    (s.issueTxn owner unit r).logs = s.logs ∧ (s.issueTxn owner unit r).own = s.own ∧
    (s.issueTxn owner unit r).neOut = s.neOut ∧ (s.issueTxn owner unit r).waiting = s.waiting ∧
    (s.issueTxn owner unit r).xfers = s.xfers ∧ (s.issueTxn owner unit r).mram = s.mram ∧
    (s.issueTxn owner unit r).tally = s.tally ∧ (s.issueTxn owner unit r).freeCtr = s.freeCtr ∧
    (s.issueTxn owner unit r).debugOut = s.debugOut ∧ (s.issueTxn owner unit r).nextDid = s.nextDid ∧
    (s.issueTxn owner unit r).nextKey = s.nextKey := by
  and_intros <;> rfl

@[simp] theorem State.noWait_fields (i f : Nat) :
    (s.noWait i f).pending = s.pending ∧ (s.noWait i f).fuses = s.fuses ∧ (s.noWait i f).pins = s.pins ∧
    (s.noWait i f).tick = s.tick ∧ (s.noWait i f).boot = s.boot ∧ (s.noWait i f).ready = s.ready ∧
    (s.noWait i f).cfg = s.cfg ∧ (s.noWait i f).fatalReg = s.fatalReg ∧ (s.noWait i f).fmap = s.fmap ∧
    (s.noWait i f).nudges = s.nudges ∧ (s.noWait i f).pause = s.pause ∧ (s.noWait i f).twins = s.twins ∧
    (s.noWait i f).period = s.period ∧ (s.noWait i f).gate = s.gate ∧ (s.noWait i f).therm = s.therm ∧
    (s.noWait i f).cost = s.cost ∧ (s.noWait i f).cnt = s.cnt ∧ (s.noWait i f).intPend = s.intPend ∧
    (s.noWait i f).host = s.host ∧ (s.noWait i f).poison = s.poison ∧ (s.noWait i f).past = s.past ∧
    (s.noWait i f).raddle = s.raddle ∧ (s.noWait i f).ecc = s.ecc ∧ (s.noWait i f).handed = s.handed ∧
    (s.noWait i f).sram = s.sram ∧ (s.noWait i f).folds = s.folds ∧ (s.noWait i f).pens = s.pens ∧
    (s.noWait i f).stile = s.stile ∧ (s.noWait i f).descs = s.descs ∧ (s.noWait i f).hor = s.hor ∧
    (s.noWait i f).plans = s.plans ∧ (s.noWait i f).rings = s.rings ∧ (s.noWait i f).evt = s.evt ∧
    (s.noWait i f).msgs = s.msgs ∧ (s.noWait i f).logs = s.logs ∧ (s.noWait i f).own = s.own ∧
    (s.noWait i f).ports = s.ports ∧ (s.noWait i f).snOut = s.snOut ∧ (s.noWait i f).neOut = s.neOut ∧
    (s.noWait i f).xfers = s.xfers ∧ (s.noWait i f).mram = s.mram ∧ (s.noWait i f).tally = s.tally ∧
    (s.noWait i f).freeCtr = s.freeCtr ∧ (s.noWait i f).debugOut = s.debugOut ∧ (s.noWait i f).nextDid = s.nextDid ∧
    (s.noWait i f).nextKey = s.nextKey := by
  and_intros <;> rfl

@[simp] theorem State.dropTxn_fields (t : Txn) :
    (s.dropTxn t).pending = s.pending ∧ (s.dropTxn t).fuses = s.fuses ∧ (s.dropTxn t).pins = s.pins ∧
    (s.dropTxn t).tick = s.tick ∧ (s.dropTxn t).boot = s.boot ∧ (s.dropTxn t).ready = s.ready ∧ (s.dropTxn t).cfg = s.cfg ∧
    (s.dropTxn t).fatalReg = s.fatalReg ∧ (s.dropTxn t).fmap = s.fmap ∧ (s.dropTxn t).nudges = s.nudges ∧
    (s.dropTxn t).pause = s.pause ∧ (s.dropTxn t).twins = s.twins ∧ (s.dropTxn t).period = s.period ∧
    (s.dropTxn t).gate = s.gate ∧ (s.dropTxn t).therm = s.therm ∧ (s.dropTxn t).cost = s.cost ∧ (s.dropTxn t).cnt = s.cnt ∧
    (s.dropTxn t).intPend = s.intPend ∧ (s.dropTxn t).host = s.host ∧ (s.dropTxn t).poison = s.poison ∧
    (s.dropTxn t).past = s.past ∧ (s.dropTxn t).raddle = s.raddle ∧ (s.dropTxn t).ecc = s.ecc ∧
    (s.dropTxn t).handed = s.handed ∧ (s.dropTxn t).sram = s.sram ∧ (s.dropTxn t).folds = s.folds ∧
    (s.dropTxn t).pens = s.pens ∧ (s.dropTxn t).stile = s.stile ∧ (s.dropTxn t).descs = s.descs ∧
    (s.dropTxn t).hor = s.hor ∧ (s.dropTxn t).plans = s.plans ∧ (s.dropTxn t).rings = s.rings ∧ (s.dropTxn t).evt = s.evt ∧
    (s.dropTxn t).msgs = s.msgs ∧ (s.dropTxn t).logs = s.logs ∧ (s.dropTxn t).own = s.own ∧ (s.dropTxn t).snOut = s.snOut ∧
    (s.dropTxn t).neOut = s.neOut ∧ (s.dropTxn t).waiting = s.waiting ∧ (s.dropTxn t).xfers = s.xfers ∧
    (s.dropTxn t).mram = s.mram ∧ (s.dropTxn t).tally = s.tally ∧ (s.dropTxn t).freeCtr = s.freeCtr ∧
    (s.dropTxn t).debugOut = s.debugOut ∧ (s.dropTxn t).nextDid = s.nextDid ∧ (s.dropTxn t).nextKey = s.nextKey := by
  and_intros <;> rfl

@[simp] theorem State.swapTxn_fields (t u : Txn) :
    (s.swapTxn t u).pending = s.pending ∧ (s.swapTxn t u).fuses = s.fuses ∧ (s.swapTxn t u).pins = s.pins ∧
    (s.swapTxn t u).tick = s.tick ∧ (s.swapTxn t u).boot = s.boot ∧ (s.swapTxn t u).ready = s.ready ∧
    (s.swapTxn t u).cfg = s.cfg ∧ (s.swapTxn t u).fatalReg = s.fatalReg ∧ (s.swapTxn t u).fmap = s.fmap ∧
    (s.swapTxn t u).nudges = s.nudges ∧ (s.swapTxn t u).pause = s.pause ∧ (s.swapTxn t u).twins = s.twins ∧
    (s.swapTxn t u).period = s.period ∧ (s.swapTxn t u).gate = s.gate ∧ (s.swapTxn t u).therm = s.therm ∧
    (s.swapTxn t u).cost = s.cost ∧ (s.swapTxn t u).cnt = s.cnt ∧ (s.swapTxn t u).intPend = s.intPend ∧
    (s.swapTxn t u).host = s.host ∧ (s.swapTxn t u).poison = s.poison ∧ (s.swapTxn t u).past = s.past ∧
    (s.swapTxn t u).raddle = s.raddle ∧ (s.swapTxn t u).ecc = s.ecc ∧ (s.swapTxn t u).handed = s.handed ∧
    (s.swapTxn t u).sram = s.sram ∧ (s.swapTxn t u).folds = s.folds ∧ (s.swapTxn t u).pens = s.pens ∧
    (s.swapTxn t u).stile = s.stile ∧ (s.swapTxn t u).descs = s.descs ∧ (s.swapTxn t u).hor = s.hor ∧
    (s.swapTxn t u).plans = s.plans ∧ (s.swapTxn t u).rings = s.rings ∧ (s.swapTxn t u).evt = s.evt ∧
    (s.swapTxn t u).msgs = s.msgs ∧ (s.swapTxn t u).logs = s.logs ∧ (s.swapTxn t u).own = s.own ∧
    (s.swapTxn t u).snOut = s.snOut ∧ (s.swapTxn t u).neOut = s.neOut ∧ (s.swapTxn t u).waiting = s.waiting ∧
    (s.swapTxn t u).xfers = s.xfers ∧ (s.swapTxn t u).mram = s.mram ∧ (s.swapTxn t u).tally = s.tally ∧
    (s.swapTxn t u).freeCtr = s.freeCtr ∧ (s.swapTxn t u).debugOut = s.debugOut ∧ (s.swapTxn t u).nextDid = s.nextDid ∧
    (s.swapTxn t u).nextKey = s.nextKey := by
  and_intros <;> rfl

@[simp] theorem State.dropOwn_fields (key : Nat) :
    (s.dropOwn key).pending = s.pending ∧ (s.dropOwn key).fuses = s.fuses ∧ (s.dropOwn key).pins = s.pins ∧
    (s.dropOwn key).tick = s.tick ∧ (s.dropOwn key).boot = s.boot ∧ (s.dropOwn key).ready = s.ready ∧
    (s.dropOwn key).cfg = s.cfg ∧ (s.dropOwn key).fatalReg = s.fatalReg ∧ (s.dropOwn key).fmap = s.fmap ∧
    (s.dropOwn key).nudges = s.nudges ∧ (s.dropOwn key).pause = s.pause ∧ (s.dropOwn key).twins = s.twins ∧
    (s.dropOwn key).period = s.period ∧ (s.dropOwn key).gate = s.gate ∧ (s.dropOwn key).therm = s.therm ∧
    (s.dropOwn key).cost = s.cost ∧ (s.dropOwn key).cnt = s.cnt ∧ (s.dropOwn key).intPend = s.intPend ∧
    (s.dropOwn key).host = s.host ∧ (s.dropOwn key).poison = s.poison ∧ (s.dropOwn key).past = s.past ∧
    (s.dropOwn key).raddle = s.raddle ∧ (s.dropOwn key).ecc = s.ecc ∧ (s.dropOwn key).handed = s.handed ∧
    (s.dropOwn key).sram = s.sram ∧ (s.dropOwn key).folds = s.folds ∧ (s.dropOwn key).pens = s.pens ∧
    (s.dropOwn key).stile = s.stile ∧ (s.dropOwn key).descs = s.descs ∧ (s.dropOwn key).hor = s.hor ∧
    (s.dropOwn key).plans = s.plans ∧ (s.dropOwn key).rings = s.rings ∧ (s.dropOwn key).evt = s.evt ∧
    (s.dropOwn key).msgs = s.msgs ∧ (s.dropOwn key).logs = s.logs ∧ (s.dropOwn key).snOut = s.snOut ∧
    (s.dropOwn key).neOut = s.neOut ∧ (s.dropOwn key).waiting = s.waiting ∧ (s.dropOwn key).xfers = s.xfers ∧
    (s.dropOwn key).mram = s.mram ∧ (s.dropOwn key).tally = s.tally ∧ (s.dropOwn key).freeCtr = s.freeCtr ∧
    (s.dropOwn key).debugOut = s.debugOut ∧ (s.dropOwn key).nextDid = s.nextDid ∧ (s.dropOwn key).nextKey = s.nextKey := by
  and_intros <;> rfl

@[simp] theorem State.waitOwn_fields (key : Nat) :
    (s.waitOwn key).pending = s.pending ∧ (s.waitOwn key).fuses = s.fuses ∧ (s.waitOwn key).pins = s.pins ∧
    (s.waitOwn key).tick = s.tick ∧ (s.waitOwn key).boot = s.boot ∧ (s.waitOwn key).ready = s.ready ∧
    (s.waitOwn key).cfg = s.cfg ∧ (s.waitOwn key).fatalReg = s.fatalReg ∧ (s.waitOwn key).fmap = s.fmap ∧
    (s.waitOwn key).nudges = s.nudges ∧ (s.waitOwn key).pause = s.pause ∧ (s.waitOwn key).twins = s.twins ∧
    (s.waitOwn key).period = s.period ∧ (s.waitOwn key).gate = s.gate ∧ (s.waitOwn key).therm = s.therm ∧
    (s.waitOwn key).cost = s.cost ∧ (s.waitOwn key).cnt = s.cnt ∧ (s.waitOwn key).intPend = s.intPend ∧
    (s.waitOwn key).host = s.host ∧ (s.waitOwn key).poison = s.poison ∧ (s.waitOwn key).past = s.past ∧
    (s.waitOwn key).raddle = s.raddle ∧ (s.waitOwn key).ecc = s.ecc ∧ (s.waitOwn key).handed = s.handed ∧
    (s.waitOwn key).sram = s.sram ∧ (s.waitOwn key).folds = s.folds ∧ (s.waitOwn key).pens = s.pens ∧
    (s.waitOwn key).stile = s.stile ∧ (s.waitOwn key).descs = s.descs ∧ (s.waitOwn key).hor = s.hor ∧
    (s.waitOwn key).plans = s.plans ∧ (s.waitOwn key).rings = s.rings ∧ (s.waitOwn key).evt = s.evt ∧
    (s.waitOwn key).msgs = s.msgs ∧ (s.waitOwn key).logs = s.logs ∧ (s.waitOwn key).snOut = s.snOut ∧
    (s.waitOwn key).neOut = s.neOut ∧ (s.waitOwn key).waiting = s.waiting ∧ (s.waitOwn key).xfers = s.xfers ∧
    (s.waitOwn key).mram = s.mram ∧ (s.waitOwn key).tally = s.tally ∧ (s.waitOwn key).freeCtr = s.freeCtr ∧
    (s.waitOwn key).debugOut = s.debugOut ∧ (s.waitOwn key).nextDid = s.nextDid ∧ (s.waitOwn key).nextKey = s.nextKey := by
  and_intros <;> rfl

@[simp] theorem State.leaveAll_fields (i : Nat) :
    (s.leaveAll i).pending = s.pending ∧ (s.leaveAll i).fuses = s.fuses ∧ (s.leaveAll i).pins = s.pins ∧
    (s.leaveAll i).tick = s.tick ∧ (s.leaveAll i).boot = s.boot ∧ (s.leaveAll i).ready = s.ready ∧
    (s.leaveAll i).cfg = s.cfg ∧ (s.leaveAll i).fatalReg = s.fatalReg ∧ (s.leaveAll i).fmap = s.fmap ∧
    (s.leaveAll i).nudges = s.nudges ∧ (s.leaveAll i).pause = s.pause ∧ (s.leaveAll i).twins = s.twins ∧
    (s.leaveAll i).period = s.period ∧ (s.leaveAll i).gate = s.gate ∧ (s.leaveAll i).therm = s.therm ∧
    (s.leaveAll i).cost = s.cost ∧ (s.leaveAll i).cnt = s.cnt ∧ (s.leaveAll i).intPend = s.intPend ∧
    (s.leaveAll i).host = s.host ∧ (s.leaveAll i).poison = s.poison ∧ (s.leaveAll i).past = s.past ∧
    (s.leaveAll i).raddle = s.raddle ∧ (s.leaveAll i).ecc = s.ecc ∧ (s.leaveAll i).handed = s.handed ∧
    (s.leaveAll i).sram = s.sram ∧ (s.leaveAll i).pens = s.pens ∧ (s.leaveAll i).stile = s.stile ∧
    (s.leaveAll i).descs = s.descs ∧ (s.leaveAll i).hor = s.hor ∧ (s.leaveAll i).plans = s.plans ∧
    (s.leaveAll i).rings = s.rings ∧ (s.leaveAll i).evt = s.evt ∧ (s.leaveAll i).msgs = s.msgs ∧
    (s.leaveAll i).logs = s.logs ∧ (s.leaveAll i).own = s.own ∧ (s.leaveAll i).ports = s.ports ∧
    (s.leaveAll i).snOut = s.snOut ∧ (s.leaveAll i).neOut = s.neOut ∧ (s.leaveAll i).waiting = s.waiting ∧
    (s.leaveAll i).xfers = s.xfers ∧ (s.leaveAll i).mram = s.mram ∧ (s.leaveAll i).tally = s.tally ∧
    (s.leaveAll i).freeCtr = s.freeCtr ∧ (s.leaveAll i).debugOut = s.debugOut ∧ (s.leaveAll i).nextDid = s.nextDid ∧
    (s.leaveAll i).nextKey = s.nextKey := by
  and_intros <;> rfl

@[simp] theorem State.setArm_fields :
    (s.setArm).pending = s.pending ∧ (s.setArm).fuses = s.fuses ∧ (s.setArm).tick = s.tick ∧ (s.setArm).boot = s.boot ∧
    (s.setArm).ready = s.ready ∧ (s.setArm).cfg = s.cfg ∧ (s.setArm).fatalReg = s.fatalReg ∧ (s.setArm).fmap = s.fmap ∧
    (s.setArm).nudges = s.nudges ∧ (s.setArm).pause = s.pause ∧ (s.setArm).twins = s.twins ∧ (s.setArm).period = s.period ∧
    (s.setArm).gate = s.gate ∧ (s.setArm).therm = s.therm ∧ (s.setArm).cost = s.cost ∧ (s.setArm).cnt = s.cnt ∧
    (s.setArm).intPend = s.intPend ∧ (s.setArm).host = s.host ∧ (s.setArm).poison = s.poison ∧ (s.setArm).past = s.past ∧
    (s.setArm).raddle = s.raddle ∧ (s.setArm).ecc = s.ecc ∧ (s.setArm).handed = s.handed ∧ (s.setArm).sram = s.sram ∧
    (s.setArm).folds = s.folds ∧ (s.setArm).pens = s.pens ∧ (s.setArm).stile = s.stile ∧ (s.setArm).descs = s.descs ∧
    (s.setArm).hor = s.hor ∧ (s.setArm).plans = s.plans ∧ (s.setArm).rings = s.rings ∧ (s.setArm).evt = s.evt ∧
    (s.setArm).msgs = s.msgs ∧ (s.setArm).logs = s.logs ∧ (s.setArm).own = s.own ∧ (s.setArm).ports = s.ports ∧
    (s.setArm).snOut = s.snOut ∧ (s.setArm).neOut = s.neOut ∧ (s.setArm).waiting = s.waiting ∧ (s.setArm).xfers = s.xfers ∧
    (s.setArm).mram = s.mram ∧ (s.setArm).tally = s.tally ∧ (s.setArm).freeCtr = s.freeCtr ∧
    (s.setArm).debugOut = s.debugOut ∧ (s.setArm).nextDid = s.nextDid ∧ (s.setArm).nextKey = s.nextKey := by
  and_intros <;> rfl

@[simp] theorem State.modPen_fields (p : Nat) (f : Pen → Pen) :
    (s.modPen p f).pending = s.pending ∧ (s.modPen p f).fuses = s.fuses ∧ (s.modPen p f).pins = s.pins ∧
    (s.modPen p f).tick = s.tick ∧ (s.modPen p f).boot = s.boot ∧ (s.modPen p f).ready = s.ready ∧
    (s.modPen p f).cfg = s.cfg ∧ (s.modPen p f).fatalReg = s.fatalReg ∧ (s.modPen p f).fmap = s.fmap ∧
    (s.modPen p f).nudges = s.nudges ∧ (s.modPen p f).pause = s.pause ∧ (s.modPen p f).twins = s.twins ∧
    (s.modPen p f).period = s.period ∧ (s.modPen p f).gate = s.gate ∧ (s.modPen p f).therm = s.therm ∧
    (s.modPen p f).cost = s.cost ∧ (s.modPen p f).cnt = s.cnt ∧ (s.modPen p f).intPend = s.intPend ∧
    (s.modPen p f).host = s.host ∧ (s.modPen p f).poison = s.poison ∧ (s.modPen p f).past = s.past ∧
    (s.modPen p f).raddle = s.raddle ∧ (s.modPen p f).ecc = s.ecc ∧ (s.modPen p f).handed = s.handed ∧
    (s.modPen p f).sram = s.sram ∧ (s.modPen p f).folds = s.folds ∧ (s.modPen p f).stile = s.stile ∧
    (s.modPen p f).descs = s.descs ∧ (s.modPen p f).hor = s.hor ∧ (s.modPen p f).plans = s.plans ∧
    (s.modPen p f).rings = s.rings ∧ (s.modPen p f).evt = s.evt ∧ (s.modPen p f).msgs = s.msgs ∧
    (s.modPen p f).logs = s.logs ∧ (s.modPen p f).own = s.own ∧ (s.modPen p f).ports = s.ports ∧
    (s.modPen p f).snOut = s.snOut ∧ (s.modPen p f).neOut = s.neOut ∧ (s.modPen p f).waiting = s.waiting ∧
    (s.modPen p f).xfers = s.xfers ∧ (s.modPen p f).mram = s.mram ∧ (s.modPen p f).tally = s.tally ∧
    (s.modPen p f).freeCtr = s.freeCtr ∧ (s.modPen p f).debugOut = s.debugOut ∧ (s.modPen p f).nextDid = s.nextDid ∧
    (s.modPen p f).nextKey = s.nextKey := by
  and_intros <;> rfl

@[simp] theorem State.modRing_fields (r : Nat) (f : CplRing → CplRing) :
    (s.modRing r f).pending = s.pending ∧ (s.modRing r f).fuses = s.fuses ∧ (s.modRing r f).pins = s.pins ∧
    (s.modRing r f).tick = s.tick ∧ (s.modRing r f).boot = s.boot ∧ (s.modRing r f).ready = s.ready ∧
    (s.modRing r f).cfg = s.cfg ∧ (s.modRing r f).fatalReg = s.fatalReg ∧ (s.modRing r f).fmap = s.fmap ∧
    (s.modRing r f).nudges = s.nudges ∧ (s.modRing r f).pause = s.pause ∧ (s.modRing r f).twins = s.twins ∧
    (s.modRing r f).period = s.period ∧ (s.modRing r f).gate = s.gate ∧ (s.modRing r f).therm = s.therm ∧
    (s.modRing r f).cost = s.cost ∧ (s.modRing r f).cnt = s.cnt ∧ (s.modRing r f).intPend = s.intPend ∧
    (s.modRing r f).host = s.host ∧ (s.modRing r f).poison = s.poison ∧ (s.modRing r f).past = s.past ∧
    (s.modRing r f).raddle = s.raddle ∧ (s.modRing r f).ecc = s.ecc ∧ (s.modRing r f).handed = s.handed ∧
    (s.modRing r f).sram = s.sram ∧ (s.modRing r f).folds = s.folds ∧ (s.modRing r f).pens = s.pens ∧
    (s.modRing r f).stile = s.stile ∧ (s.modRing r f).descs = s.descs ∧ (s.modRing r f).hor = s.hor ∧
    (s.modRing r f).plans = s.plans ∧ (s.modRing r f).evt = s.evt ∧ (s.modRing r f).msgs = s.msgs ∧
    (s.modRing r f).logs = s.logs ∧ (s.modRing r f).own = s.own ∧ (s.modRing r f).ports = s.ports ∧
    (s.modRing r f).snOut = s.snOut ∧ (s.modRing r f).neOut = s.neOut ∧ (s.modRing r f).waiting = s.waiting ∧
    (s.modRing r f).xfers = s.xfers ∧ (s.modRing r f).mram = s.mram ∧ (s.modRing r f).tally = s.tally ∧
    (s.modRing r f).freeCtr = s.freeCtr ∧ (s.modRing r f).debugOut = s.debugOut ∧ (s.modRing r f).nextDid = s.nextDid ∧
    (s.modRing r f).nextKey = s.nextKey := by
  and_intros <;> rfl

@[simp] theorem State.modEpoch_fields (f : Epoch → Epoch) :
    (s.modEpoch f).pending = s.pending ∧ (s.modEpoch f).fuses = s.fuses ∧ (s.modEpoch f).pins = s.pins ∧
    (s.modEpoch f).tick = s.tick ∧ (s.modEpoch f).boot = s.boot ∧ (s.modEpoch f).ready = s.ready ∧
    (s.modEpoch f).cfg = s.cfg ∧ (s.modEpoch f).fatalReg = s.fatalReg ∧ (s.modEpoch f).fmap = s.fmap ∧
    (s.modEpoch f).nudges = s.nudges ∧ (s.modEpoch f).pause = s.pause ∧ (s.modEpoch f).twins = s.twins ∧
    (s.modEpoch f).period = s.period ∧ (s.modEpoch f).gate = s.gate ∧ (s.modEpoch f).therm = s.therm ∧
    (s.modEpoch f).cost = s.cost ∧ (s.modEpoch f).cnt = s.cnt ∧ (s.modEpoch f).intPend = s.intPend ∧
    (s.modEpoch f).host = s.host ∧ (s.modEpoch f).poison = s.poison ∧ (s.modEpoch f).past = s.past ∧
    (s.modEpoch f).raddle = s.raddle ∧ (s.modEpoch f).ecc = s.ecc ∧ (s.modEpoch f).handed = s.handed ∧
    (s.modEpoch f).sram = s.sram ∧ (s.modEpoch f).folds = s.folds ∧ (s.modEpoch f).pens = s.pens ∧
    (s.modEpoch f).stile = s.stile ∧ (s.modEpoch f).descs = s.descs ∧ (s.modEpoch f).hor = s.hor ∧
    (s.modEpoch f).plans = s.plans ∧ (s.modEpoch f).rings = s.rings ∧ (s.modEpoch f).evt = s.evt ∧
    (s.modEpoch f).msgs = s.msgs ∧ (s.modEpoch f).logs = s.logs ∧ (s.modEpoch f).own = s.own ∧
    (s.modEpoch f).ports = s.ports ∧ (s.modEpoch f).snOut = s.snOut ∧ (s.modEpoch f).neOut = s.neOut ∧
    (s.modEpoch f).waiting = s.waiting ∧ (s.modEpoch f).xfers = s.xfers ∧ (s.modEpoch f).mram = s.mram ∧
    (s.modEpoch f).freeCtr = s.freeCtr ∧ (s.modEpoch f).debugOut = s.debugOut ∧ (s.modEpoch f).nextDid = s.nextDid ∧
    (s.modEpoch f).nextKey = s.nextKey := by
  and_intros <;> rfl

@[simp] theorem State.setPlan_fields (k : Nat) (p : Plan) :
    (s.setPlan k p).pending = s.pending ∧ (s.setPlan k p).fuses = s.fuses ∧ (s.setPlan k p).pins = s.pins ∧
    (s.setPlan k p).tick = s.tick ∧ (s.setPlan k p).boot = s.boot ∧ (s.setPlan k p).ready = s.ready ∧
    (s.setPlan k p).cfg = s.cfg ∧ (s.setPlan k p).fatalReg = s.fatalReg ∧ (s.setPlan k p).fmap = s.fmap ∧
    (s.setPlan k p).nudges = s.nudges ∧ (s.setPlan k p).pause = s.pause ∧ (s.setPlan k p).twins = s.twins ∧
    (s.setPlan k p).period = s.period ∧ (s.setPlan k p).gate = s.gate ∧ (s.setPlan k p).therm = s.therm ∧
    (s.setPlan k p).cost = s.cost ∧ (s.setPlan k p).cnt = s.cnt ∧ (s.setPlan k p).intPend = s.intPend ∧
    (s.setPlan k p).host = s.host ∧ (s.setPlan k p).poison = s.poison ∧ (s.setPlan k p).past = s.past ∧
    (s.setPlan k p).raddle = s.raddle ∧ (s.setPlan k p).ecc = s.ecc ∧ (s.setPlan k p).handed = s.handed ∧
    (s.setPlan k p).sram = s.sram ∧ (s.setPlan k p).folds = s.folds ∧ (s.setPlan k p).pens = s.pens ∧
    (s.setPlan k p).stile = s.stile ∧ (s.setPlan k p).descs = s.descs ∧ (s.setPlan k p).hor = s.hor ∧
    (s.setPlan k p).rings = s.rings ∧ (s.setPlan k p).evt = s.evt ∧ (s.setPlan k p).msgs = s.msgs ∧
    (s.setPlan k p).logs = s.logs ∧ (s.setPlan k p).own = s.own ∧ (s.setPlan k p).ports = s.ports ∧
    (s.setPlan k p).snOut = s.snOut ∧ (s.setPlan k p).neOut = s.neOut ∧ (s.setPlan k p).waiting = s.waiting ∧
    (s.setPlan k p).xfers = s.xfers ∧ (s.setPlan k p).mram = s.mram ∧ (s.setPlan k p).tally = s.tally ∧
    (s.setPlan k p).freeCtr = s.freeCtr ∧ (s.setPlan k p).debugOut = s.debugOut ∧ (s.setPlan k p).nextDid = s.nextDid ∧
    (s.setPlan k p).nextKey = s.nextKey := by
  and_intros <;> rfl

@[simp] theorem State.setPhys_fields (p : Nat) (x : PhysState) :
    (s.setPhys p x).pending = s.pending ∧ (s.setPhys p x).fuses = s.fuses ∧ (s.setPhys p x).pins = s.pins ∧
    (s.setPhys p x).tick = s.tick ∧ (s.setPhys p x).boot = s.boot ∧ (s.setPhys p x).ready = s.ready ∧
    (s.setPhys p x).cfg = s.cfg ∧ (s.setPhys p x).fatalReg = s.fatalReg ∧ (s.setPhys p x).nudges = s.nudges ∧
    (s.setPhys p x).pause = s.pause ∧ (s.setPhys p x).twins = s.twins ∧ (s.setPhys p x).period = s.period ∧
    (s.setPhys p x).gate = s.gate ∧ (s.setPhys p x).therm = s.therm ∧ (s.setPhys p x).cost = s.cost ∧
    (s.setPhys p x).cnt = s.cnt ∧ (s.setPhys p x).intPend = s.intPend ∧ (s.setPhys p x).host = s.host ∧
    (s.setPhys p x).poison = s.poison ∧ (s.setPhys p x).past = s.past ∧ (s.setPhys p x).raddle = s.raddle ∧
    (s.setPhys p x).ecc = s.ecc ∧ (s.setPhys p x).handed = s.handed ∧ (s.setPhys p x).sram = s.sram ∧
    (s.setPhys p x).folds = s.folds ∧ (s.setPhys p x).pens = s.pens ∧ (s.setPhys p x).stile = s.stile ∧
    (s.setPhys p x).descs = s.descs ∧ (s.setPhys p x).hor = s.hor ∧ (s.setPhys p x).plans = s.plans ∧
    (s.setPhys p x).rings = s.rings ∧ (s.setPhys p x).evt = s.evt ∧ (s.setPhys p x).msgs = s.msgs ∧
    (s.setPhys p x).logs = s.logs ∧ (s.setPhys p x).own = s.own ∧ (s.setPhys p x).ports = s.ports ∧
    (s.setPhys p x).snOut = s.snOut ∧ (s.setPhys p x).neOut = s.neOut ∧ (s.setPhys p x).waiting = s.waiting ∧
    (s.setPhys p x).xfers = s.xfers ∧ (s.setPhys p x).mram = s.mram ∧ (s.setPhys p x).tally = s.tally ∧
    (s.setPhys p x).freeCtr = s.freeCtr ∧ (s.setPhys p x).debugOut = s.debugOut ∧ (s.setPhys p x).nextDid = s.nextDid ∧
    (s.setPhys p x).nextKey = s.nextKey := by
  and_intros <;> rfl

@[simp] theorem State.setReady_fields (f : Nat) (b : Bool) :
    (s.setReady f b).pending = s.pending ∧ (s.setReady f b).fuses = s.fuses ∧ (s.setReady f b).pins = s.pins ∧
    (s.setReady f b).tick = s.tick ∧ (s.setReady f b).boot = s.boot ∧ (s.setReady f b).cfg = s.cfg ∧
    (s.setReady f b).fatalReg = s.fatalReg ∧ (s.setReady f b).fmap = s.fmap ∧ (s.setReady f b).nudges = s.nudges ∧
    (s.setReady f b).pause = s.pause ∧ (s.setReady f b).twins = s.twins ∧ (s.setReady f b).period = s.period ∧
    (s.setReady f b).gate = s.gate ∧ (s.setReady f b).therm = s.therm ∧ (s.setReady f b).cost = s.cost ∧
    (s.setReady f b).cnt = s.cnt ∧ (s.setReady f b).intPend = s.intPend ∧ (s.setReady f b).host = s.host ∧
    (s.setReady f b).poison = s.poison ∧ (s.setReady f b).past = s.past ∧ (s.setReady f b).raddle = s.raddle ∧
    (s.setReady f b).ecc = s.ecc ∧ (s.setReady f b).handed = s.handed ∧ (s.setReady f b).sram = s.sram ∧
    (s.setReady f b).folds = s.folds ∧ (s.setReady f b).pens = s.pens ∧ (s.setReady f b).stile = s.stile ∧
    (s.setReady f b).descs = s.descs ∧ (s.setReady f b).hor = s.hor ∧ (s.setReady f b).plans = s.plans ∧
    (s.setReady f b).rings = s.rings ∧ (s.setReady f b).evt = s.evt ∧ (s.setReady f b).msgs = s.msgs ∧
    (s.setReady f b).logs = s.logs ∧ (s.setReady f b).own = s.own ∧ (s.setReady f b).ports = s.ports ∧
    (s.setReady f b).snOut = s.snOut ∧ (s.setReady f b).neOut = s.neOut ∧ (s.setReady f b).waiting = s.waiting ∧
    (s.setReady f b).xfers = s.xfers ∧ (s.setReady f b).mram = s.mram ∧ (s.setReady f b).tally = s.tally ∧
    (s.setReady f b).freeCtr = s.freeCtr ∧ (s.setReady f b).debugOut = s.debugOut ∧ (s.setReady f b).nextDid = s.nextDid ∧
    (s.setReady f b).nextKey = s.nextKey := by
  and_intros <;> rfl

@[simp] theorem State.dueMessage_fields (v : Nat) :
    (s.dueMessage v).pending = s.pending ∧ (s.dueMessage v).fuses = s.fuses ∧ (s.dueMessage v).pins = s.pins ∧
    (s.dueMessage v).tick = s.tick ∧ (s.dueMessage v).boot = s.boot ∧ (s.dueMessage v).ready = s.ready ∧
    (s.dueMessage v).cfg = s.cfg ∧ (s.dueMessage v).fatalReg = s.fatalReg ∧ (s.dueMessage v).fmap = s.fmap ∧
    (s.dueMessage v).nudges = s.nudges ∧ (s.dueMessage v).pause = s.pause ∧ (s.dueMessage v).twins = s.twins ∧
    (s.dueMessage v).period = s.period ∧ (s.dueMessage v).gate = s.gate ∧ (s.dueMessage v).therm = s.therm ∧
    (s.dueMessage v).cost = s.cost ∧ (s.dueMessage v).cnt = s.cnt ∧ (s.dueMessage v).intPend = s.intPend ∧
    (s.dueMessage v).host = s.host ∧ (s.dueMessage v).poison = s.poison ∧ (s.dueMessage v).past = s.past ∧
    (s.dueMessage v).raddle = s.raddle ∧ (s.dueMessage v).ecc = s.ecc ∧ (s.dueMessage v).handed = s.handed ∧
    (s.dueMessage v).sram = s.sram ∧ (s.dueMessage v).folds = s.folds ∧ (s.dueMessage v).pens = s.pens ∧
    (s.dueMessage v).stile = s.stile ∧ (s.dueMessage v).descs = s.descs ∧ (s.dueMessage v).hor = s.hor ∧
    (s.dueMessage v).plans = s.plans ∧ (s.dueMessage v).rings = s.rings ∧ (s.dueMessage v).evt = s.evt ∧
    (s.dueMessage v).logs = s.logs ∧ (s.dueMessage v).own = s.own ∧ (s.dueMessage v).ports = s.ports ∧
    (s.dueMessage v).snOut = s.snOut ∧ (s.dueMessage v).neOut = s.neOut ∧ (s.dueMessage v).waiting = s.waiting ∧
    (s.dueMessage v).xfers = s.xfers ∧ (s.dueMessage v).mram = s.mram ∧ (s.dueMessage v).tally = s.tally ∧
    (s.dueMessage v).freeCtr = s.freeCtr ∧ (s.dueMessage v).debugOut = s.debugOut ∧ (s.dueMessage v).nextDid = s.nextDid ∧
    (s.dueMessage v).nextKey = s.nextKey := by
  and_intros <;> rfl

@[simp] theorem State.enterCut_fields :
    (s.enterCut).pending = s.pending ∧ (s.enterCut).fuses = s.fuses ∧ (s.enterCut).pins = s.pins ∧
    (s.enterCut).tick = s.tick ∧ (s.enterCut).boot = s.boot ∧ (s.enterCut).cfg = s.cfg ∧
    (s.enterCut).fatalReg = s.fatalReg ∧ (s.enterCut).fmap = s.fmap ∧ (s.enterCut).nudges = s.nudges ∧
    (s.enterCut).pause = s.pause ∧ (s.enterCut).twins = s.twins ∧ (s.enterCut).period = s.period ∧
    (s.enterCut).gate = s.gate ∧ (s.enterCut).therm = s.therm ∧ (s.enterCut).cost = s.cost ∧ (s.enterCut).cnt = s.cnt ∧
    (s.enterCut).intPend = s.intPend ∧ (s.enterCut).host = s.host ∧ (s.enterCut).poison = s.poison ∧
    (s.enterCut).past = s.past ∧ (s.enterCut).raddle = s.raddle ∧ (s.enterCut).ecc = s.ecc ∧
    (s.enterCut).handed = s.handed ∧ (s.enterCut).sram = s.sram ∧ (s.enterCut).folds = s.folds ∧
    (s.enterCut).pens = s.pens ∧ (s.enterCut).stile = s.stile ∧ (s.enterCut).descs = s.descs ∧ (s.enterCut).hor = s.hor ∧
    (s.enterCut).plans = s.plans ∧ (s.enterCut).rings = s.rings ∧ (s.enterCut).evt = s.evt ∧ (s.enterCut).msgs = s.msgs ∧
    (s.enterCut).logs = s.logs ∧ (s.enterCut).own = s.own ∧ (s.enterCut).ports = s.ports ∧ (s.enterCut).snOut = s.snOut ∧
    (s.enterCut).neOut = s.neOut ∧ (s.enterCut).waiting = s.waiting ∧ (s.enterCut).xfers = s.xfers ∧
    (s.enterCut).mram = s.mram ∧ (s.enterCut).freeCtr = s.freeCtr ∧ (s.enterCut).debugOut = s.debugOut ∧
    (s.enterCut).nextDid = s.nextDid ∧ (s.enterCut).nextKey = s.nextKey := by
  and_intros <;> rfl

/-! ### Reads after updates -/

/-- A changed descriptor reads as changed, whether or not the change keeps its serial number. -/
theorem find_map_did (l : List Desc) (i j : Nat) (f : Desc → Desc) (hf : ∀ d, d.did = i → (f d).did = i) :
    (l.map (fun d => if d.did = i then f d else d)).find? (fun d => d.did = j) =
      (l.find? (fun d => d.did = j)).map (fun d => if d.did = i then f d else d) := by
  induction l with
  | nil => rfl
  | cons a r ih =>
    simp only [List.map_cons, List.find?_cons]
    have e : (if a.did = i then f a else a).did = a.did := by
      split
      · next h => rw [hf a h, h]
      · rfl
    rw [e]
    by_cases hj : a.did = j
    · simp only [hj, decide_true, Option.map_some]
    · simp only [hj, decide_false, ih]

/-- The descriptor that was changed. -/
theorem State.desc?_modDesc (i j : Nat) (f : Desc → Desc) (hf : ∀ d, d.did = i → (f d).did = i) :
    (s.modDesc i f).desc? j = if j = i then (s.desc? j).map f else s.desc? j := by
  unfold State.modDesc State.desc?
  rw [find_map_did _ _ _ _ hf]
  cases h : s.descs.find? (fun d => decide (d.did = j)) with
  | none => simp
  | some d =>
    have hd : d.did = j := by simpa using List.find?_some h
    by_cases hj : j = i <;> simp [hd, hj]

/-- The serial number of the descriptor found. -/
theorem State.desc?_did {s : State} {i : Nat} {d : Desc} (h : s.desc? i = some d) : d.did = i := by
  simpa using List.find?_some h

/-- The record of a physical fold after a change of one. -/
@[simp] theorem State.fold_modFold (p q : Nat) (f : Fold → Fold) :
    (s.modFold p f).fold q = if q = p then f (s.fold p) else s.fold q := by
  simp only [State.modFold, State.setFold, State.fold, sget_sset]

/-- The state of a pen after a change of one. -/
@[simp] theorem State.pen_modPen (p q : Nat) (f : Pen → Pen) :
    (s.modPen p f).pen q = if q = p then f (s.pen p) else s.pen q := by
  simp only [State.modPen, State.pen, sget_sset]

/-- A completion ring after a change of one. -/
@[simp] theorem State.ring_modRing (r q : Nat) (f : CplRing → CplRing) :
    (s.modRing r f).ring q = if q = r then f (s.ring r) else s.ring q := by
  simp only [State.modRing, State.ring, sget_sset]

/-- Every fold lets go of a descriptor. -/
@[simp] theorem State.fold_leaveAll (i p : Nat) : (s.leaveAll i).fold p = (s.fold p).leave i s.tick := by
  unfold State.leaveAll State.fold
  exact sget_smap (by simp [Fold.leave, Fold.blank]) p

/-- What a fold that has let go of a descriptor keeps. -/
@[simp] theorem Fold.leave_fields (fo : Fold) (i n : Nat) :
    (fo.leave i n).vregs = fo.vregs ∧ (fo.leave i n).route = fo.route ∧ (fo.leave i n).acc = fo.acc ∧
    (fo.leave i n).logicOn = fo.logicOn ∧ (fo.leave i n).scrub = fo.scrub ∧ (fo.leave i n).patrol = fo.patrol := by
  and_intros <;> rfl

/-- No fold runs a descriptor that every fold has let go of. -/
theorem Fold.leave_running (fo : Fold) (i n : Nat) : (fo.leave i n).running ≠ some i := by
  unfold Fold.leave
  simp only
  split <;> simp_all

/-! ### Event records -/

/-- An event record changes nothing but the events that wait, the counters and the open epoch. -/
theorem State.event_onlyEvents (code : Nat) (fold : Option Nat) (tag brand pen info : Nat) :
    s.onlyEvents (s.event code fold tag brand pen info) := by
  unfold State.event State.onlyEvents
  split
  · exact ⟨rfl, rfl⟩
  · unfold State.bumpFault
    split
    · next h => exact ⟨rfl, rfl⟩
    · next h => exact ⟨rfl, by have h : s.tally.epoch = _ := h; simp [State.count, h]⟩

/-- An event record waits where the internal queue has room. -/
theorem State.event_logged (code : Nat) (fold : Option Nat) (tag brand pen info : Nat) :
    s.logged (s.event code fold tag brand pen info) code info := by
  intro h
  unfold State.event
  rw [if_pos h]
  exact ⟨_, List.mem_append_right _ (List.mem_singleton.mpr rfl), rfl, rfl, rfl⟩


end Sys2Proof.Machine
end

