-- ==== Sys2Proof/Laws/RunFrame.lean ====
section
/-!
SUPPORT. What the execution of a descriptor leaves alone: `State.Ran` says of two states what `State.runFrame` says, field by
field, and every operation that an execution is made of has one lemma that it keeps the relation.
-/
namespace Sys2Proof.Machine

/-- The frame of an execution, field by field. -/
structure State.Ran (s t : State) : Prop where
  pending : t.pending = s.pending
  fuses : t.fuses = s.fuses
  tick : t.tick = s.tick
  boot : t.boot = s.boot
  ready : t.ready = s.ready
  cfg : t.cfg = s.cfg
  fatalReg : t.fatalReg = s.fatalReg
  fmap : t.fmap = s.fmap
  nudges : t.nudges = s.nudges
  pause : t.pause = s.pause
  period : t.period = s.period
  gate : t.gate = s.gate
  therm : t.therm = s.therm
  cost : t.cost = s.cost
  intPend : t.intPend = s.intPend
  sram : t.sram = s.sram
  stile : t.stile = s.stile
  hor : t.hor = s.hor
  plans : t.plans = s.plans
  rings : t.rings = s.rings
  msgs : t.msgs = s.msgs
  logs : t.logs = s.logs
  own : t.own = s.own
  mram : t.mram = s.mram
  debugOut : t.debugOut = s.debugOut
  nextDid : t.nextDid = s.nextDid
  nextKey : t.nextKey = s.nextKey
  pins_ : t.pins = { s.pins with gateArm := t.pins.gateArm }
  tally_ : t.tally = { s.tally with epoch := t.tally.epoch }
  ports_ : t.ports = { s.ports with last := t.ports.last, gateSn := t.ports.gateSn, gateNe := t.ports.gateNe, gateNr := t.ports.gateNr }
  pens_ : ∀ p, ∃ k n, t.pen p = { s.pen p with tokens := k, tokTick := n }
  twins_ : t.twins.map Twin.named = s.twins.map Twin.named

theorem State.Ran.refl (s : State) : s.Ran s := by
  constructor
  all_goals first | rfl | exact fun _ => ⟨_, _, rfl⟩

theorem State.Ran.trans {r s t : State} (h : r.Ran s) (k : s.Ran t) : r.Ran t := by
  constructor
  · exact k.pending.trans h.pending
  · exact k.fuses.trans h.fuses
  · exact k.tick.trans h.tick
  · exact k.boot.trans h.boot
  · exact k.ready.trans h.ready
  · exact k.cfg.trans h.cfg
  · exact k.fatalReg.trans h.fatalReg
  · exact k.fmap.trans h.fmap
  · exact k.nudges.trans h.nudges
  · exact k.pause.trans h.pause
  · exact k.period.trans h.period
  · exact k.gate.trans h.gate
  · exact k.therm.trans h.therm
  · exact k.cost.trans h.cost
  · exact k.intPend.trans h.intPend
  · exact k.sram.trans h.sram
  · exact k.stile.trans h.stile
  · exact k.hor.trans h.hor
  · exact k.plans.trans h.plans
  · exact k.rings.trans h.rings
  · exact k.msgs.trans h.msgs
  · exact k.logs.trans h.logs
  · exact k.own.trans h.own
  · exact k.mram.trans h.mram
  · exact k.debugOut.trans h.debugOut
  · exact k.nextDid.trans h.nextDid
  · exact k.nextKey.trans h.nextKey
  · rw [k.pins_, h.pins_]
  · rw [k.tally_, h.tally_]
  · rw [k.ports_, h.ports_]
  · intro p
    obtain ⟨a, b, e⟩ := h.pens_ p
    obtain ⟨a', b', e'⟩ := k.pens_ p
    exact ⟨a', b', by rw [e', e]⟩
  · exact k.twins_.trans h.twins_

theorem State.Ran.frame {s t : State} (h : s.Ran t) : s.runFrame t := by
  refine ⟨?_, h.pens_, h.twins_⟩
  obtain ⟨h0, h1, h2, h3, h4, h5, h6, h7, h8, h9, h10, h11, h12, h13, h14, h15, h16, h17, h18, h19, h20, h21, h22, h23, h24, h25, h26, h27, h28, h29, _, _⟩ := h
  cases t
  simp only at *
  subst h0 h1 h2 h3 h4 h5 h6 h7 h8 h9 h10 h11 h12 h13 h14 h15 h16 h17 h18 h19 h20 h21 h22 h23 h24 h25 h26
  rw [← h27, ← h28, ← h29]

/-- A record update of what an execution may change. -/
theorem State.Ran.upd {r s : State} (h : r.Ran s) {folds' : Sparse Fold} {descs' : List Desc} {host' : Sparse Byte} {poison' : Sparse Bool} {past' : Sparse Byte} {raddle' : Sparse Bool} {ecc' : Sparse WordErr} {handed' : List (Nat × Nat)} {evt' : EvtRing} {cnt' : List (BitVec 64)} {snOut' : List SnReq} {neOut' : List NeOut} {waiting' : List Waiter} {xfers' : List Transfer} {freeCtr' : Nat}
    {pins' : Pins} {tally' : Tally} {ports' : Ports} (h1 : pins' = { s.pins with gateArm := pins'.gateArm })
    (h2 : tally' = { s.tally with epoch := tally'.epoch })
    (h3 : ports' = { s.ports with last := ports'.last, gateSn := ports'.gateSn, gateNe := ports'.gateNe, gateNr := ports'.gateNr }) :
    r.Ran { s with folds := folds', descs := descs', host := host', poison := poison', past := past', raddle := raddle', ecc := ecc', handed := handed', evt := evt', cnt := cnt', snOut := snOut', neOut := neOut', waiting := waiting', xfers := xfers', freeCtr := freeCtr', pins := pins', tally := tally', ports := ports' } :=
  h.trans ⟨rfl, rfl, rfl, rfl, rfl, rfl, rfl, rfl, rfl, rfl, rfl, rfl, rfl, rfl, rfl, rfl, rfl, rfl, rfl, rfl, rfl, rfl, rfl, rfl, rfl, rfl, rfl, h1, h2, h3, fun _ => ⟨_, _, rfl⟩, rfl⟩

/-- Steps that each keep the relation, one after another. -/
theorem State.Ran.foldl {α : Type} {f : State → α → State} (hf : ∀ {r s : State} (_ : r.Ran s) (a : α), r.Ran (f s a)) :
    ∀ (l : List α) {r s : State}, r.Ran s → r.Ran (l.foldl f s)
  | [], _, _, h => h
  | a :: l, _, _, h => State.Ran.foldl hf l (hf h a)

/-- A pen pays tokens. -/
theorem State.Ran.tokens {r s : State} (h : r.Ran s) (p k n : Nat) :
    r.Ran (s.modPen p (fun pn => { pn with tokens := k, tokTick := n })) := by
  refine h.trans ⟨rfl, rfl, rfl, rfl, rfl, rfl, rfl, rfl, rfl, rfl, rfl, rfl, rfl, rfl, rfl, rfl, rfl, rfl, rfl, rfl, rfl, rfl, rfl, rfl, rfl, rfl, rfl, rfl, rfl, rfl, fun q => ?_, rfl⟩
  by_cases e : q = p
  · exact ⟨k, n, by subst e; simp [State.modPen, State.pen]⟩
  · exact ⟨_, _, by simp [State.modPen, State.pen, e]; rfl⟩

theorem setNth_map {α β : Type} (g : α → β) : ∀ (l : List α) (k : Nat) (a b : α), l[k]? = some a → g b = g a → (setNth l k b).map g = l.map g
  | [], _, _, _, h, _ => by simp at h
  | _ :: _, 0, _, _, h, e => by
    simp only [List.getElem?_cons_zero, Option.some.injEq] at h
    subst h
    simp [setNth, e]
  | _ :: l, k + 1, a, b, h, e => by
    simp only [List.getElem?_cons_succ] at h
    simp [setNth, setNth_map g l k a b h e]

/-- One pair changes in its status bits. -/
theorem State.Ran.twin {r s : State} (h : r.Ran s) (k : Nat) {t : Twin} (u : Twin) (e : s.twins[k]? = some t) (hu : u.named = t.named) :
    r.Ran { s with twins := setNth s.twins k u } :=
  h.trans ⟨rfl, rfl, rfl, rfl, rfl, rfl, rfl, rfl, rfl, rfl, rfl, rfl, rfl, rfl, rfl, rfl, rfl, rfl, rfl, rfl, rfl, rfl, rfl, rfl, rfl, rfl, rfl, rfl, rfl, rfl, fun _ => ⟨_, _, rfl⟩, setNth_map _ _ _ _ _ e hu⟩

theorem State.bumpFault_ran {r s : State} (h : r.Ran s) (i n : Nat) : r.Ran (s.bumpFault i n) := by
  unfold State.bumpFault
  split
  · exact h
  · exact h.upd rfl rfl rfl

theorem State.putPiece_ran {r s : State} (h : r.Ran s) (p : Piece) : r.Ran (s.putPiece p) := by
  unfold State.putPiece
  split
  · exact h.upd rfl rfl rfl
  · exact h.upd rfl rfl rfl

theorem State.setFold_ran {q0 s : State} (h : q0.Ran s) (p : Nat) (v : Fold) : q0.Ran (State.setFold s p v) := by
  unfold State.setFold
  try dsimp only
  repeat' first
    | assumption
    | with_reducible refine State.Ran.foldl (fun hk a => ?_) _ ?_
    | split
    | with_reducible refine State.Ran.upd ?_ ?_ ?_ ?_
    | rfl

theorem State.modFold_ran {q0 s : State} (h : q0.Ran s) (p : Nat) (f : Fold → Fold) : q0.Ran (State.modFold s p f) := by
  unfold State.modFold
  try dsimp only
  repeat' first
    | assumption
    | with_reducible apply State.setFold_ran
    | with_reducible refine State.Ran.foldl (fun hk a => ?_) _ ?_
    | split
    | with_reducible refine State.Ran.upd ?_ ?_ ?_ ?_
    | rfl

theorem State.modL_ran {q0 s : State} (h : q0.Ran s) (f : Nat) (g : Fold → Fold) : q0.Ran (State.modL s f g) := by
  unfold State.modL
  try dsimp only
  repeat' first
    | assumption
    | with_reducible apply State.modFold_ran
    | with_reducible refine State.Ran.foldl (fun hk a => ?_) _ ?_
    | split
    | with_reducible refine State.Ran.upd ?_ ?_ ?_ ?_
    | rfl

theorem State.hand_ran {q0 s : State} (h : q0.Ran s) (w : Nat) : q0.Ran (State.hand s w) := by
  unfold State.hand
  try dsimp only
  repeat' first
    | assumption
    | with_reducible refine State.Ran.foldl (fun hk a => ?_) _ ?_
    | split
    | with_reducible refine State.Ran.upd ?_ ?_ ?_ ?_
    | rfl

theorem State.count_ran {q0 s : State} (h : q0.Ran s) (i : Nat) (n : Nat) : q0.Ran (State.count s i n) := by
  unfold State.count
  try dsimp only
  repeat' first
    | assumption
    | with_reducible refine State.Ran.foldl (fun hk a => ?_) _ ?_
    | split
    | with_reducible refine State.Ran.upd ?_ ?_ ?_ ?_
    | rfl

theorem State.corrected_ran {q0 s : State} (h : q0.Ran s)  : q0.Ran (State.corrected s ) := by
  unfold State.corrected
  try dsimp only
  repeat' first
    | assumption
    | with_reducible apply State.bumpFault_ran
    | with_reducible apply State.count_ran
    | with_reducible refine State.Ran.foldl (fun hk a => ?_) _ ?_
    | split
    | with_reducible refine State.Ran.upd ?_ ?_ ?_ ?_
    | rfl

theorem State.mergeWord_ran {q0 s : State} (h : q0.Ran s) (ps : List Piece) (w : Nat) : q0.Ran (State.mergeWord s ps w) := by
  unfold State.mergeWord
  try dsimp only
  repeat' first
    | assumption
    | with_reducible apply State.hand_ran
    | with_reducible apply State.corrected_ran
    | with_reducible refine State.Ran.foldl (fun hk a => ?_) _ ?_
    | split
    | with_reducible refine State.Ran.upd ?_ ?_ ?_ ?_
    | rfl

theorem State.poisonLine_ran {q0 s : State} (h : q0.Ran s) (ps : List Piece) (l : Nat) : q0.Ran (State.poisonLine s ps l) := by
  unfold State.poisonLine
  try dsimp only
  repeat' first
    | assumption
    | with_reducible refine State.Ran.foldl (fun hk a => ?_) _ ?_
    | split
    | with_reducible refine State.Ran.upd ?_ ?_ ?_ ?_
    | rfl

theorem State.putAll_ran {q0 s : State} (h : q0.Ran s) (ps : List Piece) : q0.Ran (State.putAll s ps) := by
  unfold State.putAll
  try dsimp only
  repeat' first
    | assumption
    | with_reducible apply State.mergeWord_ran
    | with_reducible apply State.poisonLine_ran
    | with_reducible apply State.putPiece_ran
    | with_reducible refine State.Ran.foldl (fun hk a => ?_) _ ?_
    | split
    | with_reducible refine State.Ran.upd ?_ ?_ ?_ ?_
    | rfl

theorem State.noteWord_ran {q0 s : State} (h : q0.Ran s) (w : Nat) : q0.Ran (State.noteWord s w) := by
  unfold State.noteWord
  try dsimp only
  repeat' first
    | assumption
    | with_reducible apply State.hand_ran
    | with_reducible apply State.corrected_ran
    | with_reducible refine State.Ran.foldl (fun hk a => ?_) _ ?_
    | split
    | with_reducible refine State.Ran.upd ?_ ?_ ?_ ?_
    | rfl

theorem State.noteReads_ran {q0 s : State} (h : q0.Ran s) (ws : List Nat) : q0.Ran (State.noteReads s ws) := by
  unfold State.noteReads
  try dsimp only
  repeat' first
    | assumption
    | with_reducible apply State.noteWord_ran
    | with_reducible refine State.Ran.foldl (fun hk a => ?_) _ ?_
    | split
    | with_reducible refine State.Ran.upd ?_ ?_ ?_ ?_
    | rfl

theorem State.choose_ran {r s : State} (h : r.Ran s) (n : Nat) : r.Ran (s.choose n).2 := h.upd rfl rfl rfl

theorem State.putHost_ran {q0 s : State} (h : q0.Ran s) (a : Nat) (l : List Byte) : q0.Ran (State.putHost s a l) := by
  unfold State.putHost
  try dsimp only
  repeat' first
    | assumption
    | with_reducible apply State.putAll_ran
    | with_reducible refine State.Ran.foldl (fun hk a => ?_) _ ?_
    | split
    | with_reducible refine State.Ran.upd ?_ ?_ ?_ ?_
    | rfl

theorem State.event_ran {q0 s : State} (h : q0.Ran s) (code : Nat) (fold : Option Nat) (tag : Nat) (brand : Nat) (pen : Nat) (info : Nat) : q0.Ran (State.event s code fold tag brand pen info) := by
  unfold State.event
  try dsimp only
  repeat' first
    | assumption
    | with_reducible apply State.bumpFault_ran
    | with_reducible apply State.count_ran
    | with_reducible refine State.Ran.foldl (fun hk a => ?_) _ ?_
    | split
    | with_reducible refine State.Ran.upd ?_ ?_ ?_ ?_
    | rfl

theorem State.note_ran {q0 s : State} (h : q0.Ran s) (code : Nat) (info : Nat) : q0.Ran (State.note s code info) := by
  unfold State.note
  try dsimp only
  repeat' first
    | assumption
    | with_reducible apply State.event_ran
    | with_reducible refine State.Ran.foldl (fun hk a => ?_) _ ?_
    | split
    | with_reducible refine State.Ran.upd ?_ ?_ ?_ ?_
    | rfl

theorem State.noteP_ran {q0 s : State} (h : q0.Ran s) (code : Nat) (pen : Nat) (info : Nat) : q0.Ran (State.noteP s code pen info) := by
  unfold State.noteP
  try dsimp only
  repeat' first
    | assumption
    | with_reducible apply State.event_ran
    | with_reducible refine State.Ran.foldl (fun hk a => ?_) _ ?_
    | split
    | with_reducible refine State.Ran.upd ?_ ?_ ?_ ?_
    | rfl

theorem State.noteF_ran {q0 s : State} (h : q0.Ran s) (code : Nat) (f : Nat) (info : Nat) : q0.Ran (State.noteF s code f info) := by
  unfold State.noteF
  try dsimp only
  repeat' first
    | assumption
    | with_reducible apply State.event_ran
    | with_reducible refine State.Ran.foldl (fun hk a => ?_) _ ?_
    | split
    | with_reducible refine State.Ran.upd ?_ ?_ ?_ ?_
    | rfl

theorem State.noteD_ran {q0 s : State} (h : q0.Ran s) (code : Nat) (f : Option Nat) (d : Desc) (info : Nat) : q0.Ran (State.noteD s code f d info) := by
  unfold State.noteD
  try dsimp only
  repeat' first
    | assumption
    | with_reducible apply State.event_ran
    | with_reducible refine State.Ran.foldl (fun hk a => ?_) _ ?_
    | split
    | with_reducible refine State.Ran.upd ?_ ?_ ?_ ?_
    | rfl

theorem State.modDesc_ran {q0 s : State} (h : q0.Ran s) (did : Nat) (f : Desc → Desc) : q0.Ran (State.modDesc s did f) := by
  unfold State.modDesc
  try dsimp only
  repeat' first
    | assumption
    | with_reducible refine State.Ran.foldl (fun hk a => ?_) _ ?_
    | split
    | with_reducible refine State.Ran.upd ?_ ?_ ?_ ?_
    | rfl

theorem State.dropDesc_ran {q0 s : State} (h : q0.Ran s) (did : Nat) : q0.Ran (State.dropDesc s did) := by
  unfold State.dropDesc
  try dsimp only
  repeat' first
    | assumption
    | with_reducible refine State.Ran.foldl (fun hk a => ?_) _ ?_
    | split
    | with_reducible refine State.Ran.upd ?_ ?_ ?_ ?_
    | rfl

theorem State.voidBound_ran {q0 s : State} (h : q0.Ran s) (did : Nat) : q0.Ran (State.voidBound s did) := by
  unfold State.voidBound
  try dsimp only
  repeat' first
    | assumption
    | with_reducible apply State.modDesc_ran
    | with_reducible refine State.Ran.foldl (fun hk a => ?_) _ ?_
    | split
    | with_reducible refine State.Ran.upd ?_ ?_ ?_ ?_
    | rfl

theorem State.voidBehind_ran {q0 s : State} (h : q0.Ran s) (st : Nat) (fs : List Nat) (all : Bool) : q0.Ran (State.voidBehind s st fs all) := by
  unfold State.voidBehind
  try dsimp only
  repeat' first
    | assumption
    | with_reducible refine State.Ran.foldl (fun hk a => ?_) _ ?_
    | split
    | with_reducible refine State.Ran.upd ?_ ?_ ?_ ?_
    | rfl

theorem State.voidBarred_ran {q0 s : State} (h : q0.Ran s)  : q0.Ran (State.voidBarred s ) := by
  unfold State.voidBarred
  try dsimp only
  repeat' first
    | assumption
    | with_reducible refine State.Ran.foldl (fun hk a => ?_) _ ?_
    | split
    | with_reducible refine State.Ran.upd ?_ ?_ ?_ ?_
    | rfl

theorem State.takeId_ran {r s : State} (h : r.Ran s) {port : Nat} {x : Nat × State} (e : s.takeId port = some x) : r.Ran x.2 := by
  have h1 := State.choose_ran h (s.freeIds port).length
  unfold State.takeId at e
  generalize s.freeIds port = l at e h1
  by_cases hb : (!(bit s.ready.sn.toNat port) || l.isEmpty) = true
  · simp [hb] at e
  · simp only [hb] at e
    obtain rfl := Option.some.inj e
    exact h1

theorem State.emit_ran {q0 s : State} (h : q0.Ran s) (r : SnReq) : q0.Ran (State.emit s r) := by
  unfold State.emit
  try dsimp only
  repeat' first
    | assumption
    | with_reducible refine State.Ran.foldl (fun hk a => ?_) _ ?_
    | split
    | with_reducible refine State.Ran.upd ?_ ?_ ?_ ?_
    | rfl

theorem State.passOwn_ran {q0 s : State} (h : q0.Ran s) (write : Bool) (w : List (Nat × Byte)) (lines : List Nat) : q0.Ran (State.passOwn s write w lines) := by
  unfold State.passOwn
  try dsimp only
  repeat' first
    | assumption
    | with_reducible apply State.takeId_ran
    | with_reducible apply State.emit_ran
    | with_reducible refine State.Ran.foldl (fun hk a => ?_) _ ?_
    | split
    | with_reducible refine State.Ran.upd ?_ ?_ ?_ ?_
    | rfl

theorem State.storeBytes_ran {q0 s : State} (h : q0.Ran s) (w : List (Nat × Byte)) : q0.Ran (State.storeBytes s w) := by
  unfold State.storeBytes
  try dsimp only
  repeat' first
    | assumption
    | with_reducible apply State.putAll_ran
    | with_reducible refine State.Ran.foldl (fun hk a => ?_) _ ?_
    | split
    | with_reducible refine State.Ran.upd ?_ ?_ ?_ ?_
    | rfl

theorem State.setArm_ran {q0 s : State} (h : q0.Ran s)  : q0.Ran (State.setArm s ) := by
  unfold State.setArm
  try dsimp only
  repeat' first
    | assumption
    | with_reducible refine State.Ran.foldl (fun hk a => ?_) _ ?_
    | split
    | with_reducible refine State.Ran.upd ?_ ?_ ?_ ?_
    | rfl

theorem State.leaveAll_ran {q0 s : State} (h : q0.Ran s) (did : Nat) : q0.Ran (State.leaveAll s did) := by
  unfold State.leaveAll
  try dsimp only
  repeat' first
    | assumption
    | with_reducible refine State.Ran.foldl (fun hk a => ?_) _ ?_
    | split
    | with_reducible refine State.Ran.upd ?_ ?_ ?_ ?_
    | rfl

theorem State.modPair_ran {q0 s : State} (h : q0.Ran s) (f : Nat) (g : Fold → Fold) : q0.Ran (State.modPair s f g) := by
  unfold State.modPair
  try dsimp only
  repeat' first
    | assumption
    | with_reducible apply State.modL_ran
    | with_reducible refine State.Ran.foldl (fun hk a => ?_) _ ?_
    | split
    | with_reducible refine State.Ran.upd ?_ ?_ ?_ ?_
    | rfl

theorem State.wake_ran {q0 s : State} (h : q0.Ran s) (fs : List Nat) : q0.Ran (State.wake s fs) := by
  unfold State.wake
  try dsimp only
  repeat' first
    | assumption
    | with_reducible apply State.modPair_ran
    | with_reducible refine State.Ran.foldl (fun hk a => ?_) _ ?_
    | split
    | with_reducible refine State.Ran.upd ?_ ?_ ?_ ?_
    | rfl

theorem State.dropLoads_ran {q0 s : State} (h : q0.Ran s) (d : Desc) : q0.Ran (State.dropLoads s d) := by
  unfold State.dropLoads
  try dsimp only
  repeat' first
    | assumption
    | with_reducible apply State.modPair_ran
    | with_reducible refine State.Ran.foldl (fun hk a => ?_) _ ?_
    | split
    | with_reducible refine State.Ran.upd ?_ ?_ ?_ ?_
    | rfl

theorem State.dropRoutes_ran {q0 s : State} (h : q0.Ran s) (d : Desc) : q0.Ran (State.dropRoutes s d) := by
  unfold State.dropRoutes
  try dsimp only
  repeat' first
    | assumption
    | with_reducible apply State.modPair_ran
    | with_reducible refine State.Ran.foldl (fun hk a => ?_) _ ?_
    | split
    | with_reducible refine State.Ran.upd ?_ ?_ ?_ ?_
    | rfl

theorem State.flushHeld_ran {q0 s : State} (h : q0.Ran s) (d : Desc) : q0.Ran (State.flushHeld s d) := by
  unfold State.flushHeld
  try dsimp only
  repeat' first
    | assumption
    | with_reducible apply State.putAll_ran
    | with_reducible refine State.Ran.foldl (fun hk a => ?_) _ ?_
    | split
    | with_reducible refine State.Ran.upd ?_ ?_ ?_ ?_
    | rfl

theorem State.endAgain_ran {q0 s : State} (h : q0.Ran s) (d : Desc) (st : Status) : q0.Ran (State.endAgain s d st) := by
  unfold State.endAgain
  try dsimp only
  repeat' first
    | assumption
    | with_reducible apply State.modDesc_ran
    | with_reducible refine State.Ran.foldl (fun hk a => ?_) _ ?_
    | split
    | with_reducible refine State.Ran.upd ?_ ?_ ?_ ?_
    | rfl

theorem State.endEarly_ran {q0 s : State} (h : q0.Ran s) (did : Nat) (st : Status) : q0.Ran (State.endEarly s did st) := by
  unfold State.endEarly
  try dsimp only
  repeat' first
    | assumption
    | with_reducible apply State.modDesc_ran
    | with_reducible apply State.voidBarred_ran
    | with_reducible apply State.setArm_ran
    | with_reducible apply State.leaveAll_ran
    | with_reducible apply State.dropLoads_ran
    | with_reducible apply State.dropRoutes_ran
    | with_reducible apply State.flushHeld_ran
    | with_reducible apply State.endAgain_ran
    | with_reducible refine State.Ran.foldl (fun hk a => ?_) _ ?_
    | split
    | with_reducible refine State.Ran.upd ?_ ?_ ?_ ?_
    | rfl

theorem State.finish_ran {q0 s : State} (h : q0.Ran s) (did : Nat) : q0.Ran (State.finish s did) := by
  unfold State.finish
  try dsimp only
  repeat' first
    | assumption
    | with_reducible apply State.modDesc_ran
    | with_reducible apply State.setArm_ran
    | with_reducible apply State.leaveAll_ran
    | with_reducible apply State.dropRoutes_ran
    | with_reducible refine State.Ran.foldl (fun hk a => ?_) _ ?_
    | split
    | with_reducible refine State.Ran.upd ?_ ?_ ?_ ?_
    | rfl

theorem State.commit_ran {q0 s : State} (h : q0.Ran s) (d : Desc) (f : Nat) (u : Nat) (o : Out) : q0.Ran (State.commit s d f u o) := by
  unfold State.commit
  try dsimp only
  repeat' first
    | assumption
    | with_reducible apply State.putAll_ran
    | with_reducible apply State.noteReads_ran
    | with_reducible apply State.noteD_ran
    | with_reducible apply State.modDesc_ran
    | with_reducible apply State.modPair_ran
    | with_reducible refine State.Ran.foldl (fun hk a => ?_) _ ?_
    | split
    | with_reducible refine State.Ran.upd ?_ ?_ ?_ ?_
    | rfl

theorem State.loadRoute_ran {q0 s : State} (h : q0.Ran s) (d : Desc) (f : Nat) : q0.Ran (State.loadRoute s d f) := by
  unfold State.loadRoute
  try dsimp only
  repeat' first
    | assumption
    | with_reducible apply State.modL_ran
    | with_reducible apply State.noteReads_ran
    | with_reducible refine State.Ran.foldl (fun hk a => ?_) _ ?_
    | split
    | with_reducible refine State.Ran.upd ?_ ?_ ?_ ?_
    | rfl

theorem State.latchPermute_ran {q0 s : State} (h : q0.Ran s) (d : Desc) (f : Nat) : q0.Ran (State.latchPermute s d f) := by
  unfold State.latchPermute
  try dsimp only
  repeat' first
    | assumption
    | with_reducible apply State.modPair_ran
    | with_reducible refine State.Ran.foldl (fun hk a => ?_) _ ?_
    | split
    | with_reducible refine State.Ran.upd ?_ ?_ ?_ ?_
    | rfl

theorem State.pickPieces_ran : ∀ {r s : State} (_ : r.Ran s) (l : List (List Piece)), r.Ran (s.pickPieces l).1
  | _, _, h, [] => h
  | _, _, h, [] :: l => State.pickPieces_ran h l
  | _, s, h, (p :: q) :: l => by
    unfold State.pickPieces
    split
    · exact State.pickPieces_ran h l
    · exact State.pickPieces_ran (State.choose_ran h _) l

theorem State.settleBytes_ran (old : Nat → Bool) : ∀ {r s : State} (_ : r.Ran s) (l : List Piece), r.Ran (s.settleBytes old l).1
  | _, _, h, [] => h
  | _, s, h, p :: l => by
    unfold State.settleBytes
    split
    · exact State.settleBytes_ran old (State.choose_ran h 2) l
    · exact State.settleBytes_ran old h l

theorem State.putFree_ran {r s : State} (h : r.Ran s) (ps : List Piece) : r.Ran (s.putFree ps) :=
  State.putAll_ran (State.pickPieces_ran h _) _

theorem State.raceByte_ran : ∀ (n : Nat) {r s : State} (_ : r.Ran s) (ps : List (Piece × (Byte × Bool))) (cur : Byte × Bool),
    r.Ran (State.raceByte n s ps cur).1
  | 0, _, _, h, _, _ => h
  | _ + 1, _, _, h, [], _ => h
  | n + 1, _, _, h, _ :: _, _ => State.raceByte_ran n (State.choose_ran (State.choose_ran h _) _) _ _

theorem State.raceBytes_ran : ∀ {r s : State} (_ : r.Ran s) (wins : List Win) (l : List Nat), r.Ran (s.raceBytes wins l).1
  | _, _, h, _, [] => h
  | r, s, h, wins, k :: l => by
    have hf : ∀ (m : List (List (Piece × (Byte × Bool)))) (acc : State × List (Piece × (Byte × Bool))), r.Ran acc.1 →
        r.Ran (m.foldl (fun (acc : State × List (Piece × (Byte × Bool))) w =>
          ((acc.1.pickPieces (groupPieces (w.map Prod.fst))).1,
            acc.2 ++ (mergePieces (acc.1.pickPieces (groupPieces (w.map Prod.fst))).2).map (fun p =>
              (p, (w.head?.map Prod.snd).getD (s.hostByte k))))) acc).1 := by
      intro m
      induction m with
      | nil => intro acc ha; exact ha
      | cons w m ih => intro acc ha; exact ih _ (State.pickPieces_ran ha _)
    exact State.raceBytes_ran (State.raceByte_ran _ (hf _ (s, []) h) _ _) wins l

theorem State.settleWins_ran {r s : State} (h : r.Ran s) (d : Desc) (wins : List Win) (keys : List (Bool × Nat)) :
    r.Ran (s.settleWins d wins keys) := by
  unfold State.settleWins
  extract_lets here x
  split
  · exact State.putAll_ran (State.raceBytes_ran h _ _) _
  · split
    · exact State.putFree_ran h _
    · exact State.putFree_ran h _

theorem State.holdLines_ran {r s : State} (h : r.Ran s) (d : Desc) (f u : Nat) (o : Out) : r.Ran (s.holdLines d f u o).1 := by
  unfold State.holdLines
  split
  · exact h
  · exact State.modL_ran h _ _

theorem State.payLines_ran {r s : State} (h : r.Ran s) (d : Desc) (n : Nat) : r.Ran (s.payLines d n) := by
  have h1 := State.modDesc_ran h d.did (fun e => { e with issued := e.issued + 64 * n })
  unfold State.payLines
  extract_lets tok s1
  split
  · exact h1
  · exact State.Ran.tokens h1 _ _ _

theorem State.waitFor_ran {q0 s : State} (h : q0.Ran s) (did : Nat) (f : Nat) : q0.Ran (State.waitFor s did f) := by
  unfold State.waitFor
  try dsimp only
  repeat' first
    | assumption
    | with_reducible refine State.Ran.foldl (fun hk a => ?_) _ ?_
    | split
    | with_reducible refine State.Ran.upd ?_ ?_ ?_ ?_
    | rfl

theorem State.noWait_ran {q0 s : State} (h : q0.Ran s) (did : Nat) (f : Nat) : q0.Ran (State.noWait s did f) := by
  unfold State.noWait
  try dsimp only
  repeat' first
    | assumption
    | with_reducible refine State.Ran.foldl (fun hk a => ?_) _ ?_
    | split
    | with_reducible refine State.Ran.upd ?_ ?_ ?_ ?_
    | rfl

theorem State.lineId_ran {r s : State} (h : r.Ran s) {d : Desc} {line : Nat} {write : Bool} {x : Nat × Nat × State}
    (e : s.lineId d line write = some x) : r.Ran x.2.2 := by
  unfold State.lineId at e
  dsimp only at e
  split at e
  · split at e
    · obtain rfl := Option.some.inj e
      exact h
    · cases e
  · obtain ⟨u, hu, e⟩ := Option.map_eq_some_iff.mp e
    subst e
    exact State.modDesc_ran (State.takeId_ran h hu) _ _
  · obtain ⟨u, hu, e⟩ := Option.map_eq_some_iff.mp e
    subst e
    exact State.takeId_ran h hu

theorem State.passBeat_ran {r s : State} (h : r.Ran s) (d : Desc) (l : HLine) (beat : BitVec 512 × BitVec 64 × Bool) :
    r.Ran (s.passBeat d l beat) := by
  unfold State.passBeat
  split
  · exact h
  · next e =>
    obtain ⟨_, _, e⟩ := Option.bind_eq_some_iff.mp e
    exact State.emit_ran (State.lineId_ran h e) _

theorem State.passRead_ran {r s : State} (h : r.Ran s) (d : Desc) (l : HLine) : r.Ran (s.passRead d l) := by
  unfold State.passRead
  split
  · exact h
  · next e => exact State.emit_ran (State.lineId_ran h e) _

theorem State.passLines_ran {q0 s : State} (h : q0.Ran s) (d : Desc) (write : Bool) (ps : List Piece) (hs : List HLine) : q0.Ran (State.passLines s d write ps hs) := by
  unfold State.passLines
  try dsimp only
  repeat' first
    | assumption
    | with_reducible apply State.passBeat_ran
    | with_reducible apply State.passRead_ran
    | with_reducible refine State.Ran.foldl (fun hk a => ?_) _ ?_
    | split
    | with_reducible refine State.Ran.upd ?_ ?_ ?_ ?_
    | rfl

theorem State.freeLanding_ran {q0 s : State} (h : q0.Ran s) (d : Desc) (f : Nat) (u : Nat) : q0.Ran (State.freeLanding s d f u) := by
  unfold State.freeLanding
  try dsimp only
  repeat' first
    | assumption
    | with_reducible apply State.modL_ran
    | with_reducible refine State.Ran.foldl (fun hk a => ?_) _ ?_
    | split
    | with_reducible refine State.Ran.upd ?_ ?_ ?_ ?_
    | rfl

theorem State.putXfer_ran {q0 s : State} (h : q0.Ran s) (x : Transfer) : q0.Ran (State.putXfer s x) := by
  unfold State.putXfer
  try dsimp only
  repeat' first
    | assumption
    | with_reducible refine State.Ran.foldl (fun hk a => ?_) _ ?_
    | split
    | with_reducible refine State.Ran.upd ?_ ?_ ?_ ?_
    | rfl

theorem State.sendLeg_ran {q0 s : State} (h : q0.Ran s) (d : Desc) (x : Transfer) (len : Nat) : q0.Ran (State.sendLeg s d x len) := by
  unfold State.sendLeg
  try dsimp only
  repeat' first
    | assumption
    | with_reducible apply State.putAll_ran
    | with_reducible apply State.wake_ran
    | with_reducible apply State.putXfer_ran
    | with_reducible refine State.Ran.foldl (fun hk a => ?_) _ ?_
    | split
    | with_reducible refine State.Ran.upd ?_ ?_ ?_ ?_
    | rfl

theorem State.startLeg_ran {q0 s : State} (h : q0.Ran s) (d : Desc) (k : Nat) (pass : Bool) : q0.Ran (State.startLeg s d k pass) := by
  unfold State.startLeg
  try dsimp only
  repeat' first
    | assumption
    | with_reducible apply State.sendLeg_ran
    | with_reducible refine State.Ran.foldl (fun hk a => ?_) _ ?_
    | split
    | with_reducible refine State.Ran.upd ?_ ?_ ?_ ?_
    | rfl

theorem State.runLegs_ran {q0 s : State} (h : q0.Ran s) (did : Nat) : q0.Ran (State.runLegs s did) := by
  unfold State.runLegs
  try dsimp only
  repeat' first
    | assumption
    | with_reducible apply State.startLeg_ran
    | with_reducible refine State.Ran.foldl (fun hk a => ?_) _ ?_
    | split
    | with_reducible refine State.Ran.upd ?_ ?_ ?_ ?_
    | rfl

theorem State.settle_ran {r s : State} (h : r.Ran s) (d : Desc) (o : Out) : r.Ran (s.settle d o).1 := by
  unfold State.settle
  split
  · exact State.settleBytes_ran _ (State.pickPieces_ran h _) _
  · exact h

theorem State.stepProg_ran {q0 s : State} (h : q0.Ran s) (did : Nat) (f : Nat) (u : Nat) : q0.Ran (State.stepProg s did f u) := by
  unfold State.stepProg
  try dsimp only
  repeat' first
    | assumption
    | with_reducible apply State.modDesc_ran
    | with_reducible refine State.Ran.foldl (fun hk a => ?_) _ ?_
    | split
    | with_reducible refine State.Ran.upd ?_ ?_ ?_ ?_
    | rfl

theorem State.commitRacy_ran {r s : State} (h : r.Ran s) (d : Desc) (f u : Nat) (o : Out) : r.Ran (s.commitRacy d f u o) :=
  State.modDesc_ran (State.commit_ran (State.settleWins_ran h _ _ _) _ _ _ _) _ _

theorem State.commitUnit_ran {r s : State} (h : r.Ran s) (d : Desc) (f u : Nat) (ls : List Nat) (ws : List HLine) :
    r.Ran (s.commitUnit d f u ls ws) := by
  unfold State.commitUnit
  extract_lets o x y s1
  have h1 : r.Ran s1 := by
    show r.Ran (if _ then _ else _)
    split
    · exact State.commitRacy_ran (State.passLines_ran h _ _ _ _) _ _ _ _
    · exact State.commit_ran (State.passLines_ran (State.holdLines_ran (State.settle_ran h _ _) _ _ _ _) _ _ _ _) _ _ _ _
  exact State.freeLanding_ran (State.latchPermute_ran (State.stepProg_ran h1 _ _ _) _ _) _ _ _

theorem State.unpair_ran {r s : State} (h : r.Ran s) (k : Nat) : r.Ran (s.unpair k) := by
  unfold State.unpair
  split
  · exact h
  · next t e => exact State.noteF_ran (State.Ran.twin h k { t with active := false, fault := true, prep := false } e rfl) _ _ _

theorem State.mismatch_ran {q0 s : State} (h : q0.Ran s) (k : Nat) (did : Nat) (f : Nat) (shd : Nat) : q0.Ran (State.mismatch s k did f shd) := by
  unfold State.mismatch
  try dsimp only
  repeat' first
    | assumption
    | with_reducible apply State.modL_ran
    | with_reducible apply State.endEarly_ran
    | with_reducible apply State.unpair_ran
    | with_reducible refine State.Ran.foldl (fun hk a => ?_) _ ?_
    | split
    | with_reducible refine State.Ran.upd ?_ ?_ ?_ ?_
    | rfl

theorem State.disagree_ran {r s : State} (h : r.Ran s) (d : Desc) (f u : Nat) (ls : List Nat) : r.Ran (s.disagree d f u ls) := by
  unfold State.disagree
  split
  · exact h
  · extract_lets seen s1 s2 s3
    have h2 : r.Ran s2 := State.voidBound_ran (State.noteD_ran (State.noteReads_ran h _) _ _ _ _) _
    have h3 : r.Ran s3 := by
      show r.Ran (if _ then _ else _)
      split
      · exact h2
      · exact State.noteD_ran h2 _ _ _ _
    exact State.mismatch_ran h3 _ _ _ _

theorem State.landPart_ran {q0 s : State} (h : q0.Ran s) (did : Nat) (f : Nat) (u : Nat) (hs : List HLine) : q0.Ran (State.landPart s did f u hs) := by
  unfold State.landPart
  try dsimp only
  repeat' first
    | assumption
    | with_reducible apply State.modL_ran
    | with_reducible apply State.modDesc_ran
    | with_reducible refine State.Ran.foldl (fun hk a => ?_) _ ?_
    | split
    | with_reducible refine State.Ran.upd ?_ ?_ ?_ ?_
    | rfl

theorem State.unitBytes_ran {r s : State} (h : r.Ran s) (d : Desc) (f u : Nat) (ls : List Nat) : r.Ran (s.unitBytes d f u ls).1 := by
  unfold State.unitBytes
  extract_lets o x
  split
  · exact h
  · exact State.settle_ran h _ _

theorem State.writePart_ran {r s : State} (h : r.Ran s) (d : Desc) (f u : Nat) (ls : List Nat) (hs : List HLine) :
    r.Ran (s.writePart d f u ls hs) :=
  State.modDesc_ran (State.putAll_ran (State.passLines_ran (State.unitBytes_ran h _ _ _ _) _ _ _ _) _) _ _

theorem State.deal_ran {r s : State} (h : r.Ran s) (d : Desc) (asks : Progress) : r.Ran (s.deal d asks).1 := by
  unfold State.deal
  extract_lets fs g got s1
  refine State.Ran.foldl (fun {r s} hk x => ?_) _ (State.payLines_ran h _ _)
  extract_lets k
  split
  · exact State.noWait_ran hk _ _
  · refine State.waitFor_ran ?_ _ _
    split
    · exact hk
    · exact State.noWait_ran hk _ _

theorem State.rewrite_ran {q0 s : State} (h : q0.Ran s) (d : Desc) (ws : List WLine) : q0.Ran (State.rewrite s d ws) := by
  unfold State.rewrite
  try dsimp only
  repeat' first
    | assumption
    | with_reducible apply State.putAll_ran
    | with_reducible apply State.modDesc_ran
    | with_reducible apply State.passBeat_ran
    | with_reducible refine State.Ran.foldl (fun hk a => ?_) _ ?_
    | split
    | with_reducible refine State.Ran.upd ?_ ?_ ?_ ?_
    | rfl

theorem State.runUnits_ran (did f : Nat) (us : List (List Nat)) : ∀ (l : List (List Nat)) (u k : Nat) {r s : State} (_ : r.Ran s),
    r.Ran (s.runUnits did f us u k l)
  | [], _, _, _, _, h => h
  | ls :: l, u, k, r, s, h => by
    unfold State.runUnits
    split
    · next d p e1 e2 =>
      split
      · exact h
      · extract_lets rs ws t
        have ht : r.Ran t := State.passLines_ran h _ _ _ _
        split
        · exact State.landPart_ran ht _ _ _ _
        · split
          · exact State.disagree_ran ht _ _ _ _
          · split
            · exact State.writePart_ran (State.landPart_ran ht _ _ _ _) _ _ _ _ _
            · exact State.runUnits_ran did f us l _ _ (State.commitUnit_ran (State.noteReads_ran ht _) _ _ _ _ _)
    · exact h

theorem State.runFold_ran {r s : State} (h : r.Ran s) (d : Desc) (f : Nat) (us : List (List Nat)) (u k : Nat) (ls : List (List Nat)) :
    r.Ran (s.runFold d f us u k ls) := by
  unfold State.runFold
  extract_lets n t
  have ht : r.Ran t := State.rewrite_ran h _ _
  split
  · exact ht
  · exact State.runUnits_ran _ _ _ _ _ _ ht

theorem State.runStage_ran {r s : State} (h : r.Ran s) (did b : Nat) (want : Nat → Nat) : r.Ran (s.runStage did b want) := by
  unfold State.runStage
  split
  · exact h
  · extract_lets goal mine g
    exact State.Ran.foldl (fun hk x => State.runFold_ran hk _ _ _ _ _ _) _ (State.deal_ran h _ _)

theorem State.stages_ran (did : Nat) (want : Nat → Nat) : ∀ (l : List Nat) {r s : State} (_ : r.Ran s), r.Ran (s.stages did want l)
  | [], _, _, h => h
  | b :: l, r, s, h => by
    unfold State.stages
    extract_lets t
    have ht : r.Ran t := State.runStage_ran (State.runLegs_ran h _) _ _ _
    split
    · exact State.stages_ran did want l ht
    · exact ht

theorem State.refuseLate_ran {q0 s : State} (h : q0.Ran s) (did : Nat) (st : Status) : q0.Ran (State.refuseLate s did st) := by
  unfold State.refuseLate
  try dsimp only
  repeat' first
    | assumption
    | with_reducible apply State.noteD_ran
    | with_reducible apply State.modDesc_ran
    | with_reducible apply State.endEarly_ran
    | with_reducible refine State.Ran.foldl (fun hk a => ?_) _ ?_
    | split
    | with_reducible refine State.Ran.upd ?_ ?_ ?_ ?_
    | rfl

theorem State.readCheck_ran {r s : State} (h : r.Ran s) (d : Desc) : r.Ran (s.readCheck d) := by
  unfold State.readCheck
  extract_lets mine asks g
  refine State.Ran.foldl (fun {r s} hk x => ?_) _ (State.deal_ran h _ _)
  exact State.landPart_ran (State.passLines_ran hk _ _ _ _) _ _ _ _

theorem State.checkPass_ran {q0 s : State} (h : q0.Ran s) (did : Nat) : q0.Ran (State.checkPass s did) := by
  unfold State.checkPass
  try dsimp only
  repeat' first
    | assumption
    | with_reducible apply State.noteReads_ran
    | with_reducible apply State.refuseLate_ran
    | with_reducible apply State.readCheck_ran
    | with_reducible refine State.Ran.foldl (fun hk a => ?_) _ ?_
    | split
    | with_reducible refine State.Ran.upd ?_ ?_ ?_ ?_
    | rfl

theorem State.leaveDone_ran {q0 s : State} (h : q0.Ran s) (did : Nat) : q0.Ran (State.leaveDone s did) := by
  unfold State.leaveDone
  try dsimp only
  repeat' first
    | assumption
    | with_reducible apply State.modPair_ran
    | with_reducible refine State.Ran.foldl (fun hk a => ?_) _ ?_
    | split
    | with_reducible refine State.Ran.upd ?_ ?_ ?_ ?_
    | rfl

theorem State.advance_ran {r s : State} (h : r.Ran s) (did : Nat) (want : Nat → Nat) : r.Ran (s.advance did want) := by
  unfold State.advance
  split
  · exact h
  · split
    · exact h
    · extract_lets s1
      have h1 : r.Ran s1 := State.checkPass_ran h _
      split
      · exact h1
      · split
        · exact h1
        · exact State.leaveDone_ran (State.stages_ran _ _ _ h1) _

theorem State.advanceAll_ran {q0 s : State} (h : q0.Ran s) (did : Nat) : q0.Ran (State.advanceAll s did) := by
  unfold State.advanceAll
  try dsimp only
  repeat' first
    | assumption
    | with_reducible apply State.advance_ran
    | with_reducible refine State.Ran.foldl (fun hk a => ?_) _ ?_
    | split
    | with_reducible refine State.Ran.upd ?_ ?_ ?_ ?_
    | rfl

theorem State.armPort_ran {q0 s : State} (h : q0.Ran s) (d : Desc) : q0.Ran (State.armPort s d) := by
  unfold State.armPort
  try dsimp only
  repeat' first
    | assumption
    | with_reducible apply State.modDesc_ran
    | with_reducible refine State.Ran.foldl (fun hk a => ?_) _ ?_
    | split
    | with_reducible refine State.Ran.upd ?_ ?_ ?_ ?_
    | rfl

theorem State.startFold_ran {q0 s : State} (h : q0.Ran s) (d : Desc) (f : Nat) : q0.Ran (State.startFold s d f) := by
  unfold State.startFold
  try dsimp only
  repeat' first
    | assumption
    | with_reducible apply State.modDesc_ran
    | with_reducible apply State.modPair_ran
    | with_reducible apply State.loadRoute_ran
    | with_reducible apply State.armPort_ran
    | with_reducible refine State.Ran.foldl (fun hk a => ?_) _ ?_
    | split
    | with_reducible refine State.Ran.upd ?_ ?_ ?_ ?_
    | rfl

theorem State.joinFolds_ran {q0 s : State} (h : q0.Ran s) (did : Nat) : q0.Ran (State.joinFolds s did) := by
  unfold State.joinFolds
  try dsimp only
  repeat' first
    | assumption
    | with_reducible apply State.startFold_ran
    | with_reducible refine State.Ran.foldl (fun hk a => ?_) _ ?_
    | split
    | with_reducible refine State.Ran.upd ?_ ?_ ?_ ?_
    | rfl

theorem State.begin_ran {q0 s : State} (h : q0.Ran s) (did : Nat) : q0.Ran (State.begin s did) := by
  unfold State.begin
  try dsimp only
  repeat' first
    | assumption
    | with_reducible apply State.noteReads_ran
    | with_reducible apply State.modDesc_ran
    | with_reducible apply State.refuseLate_ran
    | with_reducible apply State.joinFolds_ran
    | with_reducible refine State.Ran.foldl (fun hk a => ?_) _ ?_
    | split
    | with_reducible refine State.Ran.upd ?_ ?_ ?_ ?_
    | rfl

theorem State.ensure_ran {q0 s : State} (h : q0.Ran s) (did : Nat) : q0.Ran (State.ensure s did) := by
  unfold State.ensure
  try dsimp only
  repeat' first
    | assumption
    | with_reducible apply State.joinFolds_ran
    | with_reducible apply State.begin_ran
    | with_reducible refine State.Ran.foldl (fun hk a => ?_) _ ?_
    | split
    | with_reducible refine State.Ran.upd ?_ ?_ ?_ ?_
    | rfl

theorem State.complete_ran {q0 s : State} (h : q0.Ran s) (did : Nat) : q0.Ran (State.complete s did) := by
  unfold State.complete
  try dsimp only
  repeat' first
    | assumption
    | with_reducible apply State.finish_ran
    | with_reducible apply State.refuseLate_ran
    | with_reducible apply State.advanceAll_ran
    | with_reducible refine State.Ran.foldl (fun hk a => ?_) _ ?_
    | split
    | with_reducible refine State.Ran.upd ?_ ?_ ?_ ?_
    | rfl

theorem State.runOpcode_ran {q0 s : State} (h : q0.Ran s) (o : Opc) (did : Nat) : q0.Ran (State.runOpcode s o did) := by
  unfold State.runOpcode
  try dsimp only
  repeat' first
    | assumption
    | with_reducible apply State.ensure_ran
    | with_reducible apply State.complete_ran
    | with_reducible refine State.Ran.foldl (fun hk a => ?_) _ ?_
    | split
    | with_reducible refine State.Ran.upd ?_ ?_ ?_ ?_
    | rfl

theorem State.stopAt_ran {q0 s : State} (h : q0.Ran s) (did : Nat) (pts : Progress) (st : Status) : q0.Ran (State.stopAt s did pts st) := by
  unfold State.stopAt
  try dsimp only
  repeat' first
    | assumption
    | with_reducible apply State.endEarly_ran
    | with_reducible apply State.advance_ran
    | with_reducible refine State.Ran.foldl (fun hk a => ?_) _ ?_
    | split
    | with_reducible refine State.Ran.upd ?_ ?_ ?_ ?_
    | rfl

theorem State.loseAll_ran {q0 s : State} (h : q0.Ran s) (dids : List Nat) (pts : List (Nat × Progress)) : q0.Ran (State.loseAll s dids pts) := by
  unfold State.loseAll
  try dsimp only
  repeat' first
    | assumption
    | with_reducible apply State.stopAt_ran
    | with_reducible refine State.Ran.foldl (fun hk a => ?_) _ ?_
    | split
    | with_reducible refine State.Ran.upd ?_ ?_ ?_ ?_
    | rfl

theorem State.voidFold_ran {q0 s : State} (h : q0.Ran s) (f : Nat) : q0.Ran (State.voidFold s f) := by
  unfold State.voidFold
  try dsimp only
  repeat' first
    | assumption
    | with_reducible refine State.Ran.foldl (fun hk a => ?_) _ ?_
    | split
    | with_reducible refine State.Ran.upd ?_ ?_ ?_ ?_
    | rfl

theorem State.copySlice_ran {q0 s0 : State} (h : q0.Ran s0) (a : Nat) (b : Nat) : q0.Ran (State.copySlice s0 a b) := by
  unfold State.copySlice
  try dsimp only
  repeat' first
    | assumption
    | with_reducible apply State.noteReads_ran
    | with_reducible refine State.Ran.foldl (fun hk a => ?_) _ ?_
    | split
    | with_reducible refine State.Ran.upd ?_ ?_ ?_ ?_
    | rfl

theorem State.loseSlice_ran {q0 s : State} (h : q0.Ran s) (b : Nat) : q0.Ran (State.loseSlice s b) := by
  unfold State.loseSlice
  try dsimp only
  repeat' first
    | assumption
    | with_reducible refine State.Ran.foldl (fun hk a => ?_) _ ?_
    | split
    | with_reducible refine State.Ran.upd ?_ ?_ ?_ ?_
    | rfl

theorem State.modEpoch_ran {q0 s : State} (h : q0.Ran s) (f : Epoch → Epoch) : q0.Ran (State.modEpoch s f) := by
  unfold State.modEpoch
  try dsimp only
  repeat' first
    | assumption
    | with_reducible refine State.Ran.foldl (fun hk a => ?_) _ ?_
    | split
    | with_reducible refine State.Ran.upd ?_ ?_ ?_ ?_
    | rfl

theorem State.sendBytes_ran {q0 s : State} (h : q0.Ran s) (a : Nat) (l : List Byte) : q0.Ran (s.sendBytes a l) :=
  State.putHost_ran (State.passOwn_ran h _ _ _) _ _

theorem State.putFrames_ran {q0 s : State} (h : q0.Ran s) (x : Export) (n : Nat) : q0.Ran (s.putFrames x n) :=
  State.Ran.foldl (fun hk _ => State.sendBytes_ran hk _ _) _ h

theorem State.faultRecord_ran {q0 s : State} (h : q0.Ran s) (d : Desc) : q0.Ran (State.faultRecord s d) := by
  unfold State.faultRecord
  try dsimp only
  repeat' first
    | assumption
    | with_reducible apply State.bumpFault_ran
    | with_reducible refine State.Ran.foldl (fun hk a => ?_) _ ?_
    | split
    | with_reducible refine State.Ran.upd ?_ ?_ ?_ ?_
    | rfl

theorem State.relAtEnd_ran {q0 s : State} (h : q0.Ran s) (d : Desc) : q0.Ran (State.relAtEnd s d) := by
  unfold State.relAtEnd
  try dsimp only
  repeat' first
    | assumption
    | with_reducible apply State.modPair_ran
    | with_reducible refine State.Ran.foldl (fun hk a => ?_) _ ?_
    | split
    | with_reducible refine State.Ran.upd ?_ ?_ ?_ ?_
    | rfl

theorem State.installAtEnd_ran {q0 s : State} (h : q0.Ran s) (d : Desc) : q0.Ran (State.installAtEnd s d) := by
  unfold State.installAtEnd
  try dsimp only
  repeat' first
    | assumption
    | with_reducible apply State.modPair_ran
    | with_reducible refine State.Ran.foldl (fun hk a => ?_) _ ?_
    | split
    | with_reducible refine State.Ran.upd ?_ ?_ ?_ ?_
    | rfl

theorem State.voidWaiters_ran {q0 s : State} (h : q0.Ran s) (did : Nat) : q0.Ran (State.voidWaiters s did) := by
  unfold State.voidWaiters
  try dsimp only
  repeat' first
    | assumption
    | with_reducible refine State.Ran.foldl (fun hk a => ?_) _ ?_
    | split
    | with_reducible refine State.Ran.upd ?_ ?_ ?_ ?_
    | rfl

theorem State.readWord_ran {q0 s : State} (h : q0.Ran s) (a : Nat) : q0.Ran (State.readWord s a) := by
  unfold State.readWord
  try dsimp only
  repeat' first
    | assumption
    | with_reducible apply State.passOwn_ran
    | with_reducible refine State.Ran.foldl (fun hk a => ?_) _ ?_
    | split
    | with_reducible refine State.Ran.upd ?_ ?_ ?_ ?_
    | rfl

theorem State.refuse_ran {q0 s : State} (h : q0.Ran s) (did : Nat) (st : Status) : q0.Ran (State.refuse s did st) := by
  unfold State.refuse
  try dsimp only
  repeat' first
    | assumption
    | with_reducible apply State.modDesc_ran
    | with_reducible refine State.Ran.foldl (fun hk a => ?_) _ ?_
    | split
    | with_reducible refine State.Ran.upd ?_ ?_ ?_ ?_
    | rfl

theorem State.noteRemaps_ran {q0 s : State} (h : q0.Ran s) (d : Desc) : q0.Ran (State.noteRemaps s d) := by
  unfold State.noteRemaps
  try dsimp only
  repeat' first
    | assumption
    | with_reducible apply State.noteD_ran
    | with_reducible refine State.Ran.foldl (fun hk a => ?_) _ ?_
    | split
    | with_reducible refine State.Ran.upd ?_ ?_ ?_ ?_
    | rfl

theorem State.hold_ran {q0 s : State} (h : q0.Ran s) (d : Desc) (w : HoldWhy) : q0.Ran (State.hold s d w) := by
  unfold State.hold
  try dsimp only
  repeat' first
    | assumption
    | with_reducible apply State.count_ran
    | with_reducible apply State.modDesc_ran
    | with_reducible refine State.Ran.foldl (fun hk a => ?_) _ ?_
    | split
    | with_reducible refine State.Ran.upd ?_ ?_ ?_ ?_
    | rfl

theorem State.suspendOn_ran {q0 s : State} (h : q0.Ran s) (f : Nat) (did : Nat) (why : SuspWhy) : q0.Ran (State.suspendOn s f did why) := by
  unfold State.suspendOn
  try dsimp only
  repeat' first
    | assumption
    | with_reducible apply State.voidBarred_ran
    | with_reducible apply State.modPair_ran
    | with_reducible refine State.Ran.foldl (fun hk a => ?_) _ ?_
    | split
    | with_reducible refine State.Ran.upd ?_ ?_ ?_ ?_
    | rfl

theorem State.advanceOne_ran {q0 s : State} (h : q0.Ran s) (did : Nat) (f : Nat) (u : Nat) : q0.Ran (State.advanceOne s did f u) := by
  unfold State.advanceOne
  try dsimp only
  repeat' first
    | assumption
    | with_reducible apply State.advance_ran
    | with_reducible refine State.Ran.foldl (fun hk a => ?_) _ ?_
    | split
    | with_reducible refine State.Ran.upd ?_ ?_ ?_ ?_
    | rfl

theorem State.resumeOn_ran {q0 s : State} (h : q0.Ran s) (f : Nat) (did : Nat) : q0.Ran (State.resumeOn s f did) := by
  unfold State.resumeOn
  try dsimp only
  repeat' first
    | assumption
    | with_reducible apply State.modDesc_ran
    | with_reducible apply State.modPair_ran
    | with_reducible apply State.loadRoute_ran
    | with_reducible refine State.Ran.foldl (fun hk a => ?_) _ ?_
    | split
    | with_reducible refine State.Ran.upd ?_ ?_ ?_ ?_
    | rfl

theorem State.endFault_ran {q0 s : State} (h : q0.Ran s) (did : Nat) (pts : Progress) : q0.Ran (State.endFault s did pts) := by
  unfold State.endFault
  try dsimp only
  repeat' first
    | assumption
    | with_reducible apply State.stopAt_ran
    | with_reducible refine State.Ran.foldl (fun hk a => ?_) _ ?_
    | split
    | with_reducible refine State.Ran.upd ?_ ?_ ?_ ?_
    | rfl

theorem State.lateDone_ran {q0 s : State} (h : q0.Ran s) (did : Nat) : q0.Ran (State.lateDone s did) := by
  unfold State.lateDone
  try dsimp only
  repeat' first
    | assumption
    | with_reducible apply State.modDesc_ran
    | with_reducible refine State.Ran.foldl (fun hk a => ?_) _ ?_
    | split
    | with_reducible refine State.Ran.upd ?_ ?_ ?_ ?_
    | rfl

theorem State.storeTxn_ran {q0 s : State} (h : q0.Ran s) (t : Txn) : q0.Ran (State.storeTxn s t) := by
  unfold State.storeTxn
  try dsimp only
  repeat' first
    | assumption
    | with_reducible apply State.putAll_ran
    | with_reducible refine State.Ran.foldl (fun hk a => ?_) _ ?_
    | split
    | with_reducible refine State.Ran.upd ?_ ?_ ?_ ?_
    | rfl

theorem State.loseLine_ran {q0 s : State} (h : q0.Ran s) (d : Desc) (f : Nat) (line : Nat) : q0.Ran (State.loseLine s d f line) := by
  unfold State.loseLine
  try dsimp only
  repeat' first
    | assumption
    | with_reducible apply State.modDesc_ran
    | with_reducible refine State.Ran.foldl (fun hk a => ?_) _ ?_
    | split
    | with_reducible refine State.Ran.upd ?_ ?_ ?_ ?_
    | rfl

theorem State.noteOwn_ran {q0 s : State} (h : q0.Ran s) (first : Bool) (pen : Option Nat) (row : Nat) (line : Nat) : q0.Ran (State.noteOwn s first pen row line) := by
  unfold State.noteOwn
  try dsimp only
  repeat' first
    | assumption
    | with_reducible apply State.note_ran
    | with_reducible apply State.noteP_ran
    | with_reducible refine State.Ran.foldl (fun hk a => ?_) _ ?_
    | split
    | with_reducible refine State.Ran.upd ?_ ?_ ?_ ?_
    | rfl

theorem State.faultVoids_ran {q0 s : State} (h : q0.Ran s) (d : Desc) (f : Nat) (line : Nat) : q0.Ran (State.faultVoids s d f line) := by
  unfold State.faultVoids
  try dsimp only
  repeat' first
    | assumption
    | with_reducible apply State.noteD_ran
    | with_reducible apply State.modDesc_ran
    | with_reducible apply State.voidBound_ran
    | with_reducible apply State.voidBehind_ran
    | with_reducible refine State.Ran.foldl (fun hk a => ?_) _ ?_
    | split
    | with_reducible refine State.Ran.upd ?_ ?_ ?_ ?_
    | rfl

theorem State.restartOn_ran {q0 s : State} (h : q0.Ran s) (did : Nat) (f : Nat) : q0.Ran (State.restartOn s did f) := by
  unfold State.restartOn
  try dsimp only
  repeat' first
    | assumption
    | with_reducible apply State.modDesc_ran
    | with_reducible apply State.modPair_ran
    | with_reducible refine State.Ran.foldl (fun hk a => ?_) _ ?_
    | split
    | with_reducible refine State.Ran.upd ?_ ?_ ?_ ?_
    | rfl

theorem State.stallOn_ran {q0 s : State} (h : q0.Ran s) (did : Nat) (f : Nat) : q0.Ran (State.stallOn s did f) := by
  unfold State.stallOn
  try dsimp only
  repeat' first
    | assumption
    | with_reducible apply State.modPair_ran
    | with_reducible apply State.suspendOn_ran
    | with_reducible refine State.Ran.foldl (fun hk a => ?_) _ ?_
    | split
    | with_reducible refine State.Ran.upd ?_ ?_ ?_ ?_
    | rfl

theorem State.reopen_ran {q0 s : State} (h : q0.Ran s) (did : Nat) : q0.Ran (State.reopen s did) := by
  unfold State.reopen
  try dsimp only
  repeat' first
    | assumption
    | with_reducible apply State.modDesc_ran
    | with_reducible refine State.Ran.foldl (fun hk a => ?_) _ ?_
    | split
    | with_reducible refine State.Ran.upd ?_ ?_ ?_ ?_
    | rfl

theorem State.keepStalled_ran {q0 s : State} (h : q0.Ran s) (t : Txn) (f : Nat) (did : Nat) : q0.Ran (State.keepStalled s t f did) := by
  unfold State.keepStalled
  try dsimp only
  repeat' first
    | assumption
    | with_reducible apply State.modDesc_ran
    | with_reducible apply State.reopen_ran
    | with_reducible refine State.Ran.foldl (fun hk a => ?_) _ ?_
    | split
    | with_reducible refine State.Ran.upd ?_ ?_ ?_ ?_
    | rfl

theorem State.lateEnd_ran {q0 s : State} (h : q0.Ran s) (did : Nat) (st : Status) : q0.Ran (State.lateEnd s did st) := by
  unfold State.lateEnd
  try dsimp only
  repeat' first
    | assumption
    | with_reducible apply State.modDesc_ran
    | with_reducible refine State.Ran.foldl (fun hk a => ?_) _ ?_
    | split
    | with_reducible refine State.Ran.upd ?_ ?_ ?_ ?_
    | rfl

theorem State.retryOn_ran {q0 s : State} (h : q0.Ran s) (f : Nat) : q0.Ran (State.retryOn s f) := by
  unfold State.retryOn
  try dsimp only
  repeat' first
    | assumption
    | with_reducible apply State.modPair_ran
    | with_reducible apply State.restartOn_ran
    | with_reducible refine State.Ran.foldl (fun hk a => ?_) _ ?_
    | split
    | with_reducible refine State.Ran.upd ?_ ?_ ?_ ?_
    | rfl

theorem State.flipWord_ran {q0 s : State} (h : q0.Ran s) (w : Nat) (flips : BitVec 64) : q0.Ran (State.flipWord s w flips) := by
  unfold State.flipWord
  try dsimp only
  repeat' first
    | assumption
    | with_reducible refine State.Ran.foldl (fun hk a => ?_) _ ?_
    | split
    | with_reducible refine State.Ran.upd ?_ ?_ ?_ ?_
    | rfl

theorem State.scrubWord_ran {q0 s : State} (h : q0.Ran s) (w : Nat) : q0.Ran (State.scrubWord s w) := by
  unfold State.scrubWord
  try dsimp only
  repeat' first
    | assumption
    | with_reducible apply State.hand_ran
    | with_reducible apply State.corrected_ran
    | with_reducible refine State.Ran.foldl (fun hk a => ?_) _ ?_
    | split
    | with_reducible refine State.Ran.upd ?_ ?_ ?_ ?_
    | rfl

theorem State.halt_ran {q0 s : State} (h : q0.Ran s) (pts : List (Nat × Progress)) (did : Nat) : q0.Ran (State.halt s pts did) := by
  unfold State.halt
  try dsimp only
  repeat' first
    | assumption
    | with_reducible apply State.leaveAll_ran
    | with_reducible apply State.dropLoads_ran
    | with_reducible apply State.dropRoutes_ran
    | with_reducible apply State.flushHeld_ran
    | with_reducible apply State.advance_ran
    | with_reducible refine State.Ran.foldl (fun hk a => ?_) _ ?_
    | split
    | with_reducible refine State.Ran.upd ?_ ?_ ?_ ?_
    | rfl

theorem State.usePort_ran {q0 s : State} (h : q0.Ran s) (n : Nat) : q0.Ran (State.usePort s n) := by
  unfold State.usePort
  try dsimp only
  repeat' first
    | assumption
    | with_reducible refine State.Ran.foldl (fun hk a => ?_) _ ?_
    | split
    | with_reducible refine State.Ran.upd ?_ ?_ ?_ ?_
    | rfl

theorem State.portStall_ran {q0 s : State} (h : q0.Ran s) (did : Nat) (stall : Nat) : q0.Ran (State.portStall s did stall) := by
  unfold State.portStall
  try dsimp only
  repeat' first
    | assumption
    | with_reducible apply State.noteD_ran
    | with_reducible apply State.voidBound_ran
    | with_reducible refine State.Ran.foldl (fun hk a => ?_) _ ?_
    | split
    | with_reducible refine State.Ran.upd ?_ ?_ ?_ ?_
    | rfl

theorem State.runPort_ran {q0 s : State} (h : q0.Ran s) (o : Opc) (did : Nat) (stall : Nat) : q0.Ran (State.runPort s o did stall) := by
  unfold State.runPort
  try dsimp only
  repeat' first
    | assumption
    | with_reducible apply State.armPort_ran
    | with_reducible apply State.ensure_ran
    | with_reducible apply State.complete_ran
    | with_reducible apply State.usePort_ran
    | with_reducible apply State.portStall_ran
    | with_reducible refine State.Ran.foldl (fun hk a => ?_) _ ?_
    | split
    | with_reducible refine State.Ran.upd ?_ ?_ ?_ ?_
    | rfl

theorem State.landBeat_ran {q0 s : State} (h : q0.Ran s) (d : Desc) (ofs : BitVec 26) (data : BitVec 512) (last : Bool) (poison : Bool) : q0.Ran (State.landBeat s d ofs data last poison) := by
  unfold State.landBeat
  try dsimp only
  repeat' first
    | assumption
    | with_reducible apply State.noteD_ran
    | with_reducible apply State.modDesc_ran
    | with_reducible apply State.armPort_ran
    | with_reducible apply State.usePort_ran
    | with_reducible refine State.Ran.foldl (fun hk a => ?_) _ ?_
    | split
    | with_reducible refine State.Ran.upd ?_ ?_ ?_ ?_
    | rfl

theorem State.abortPort_ran {q0 s : State} (h : q0.Ran s) (did : Nat) (beats : Nat) : q0.Ran (State.abortPort s did beats) := by
  unfold State.abortPort
  try dsimp only
  repeat' first
    | assumption
    | with_reducible refine State.Ran.foldl (fun hk a => ?_) _ ?_
    | split
    | with_reducible refine State.Ran.upd ?_ ?_ ?_ ?_
    | rfl

theorem State.portExpire_ran {q0 s : State} (h : q0.Ran s) (d : Desc) (pts : Progress) (beats : Nat) (stall : Nat) : q0.Ran (State.portExpire s d pts beats stall) := by
  unfold State.portExpire
  try dsimp only
  repeat' first
    | assumption
    | with_reducible apply State.noteD_ran
    | with_reducible apply State.endEarly_ran
    | with_reducible apply State.advance_ran
    | with_reducible apply State.portStall_ran
    | with_reducible apply State.abortPort_ran
    | with_reducible refine State.Ran.foldl (fun hk a => ?_) _ ?_
    | split
    | with_reducible refine State.Ran.upd ?_ ?_ ?_ ?_
    | rfl

theorem State.voidAll_ran {q0 s : State} (h : q0.Ran s)  : q0.Ran (State.voidAll s ) := by
  unfold State.voidAll
  try dsimp only
  repeat' first
    | assumption
    | with_reducible refine State.Ran.foldl (fun hk a => ?_) _ ?_
    | split
    | with_reducible refine State.Ran.upd ?_ ?_ ?_ ?_
    | rfl

theorem State.passImage_ran {q0 s : State} (h : q0.Ran s) (line : Nat) (data : BitVec 512) (rad : Bool) : q0.Ran (State.passImage s line data rad) := by
  unfold State.passImage
  try dsimp only
  repeat' first
    | assumption
    | with_reducible apply State.putAll_ran
    | with_reducible apply State.takeId_ran
    | with_reducible apply State.emit_ran
    | with_reducible refine State.Ran.foldl (fun hk a => ?_) _ ?_
    | split
    | with_reducible refine State.Ran.upd ?_ ?_ ?_ ?_
    | rfl

theorem State.writeImage_ran {q0 s : State} (h : q0.Ran s) (f : Nat) : q0.Ran (State.writeImage s f) := by
  unfold State.writeImage
  try dsimp only
  repeat' first
    | assumption
    | with_reducible apply State.noteF_ran
    | with_reducible apply State.passImage_ran
    | with_reducible refine State.Ran.foldl (fun hk a => ?_) _ ?_
    | split
    | with_reducible refine State.Ran.upd ?_ ?_ ?_ ?_
    | rfl

theorem State.pauseOne_ran {q0 s : State} (h : q0.Ran s) (pts : List (Nat × Progress)) (did : Nat) : q0.Ran (State.pauseOne s pts did) := by
  unfold State.pauseOne
  try dsimp only
  repeat' first
    | assumption
    | with_reducible apply State.advance_ran
    | with_reducible apply State.complete_ran
    | with_reducible apply State.suspendOn_ran
    | with_reducible refine State.Ran.foldl (fun hk a => ?_) _ ?_
    | split
    | with_reducible refine State.Ran.upd ?_ ?_ ?_ ?_
    | rfl

theorem State.takeSrow_ran {q0 s : State} (h : q0.Ran s) (f : Nat) (n : Nat) : q0.Ran (State.takeSrow s f n) := by
  unfold State.takeSrow
  try dsimp only
  repeat' first
    | assumption
    | with_reducible apply State.modDesc_ran
    | with_reducible apply State.modPair_ran
    | with_reducible refine State.Ran.foldl (fun hk a => ?_) _ ?_
    | split
    | with_reducible refine State.Ran.upd ?_ ?_ ?_ ?_
    | rfl

theorem State.restoreShadow_ran {q0 s : State} (h : q0.Ran s) (t : Twin) : q0.Ran (State.restoreShadow s t) := by
  unfold State.restoreShadow
  try dsimp only
  repeat' first
    | assumption
    | with_reducible apply State.modL_ran
    | with_reducible apply State.passOwn_ran
    | with_reducible refine State.Ran.foldl (fun hk a => ?_) _ ?_
    | split
    | with_reducible refine State.Ran.upd ?_ ?_ ?_ ?_
    | rfl

theorem State.wakeSusp_ran {q0 s : State} (h : q0.Ran s) (f : Nat) : q0.Ran (State.wakeSusp s f) := by
  unfold State.wakeSusp
  try dsimp only
  repeat' first
    | assumption
    | with_reducible apply State.modL_ran
    | with_reducible refine State.Ran.foldl (fun hk a => ?_) _ ?_
    | split
    | with_reducible refine State.Ran.upd ?_ ?_ ?_ ?_
    | rfl

theorem State.lateResume_ran {q0 s : State} (h : q0.Ran s) (x : Nat × Bool) : q0.Ran (State.lateResume s x) := by
  unfold State.lateResume
  try dsimp only
  repeat' first
    | assumption
    | with_reducible apply State.endFault_ran
    | with_reducible apply State.retryOn_ran
    | with_reducible refine State.Ran.foldl (fun hk a => ?_) _ ?_
    | split
    | with_reducible refine State.Ran.upd ?_ ?_ ?_ ?_
    | rfl

theorem State.takeGate_ran {q0 s : State} (h : q0.Ran s) (did : Nat) (arms : Bool) : q0.Ran (State.takeGate s did arms) := by
  unfold State.takeGate
  try dsimp only
  repeat' first
    | assumption
    | with_reducible apply State.modDesc_ran
    | with_reducible apply State.setArm_ran
    | with_reducible refine State.Ran.foldl (fun hk a => ?_) _ ?_
    | split
    | with_reducible refine State.Ran.upd ?_ ?_ ?_ ?_
    | rfl

theorem State.cancelFetched_ran {q0 s : State} (h : q0.Ran s) (did : Nat) : q0.Ran (State.cancelFetched s did) := by
  unfold State.cancelFetched
  try dsimp only
  repeat' first
    | assumption
    | with_reducible apply State.refuse_ran
    | with_reducible refine State.Ran.foldl (fun hk a => ?_) _ ?_
    | split
    | with_reducible refine State.Ran.upd ?_ ?_ ?_ ?_
    | rfl

theorem State.replaceLoad_ran {q0 s : State} (h : q0.Ran s) (p : Plan) : q0.Ran (State.replaceLoad s p) := by
  unfold State.replaceLoad
  try dsimp only
  repeat' first
    | assumption
    | with_reducible apply State.endEarly_ran
    | with_reducible refine State.Ran.foldl (fun hk a => ?_) _ ?_
    | split
    | with_reducible refine State.Ran.upd ?_ ?_ ?_ ?_
    | rfl

theorem State.readImageLines_ran {q0 s : State} (h : q0.Ran s) (d : Desc) : q0.Ran (State.readImageLines s d) := by
  unfold State.readImageLines
  try dsimp only
  repeat' first
    | assumption
    | with_reducible apply State.passOwn_ran
    | with_reducible refine State.Ran.foldl (fun hk a => ?_) _ ?_
    | split
    | with_reducible refine State.Ran.upd ?_ ?_ ?_ ?_
    | rfl

theorem State.settleTallies_ran {q0 s : State} (h : q0.Ran s)  : q0.Ran (State.settleTallies s ) := by
  unfold State.settleTallies
  try dsimp only
  repeat' first
    | assumption
    | with_reducible apply State.endEarly_ran
    | with_reducible refine State.Ran.foldl (fun hk a => ?_) _ ?_
    | split
    | with_reducible refine State.Ran.upd ?_ ?_ ?_ ?_
    | rfl

end Sys2Proof.Machine
end

