-- ==== Sys2Proof/WellFormed.lean ====
section
/-!
DEFINITION. Which commands are well formed: their operands lie in the ranges that the parts they name have. A command that
is not well formed spells no step of the hardware. `exec` answers one that names a physical fold which the silicon does not
carry, or a patrol wave past the last, with a fault; on the others each meaning's own conditions decide.
-/
namespace Sys2Proof

/-- Physical folds of the silicon (R17). -/
def physFolds : Nat := 68

/-- Every entry of a progress list names one of the 64 logical folds (R3). -/
def Progress.wf (p : Progress) : Bool := p.all (fun x => decide (x.1 < 64))

/-- Every progress list of a set of descriptors is well formed. -/
def progressWf (l : List (Nat × Progress)) : Bool := l.all (fun x => Progress.wf x.2)

/-- The operands of a command lie in their ranges. -/
def Instr.wf : Instr → Bool
  | .rootOfTrustSuccess _ image => decide (image.length ≤ 262144)
  | .firstPatrolWave wave failing =>
    decide (wave.toNat ≤ 4) && failing.all (fun p => decide (p.toNat < physFolds ∧ p.toNat / 16 = wave.toNat))
  | .descriptorBurst _ cells => decide (1 ≤ cells.length ∧ cells.length ≤ 16)
  | .periodBoundary _ upsets => upsets.all (fun x => decide (x.1 < 1024 ∧ x.2 < 16384))
  | .portStallTimeout _ stop => Progress.wf stop.pts
  | .xdeny _ _ pts | .snTimeout _ _ pts | .xresumeAbort _ pts | .xlatWaitExpiry _ pts |
    .twinDiverge _ _ _ pts => Progress.wf pts
  | .cancel _ pts | .pauseComplete pts | .watchdogTimeout pts _ _ => progressWf pts
  | .datapathCheck _ _ found _ pts => decide (5 ≤ found.part.toNat ∧ found.part.toNat ≤ 11) && Progress.wf pts
  | .fatal cause phys pts _ _ =>
    decide (1 ≤ cause.toNat ∧ cause.toNat ≤ 7) && decide (phys.toNat < physFolds) && progressWf pts
  | .patrolSlice phys _ failed => decide (phys.toNat < physFolds) && failed.all progressWf
  | .scrubSlot phys _ | .foldGateOff phys => decide (phys.toNat < physFolds)
  | .foldRetire phys pts => decide (phys.toNat < physFolds) && progressWf pts
  | .scrubReread phys word => decide (phys.toNat < physFolds ∧ word < 131072)
  | .mramScrub sealArray word _ _ => decide (word < if sealArray then 65536 else 2097152)
  | .registerWrite offset _ _ => decide (offset.toNat % 4 = 0)
  | .blockReset | .resetRelease | .pastureClearDone | .planStoreClearDone | .portReady _ | .rootOfTrustFailure |
    .shepherdRunning | .earlyMount _ | .ledgerKeyTimeout | .lateMountDone | .calibrationDone _ _ _ | .enable _ |
    .twinPrepared _ | .remap | .nudgeEnChange _ | .nudge _ | .reload _ _ | .crload _ _ | .nudgeMapWrite _ _ |
    .doorbellSweep | .doorbellWord _ _ | .fetchTurn | .admission | .heldAdmission | .stepRefresh | .stepRefreshDone |
    .bell | .gateBell | .gateRelease | .pwrWarn | .pwrWarnReturn | .thermLvlChange _ | .copy _ | .transpose _ |
    .permute _ | .shuffle _ | .gather _ | .scatter _ | .convert _ | .pack _ | .unpack _ | .tprod _ | .cbload _ |
    .requant _ | .deliver _ _ | .collect _ _ | .nrBeat _ _ _ _ _ | .vload _ | .vstore _ | .vmove _ | .release _ |
    .route _ | .fence _ | .nop _ | .gateArm _ | .gateHold _ | .digest _ | .tally _ | .runLogWrite | .leafFold |
    .planload _ _ | .seedset _ | .preemptionSuspend _ _ _ | .suspendedResume _ | .crookGrant _ _ _ _ |
    .ringTransferStart _ _ | .snReadResponse _ _ _ _ | .snWriteResponse _ _ | .snRetry _ _ | .retryReissue _ _ |
    .xstall _ _ _ _ | .derr _ _ | .snUnexpected _ _ _ | .xresumeRetry _ | .completionRecord _ |
    .consumerReread _ _ _ | .interruptMessage | .intMaskWrite _ | .eventRecord | .ownAccessRetry _ _ | .spareIn _ _ |
    .epochClose | .epochCommitDone | .sealCommit | .cut | .epochSWrite _ | .exportGo _ | .exportDone | .pause | .resume |
    .twinCfgWrite _ _ | .portClockGate _ | .qosAging _ _ | .debugRead _ | .testModeEntry | .shepherdSramClearDone |
    .debugPortOpen => true

end Sys2Proof
end

