-- ==== Sys2Proof/Tests/Slice0.lean ====
section
/-!
SUPPORT. Tests: ill-formed commands that the check of WellFormed refuses, worked examples of the spec, and, for every
statement with hypotheses, a state and operands that meet them, clause by clause.
-/
namespace Sys2Proof.Tests

open Sys2Proof Sys2Proof.Machine

set_option Elab.async false

/-! ### States and descriptors -/

/-- A block out of reset at tick `n`, every part ready, ENABLE on, nothing in it. -/
def at_ (n : Nat) : State :=
  { State.reset with
    tick := n
    ready := { fold := 0xFFFFFFFFFFFFFFFF, stile := true, plan := true, tally := true, shepherd := true, sn := 255, ne := 15, nr := 3 }
    boot := { pastureDone := true, planDone := true, sramDone := true, rot := .success, build := 1, shepherdTick := some 0,
              calibrated := true, passed := List.range 68, debugOpen := false }
    cfg := { Cfg.reset with enable := true } }

/-- A block being brought up, at tick `n` after release. -/
def bring (n : Nat) : State := { State.reset with tick := n }

/-- The book MOUNTED with epoch 5 open. -/
def book (n : Nat) : State :=
  let e : Epoch := { seq := 5, stepLo := 0, opened := 0, epochS := 60, prev := 0, mountedF := false, lost := false, brk := false,
                     therm3 := false, pause := false, unverified := false, warnrec := false, faults := List.replicate 12 0,
                     bounds := 0, snaps := 0, nmv := 0, leaves := [], breakSeq := 0 }
  { at_ n with tally := { Tally.reset with st := .mounted, seq := 5, epoch := some e, slotDone := true, resv := 2 ^ 20 } }

/-- A fetched descriptor of pen `pen` whose legend is `l`. -/
def fetched (did pen l : Nat) : Desc := Desc.fresh did pen 0 [BitVec.ofNat 512 l] none

/-- An admitted descriptor with legend `l`. -/
def admitted (did l : Nat) : Desc := { fetched did 1 l with stage := .admitted, admitted := true, step := did + 1 }

/-- One that has started on fold 0, with `n` units to do. -/
def started (did l n : Nat) : Desc :=
  { admitted did l with begun := true, folds := [0], work := [(0, List.replicate n [])] }

/-- Fold 0 runs descriptor 0. -/
def busy (l n : Nat) : State :=
  { at_ 100 with descs := [started 0 l n], folds := [(0, { Fold.blank with running := some 0, logicOn := true })] }

/-- The opcode codes of Table 07-6, with their names. -/
def foldCodes : List (Opc × Nat) :=
  [(.copy, 0x01), (.transpose, 0x02), (.permute, 0x03), (.shuffle, 0x04), (.gather, 0x05), (.scatter, 0x06), (.convert, 0x07),
   (.pack, 0x08), (.unpack, 0x09), (.tprod, 0x10), (.cbload, 0x11), (.requant, 0x12), (.vload, 0x20), (.vstore, 0x21),
   (.vmove, 0x22), (.release, 0x23), (.route, 0x30), (.digest, 0x3A)]

/-- The state that an outcome goes on in. -/
def got : Host.Outcome State Fault Refusal → Option State
  | .next t => some t
  | _ => none

/-! ### Ill-formed commands -/

theorem test_wf_patrol_wave : Instr.wf (.firstPatrolWave 5 []) = false := by decide
theorem test_wf_failing_fold_of_another_wave : Instr.wf (.firstPatrolWave 0 [16]) = false := by decide
theorem test_wf_failing_fold_absent : Instr.wf (.firstPatrolWave 4 [68]) = false := by decide
theorem test_wf_burst_empty : Instr.wf (.descriptorBurst 1 []) = false := by decide
theorem test_wf_burst_of_17 : Instr.wf (.descriptorBurst 1 (List.replicate 17 0)) = false := by decide
theorem test_wf_plan_upset : Instr.wf (.periodBoundary none [(1024, 0)]) = false := by decide
theorem test_wf_progress_fold : Instr.wf (.xdeny 0 0 [(64, 1)]) = false := by decide
theorem test_wf_progress_set : Instr.wf (.cancel 0 [(1, [(64, 1)])]) = false := by decide
theorem test_wf_checker_row : Instr.wf (.datapathCheck 0 0 { part := 12, nibble := false, inp := 0, out := 0 } 0 []) = false := by decide
theorem test_wf_fatal_cause : Instr.wf (.fatal 8 0 [] true true) = false := by decide
theorem test_wf_fatal_fold : Instr.wf (.fatal 6 68 [] true true) = false := by decide
theorem test_wf_physical_fold : Instr.wf (.scrubSlot 68 []) = false := by decide
theorem test_wf_retired_fold : Instr.wf (.foldRetire 68 []) = false := by decide
theorem test_wf_scrub_word : Instr.wf (.scrubReread 0 131072) = false := by decide
theorem test_wf_mram_word : Instr.wf (.mramScrub true 65536 false false) = false := by decide
theorem test_wf_register_offset : Instr.wf (.registerWrite 2 0 15) = false := by decide
theorem test_wf_accepts : Instr.wf (.firstPatrolWave 4 [67]) = true ∧ Instr.wf (.mramScrub false 65536 false false) = true := by decide

/-! ### Witnesses: the block as a whole, bring-up -/

theorem witness_invariant : State.Inv (at_ 5) = true ∧ (got (step (at_ 5))).isSome = true := by decide +kernel

theorem witness_setup_holds : (at_ 0).cfg.enable = true ∧ (got (exec .bell (at_ 0))).isSome = true := by decide +kernel

/-- After a fatal stop. -/
def stopped : State := { at_ 9 with pins := { (at_ 9).pins with fatalN := false }, fatalReg := { cause := 2, phys := 0, valid := true } }

theorem witness_fatal_lasts : stopped.pins.fatalN = false ∧ (got (exec .pwrWarn stopped)).isSome = true ∧
    (got (exec .bell stopped)).isSome = true := by decide +kernel

/-- In block reset. -/
def inReset : State := { at_ 7 with pins := { (at_ 7).pins with rstLow := true } }

theorem witness_reset_held : inReset.pins.rstLow = true ∧ inReset.pins.testMode = false ∧
    (got (exec .pastureClearDone inReset)).isSome = true := by decide +kernel

theorem witness_faults : 4 < (5 : BitVec 3).toNat ∧ exec (.firstPatrolWave 5 []) (at_ 0) = .fault .noSuchPart ∧
    68 ≤ (68 : BitVec 7).toNat ∧ exec (.foldGateOff 68) (at_ 0) = .fault .noSuchPart ∧ (∀ p ∈ (Instr.foldGateOff 67).partsNamed, p < 68) ∧
    (∀ w ∈ (Instr.firstPatrolWave 4 []).waves, w < 5) := ⟨by decide, rfl, by decide, rfl, by decide, by decide⟩

theorem witness_clears : (bring 1024).up = true ∧ (bring 1024).boot.pastureDone = false ∧ 1024 ≤ (bring 1024).tick ∧
    (bring 1024).boot.planDone = false ∧ (bring 256).boot.sramDone = false ∧ 256 ≤ (bring 256).tick ∧ 64 ≤ (bring 64).tick ∧
    (got (exec (.portReady (.ne 3)) (bring 64))).map (fun t => t.ready.ne) = some 8 ∧
    (got (exec (.portReady (.ne 3)) (bring 63))).map (fun t => t.ready.ne) = some 0 := by decide +kernel

/-- The Shepherd SRAM is clear; the root of trust has signalled `r`. -/
def trusted (r : RotSignal) : State := { bring 300 with boot := { (bring 300).boot with sramDone := true, rot := r } }

/-- The Shepherd runs; calibration is still to come. -/
def shepherded : State :=
  { trusted .success with boot := { (trusted .success).boot with shepherdTick := some 0 },
                          ready := { (bring 300).ready with shepherd := true } }

theorem witness_root_of_trust : (trusted .none).up = true ∧ (trusted .none).boot.sramDone = true ∧ (trusted .none).boot.rot = .none ∧
    [(1 : Byte), 2].length ≤ 262144 ∧ (trusted .success).boot.rot = .success ∧ (trusted .none).boot.rot ≠ .success ∧
    (trusted .success).ready.shepherd = false ∧ (trusted .success).live = true ∧ shepherded.live = true ∧
    shepherded.ready.shepherd = true ∧ shepherded.boot.calibrated = false := by decide +kernel

/-- Calibration leaves the larger of the reset value and the value measured. -/
theorem test_calibration : (got (exec (.calibrationDone 0x2F 0x21 0x8) shepherded)).map (fun t => t.cost) =
    some { rd := 0x30, wr := 0x21, port := 0x8 } := by decide +kernel

/-- The MRAM without its format record and without a counter slot. -/
def unformatted : State := { shepherded with mram := { ring := [], seals := [], badRing := [], badSeals := [] } }

/-- The key is late; the book verifies; the block runs. -/
def late : State := { shepherded with tick := 4687501 }
def verifying : State := { shepherded with tally := { Tally.reset with st := .verifying, key := some 7, seq := 1 } }

theorem witness_mount : shepherded.boot.shepherdTick = some 0 ∧ shepherded.tick ≤ 0 + 4687500 ∧ shepherded.tally.st = .unmounted ∧
    shepherded.tally.stop = .no ∧ shepherded.tally.key = none ∧ shepherded.mram.formatOk = true ∧ shepherded.mram.current = some 0 := by decide +kernel
theorem witness_mount_fails : unformatted.live = true ∧ (unformatted.mram.formatOk = false ∨ unformatted.mram.current = none) ∧
    unformatted.tally.st = .unmounted ∧ unformatted.tally.key = none ∧ unformatted.boot.shepherdTick = some 0 ∧
    unformatted.tick ≤ 0 + 4687500 ∧ late.tally.key = none ∧ late.live = true ∧ late.boot.shepherdTick = some 0 ∧ 0 + 4687500 < late.tick ∧
    late.tally.st = .unmounted ∧ late.tally.stop = .no := by decide +kernel
theorem witness_late_mount : verifying.live = true ∧ verifying.tally.st = .verifying ∧ verifying.tally.stop = .no := by decide +kernel

/-- Pasture is clear and no fold patrolled; `v` waves have passed. -/
def patrolling (v : Nat) : State :=
  { shepherded with boot := { shepherded.boot with pastureDone := true, passed := List.range (16 * v) } }

theorem witness_first_patrol : (patrolling 4).live = true ∧ (patrolling 4).ready.shepherd = true ∧
    (patrolling 4).boot.pastureDone = true ∧ (patrolling 4).pause.paused = false ∧ (4 : BitVec 3).toNat ≤ 4 ∧
    (∀ v < 4, (patrolling 4).waveDone v = true) ∧ (patrolling 4).waveDone 4 = false ∧
    (∀ p ∈ (patrolling 4).waveFolds 4, (patrolling 4).patrolled p = false) ∧ (patrolling 4).waitingFolds = [] ∧
    (∀ p ∈ (patrolling 0).waveFolds 0, (patrolling 0).patrolled p = false) ∧ (patrolling 0).waveDone 0 = false ∧
    0 < (4 : BitVec 3).toNat := by decide +kernel

/-- ENABLE still 0. -/
def disabled (n : Nat) : State := { at_ n with cfg := Cfg.reset }

theorem witness_enable : (disabled 3).live = true ∧ (disabled 3).cfg.enable = false ∧ (disabled 3).ready.stile = true ∧
    (disabled 3).ready.fold ≠ 0 ∧ (at_ 3).up = true ∧ (at_ 3).cfg.enable = true ∧ (bring 3).ready.stile = false ∧
    (disabled 3).twinBad 7 { pri := 0, shd := 1, en := true, active := false, fault := false, taken := false, prep := false } = false := by
  decide +kernel

/-! ### Witnesses: nudges, pens, doorbells, bursts -/

/-- Nudges on, ENABLE 0; and both on. -/
def nudgy (n : Nat) : State := { disabled n with cfg := { Cfg.reset with nudgeEn := true } }
def nudged (n : Nat) : State := { at_ n with cfg := { Cfg.reset with nudgeEn := true, enable := true } }

/-- A served pen: ring of 2^4 cells at 0x10000, RIDX = CIDX = 0, PIDX as given. -/
def servedPen (pidx : BitVec 32) : Pen :=
  { Pen.blank with loaded := true, served := true, pidx := pidx,
                   ent := { PenEntry.blank with en := true, credit := 1, logsz := 4, ring := 0x10000, depth := 0xFFFFFFFF,
                                                allot := 0xFFFFFFFF, xallot := 0xFFFFFFFF, share := 64 } }

/-- Pen 4095 and pen 1 served. -/
def penned (pidx : BitVec 32) (s : State) : State := { s with pens := [(1, servedPen pidx), (4095, servedPen pidx)] }

theorem witness_nudge_en : (nudgy 3).up = true ∧ (at_ 3).cfg.nudgeEn = false ∧ (nudged 3).cfg.nudgeEn = true := by decide +kernel
theorem witness_nudge : (nudgy 3).up = true ∧ (nudgy 3).cfg.nudgeEn = true ∧ (nudgy 3).cfg.enable = false ∧
    (4095 : BitVec 12).toNat = 32 * (127 : BitVec 7).toNat + 31 := by decide +kernel
theorem witness_nudge_reads : (penned 0 (nudged 3)).live = true ∧ (penned 0 (nudged 3)).cfg.nudgeEn = true ∧
    (penned 0 (nudged 3)).cfg.enable = true ∧ ((penned 0 (nudged 3)).pen 4095).loaded = true ∧
    ((penned 0 (nudged 3)).pen 4095).served = true ∧ (penned 0 (nudged 3)).own.any (fun o => o.kind = .doorbell 4095) = false ∧
    bit (penned 0 (nudged 3)).ready.sn.toNat (snPort ((0 + 8 * 4095) / 64)) = true ∧
    ((penned 0 (nudged 3)).freeIds (snPort ((0 + 8 * 4095) / 64))).length ≠ 0 := by decide +kernel

/-- A ring that is loaded, sound, and whose consumer word is behind. -/
def ringed (s : State) : State := { s with rings := [(0, { CplRing.blank with loaded := true, base := 0x20000, logsz := 4, w := 3, vec := 1 })] }

theorem witness_reload : (at_ 3).live = true ∧ (at_ 3).cfg.enable = true ∧ (at_ 3).penBusy 0 = false ∧
    (penned 0 { at_ 3 with descs := [admitted 0 0x3F] }).penBusy 1 = true ∧
    ((penned 0 { at_ 3 with descs := [admitted 0 0x3F] }).pen 1).loaded = true := by decide +kernel
theorem witness_crload : ((at_ 3).ring 255).loaded = false ∧ ((ringed (at_ 3)).ring 0).loaded = true ∧
    ((ringed (at_ 3)).ring 0).bad = false ∧ ((ringed (at_ 3)).ring 0).consFault = false ∧
    ((ringed (at_ 3)).ring 0).w ≠ BitVec.ofNat 32 (leNat (((ringed (at_ 3)).putHost (0 + 16 * 0) (leBytes 0 16)).getHost (0 + 32768 + 8 * 0) 4)) := by
  decide +kernel

/-- A sweep is due at tick n. -/
def sweeping (n : Nat) : State := { at_ n with stile := { (at_ n).stile with sweepAt := some n } }

theorem witness_sweep : (sweeping 187).live = true ∧ (sweeping 187).cfg.enable = true ∧ (sweeping 187).stile.sweepAt = some 187 ∧
    187 ≤ (sweeping 187).tick ∧ ({ sweeping 187 with tick := 186 } : State).tick < 187 := by decide +kernel

/-- Pen 1's doorbell read is in flight, its CIDX is `c`. -/
def reading (c : BitVec 32) : State :=
  { at_ 3 with pens := [(1, { servedPen c with cidx := c })], own := [{ key := 0, kind := .doorbell 1, writes := [], waiting := false }] }

theorem witness_doorbell : (reading 0).live = true ∧ (reading 0).cfg.enable = true ∧ ((reading 0).pen 1).loaded = true ∧
    ((reading 0).pen 1).served = true ∧ (reading 0).awaitsWord 1 = true := by decide +kernel
/-- The four clauses at the edges of their ranges: bits 63 to 48, the pass bits, 2^31, the ring's size. -/
theorem witness_doorbell_clauses : 0x1000000000000 / 2 ^ 48 ≠ 0 ∧ (0x10 : Nat) / 2 ^ 32 % 2 ^ 16 ≠ 0x10 / 2 ^ 4 % 2 ^ 16 ∧
    (2 ^ 31 ≤ ((0x80000000 : BitVec 32) - 0).toNat) ∧ (0x8000 * 2 ^ 44 + 0x80000000) / 2 ^ 48 = 0x800 ∧
    2 ^ 4 < ((0x11 : BitVec 32) - 0).toNat ∧ ((0x10 : BitVec 32) - 0).toNat ≤ 2 ^ 4 ∧ 0x100000010 / 2 ^ 32 % 2 ^ 16 = 0x10 / 2 ^ 4 % 2 ^ 16 := by
  decide
/-- PIDX = RIDX + the ring's size is accepted as it is (R208). -/
theorem test_doorbell_full_ring : (got (exec (.doorbellWord 1 0x100000010) (reading 0))).map (fun t => (t.pen 1).pidx) = some 0x10 := by
  decide +kernel
/-- One more is clamped to it. -/
theorem test_doorbell_clamp : (got (exec (.doorbellWord 1 0x100000011) (reading 0))).map (fun t => (t.pen 1).pidx) = some 0x10 := by
  decide +kernel

/-- Pen 1 has one cell to fetch. -/
def fetching : State := { penned 0 (at_ 3) with pens := [(1, servedPen 1)], stile := { (at_ 3).stile with queue := [(1, some 0)] } }

theorem witness_fetch : fetching.live = true ∧ fetching.cfg.enable = true ∧ fetching.stile.bursts.length < 8 ∧
    fetching.turnPen = some 1 ∧ fetching.burstCells 1 = 1 ∧
    (fetching.issueOwn (.burst 1) false ((List.range 1).map (fun k => (0x10000 + 64 * ((fetching.nextCell 1).toNat % 2 ^ 4)) / 64 + k)) []).isSome = true ∧
    8 ≤ ({ fetching with stile := { fetching.stile with bursts := List.replicate 8 { pen := 1, first := 0, cells := 1, base := 0 } } } : State).stile.bursts.length := by
  decide +kernel

/-- The burst of one cell is in flight. -/
def burst1 : Burst := { pen := 1, first := 0, cells := 1, base := 4 }
def bursting : State :=
  { fetching with stile := { fetching.stile with bursts := [burst1] }, own := [{ key := 0, kind := .burst 1, writes := [], waiting := false }] }

theorem witness_burst : bursting.live = true ∧ bursting.stile.bursts.find? (fun x => decide (x.pen = 1)) = some burst1 ∧
    bursting.own.find? (fun x => x.kind = .burst 1) = some { key := 0, kind := .burst 1, writes := [], waiting := false } ∧
    (bursting.pen 1).partial_ = [] ∧ cellCount (0x3F : BitVec 512).toNat = 1 := by decide +kernel

/-! ### Witnesses: admission -/

/-- A legend: opcode, presence mask, pen; the pen's tag 0, no class, any fold. -/
def legend (opc pres pen : Nat) : Nat := opc + 2 ^ 9 * (1 + popN pres 8) + 2 ^ 16 * pres + 2 ^ 52 * pen

/-- A rank-1 LIN graticule of `n` elements: space, byte address, type code. -/
def grat (space : Bool) (addr ety n : Nat) : Cell :=
  BitVec.ofNat 512 (addr + (if space then 2 ^ 63 else 0) + 2 ^ 64 * ety + 2 ^ 68 + 2 ^ 128 * n + 2 ^ 320)

/-- COPY of 64 bytes within slice 0. -/
def copyCells : List Cell := [BitVec.ofNat 512 (legend 0x01 0x09 1), grat true 0 3 64, grat true 64 3 64]

/-- A descriptor of pen 1 waits for admission; room on the book. -/
def waiting (d : Desc) : State :=
  { at_ 3 with descs := [d], pens := [(1, servedPen 1)], nextDid := 1, tally := { Tally.reset with st := .mounted, resv := 2 ^ 20 } }

def nop0 : Desc := Desc.fresh 0 1 0 [BitVec.ofNat 512 (legend 0x3F 0 1)] none
def copy0 : Desc := Desc.fresh 0 1 0 copyCells none
def seedset0 : Desc := Desc.fresh 0 0 0 [BitVec.ofNat 512 (legend 0x3E 0x80 0), BitVec.ofNat 512 (4095 + 2 ^ 64 * 77)] none

theorem witness_admission : (waiting nop0).admitting = true ∧ ((waiting nop0).nextFetched).map (fun d => d.did) = some 0 ∧
    ((waiting nop0).check nop0).2 = true ∧ ((waiting nop0).check nop0).1.holdWhy nop0 = none ∧
    nop0.p.opc.any Opc.noFold = true := by decide +kernel
theorem witness_admission_priced : (waiting copy0).admitting = true ∧ ((waiting copy0).nextFetched).map (fun d => d.did) = some 0 ∧
    ((waiting copy0).check copy0).2 = true ∧ ((waiting copy0).check copy0).1.holdWhy copy0 = none ∧ copy0.pen ≠ 0 ∧
    copy0.p.opc.any Opc.noFold = false ∧
    ((waiting copy0).check copy0).1.budget copy0 (((waiting copy0).check copy0).1.priceOf copy0) = none := by decide +kernel

/-- The same legend on another pen's tag: refused by step 2 of R200. -/
def badNop : Desc := Desc.fresh 0 1 0 [BitVec.ofNat 512 (legend 0x3F 0 2)] none

/-- Pen 1 with no allotment of fold-ticks. -/
def poor : State := { waiting copy0 with pens := [(1, { servedPen 1 with ent := { (servedPen 1).ent with allot := 0 } })] }

theorem witness_refusal : (waiting badNop).admitting = true ∧ ((waiting badNop).nextFetched).map (fun d => d.did) = some 0 ∧
    ((waiting badNop).check badNop).2 = false := by decide +kernel
theorem witness_budget : poor.admitting = true ∧ (poor.nextFetched).map (fun d => d.did) = some 0 ∧
    (poor.check copy0).1.holdWhy copy0 = none ∧ copy0.pen ≠ 0 ∧ copy0.p.opc.any Opc.noFold = false ∧
    ((poor.check copy0).1.budget copy0 ((poor.check copy0).1.priceOf copy0)) = some .refusedBudget := by decide +kernel
/-- A refused descriptor's record names the tick twice: T_ADMIT, and zero ticks of running (R22). -/
theorem test_refusal_record : ((got (exec .admission (waiting badNop))).bind (fun t => t.desc? 0)).map
    (fun d => (d.stage, d.status, d.tAdmit, d.tDone, d.bound)) = some (.ended, .refusedEncoding, 3, 3, none) := by decide +kernel

/-- STEP has reached the reservation. -/
def reserved0 : State := { waiting nop0 with tally := { Tally.reset with st := .mounted, resv := 0 } }

/-- A descriptor held for it, the reservation since extended. -/
def held0 : State := { waiting nop0 with descs := [{ nop0 with stage := .held .step }] }

theorem witness_hold : reserved0.admitting = true ∧ (reserved0.nextFetched).map (fun d => d.did) = some 0 ∧ (reserved0.check nop0).2 = true ∧
    (reserved0.check nop0).1.holdWhy nop0 = some .step ∧ (disabled 3).admitting = false ∧ held0.nextFetched = none := by decide +kernel
theorem witness_hold_no_credit : nop0 ∈ (waiting nop0).descs ∧ nop0.stage = .fetched ∧ nop0.plan = none ∧
    (({ waiting nop0 with descs := [{ admitted 5 0x3F with plan := none }, nop0] } : State).pen nop0.pen).ent.credit ≤
      ({ waiting nop0 with descs := [{ admitted 5 0x3F with plan := none }, nop0] } : State).creditUsed nop0.pen := by decide +kernel
theorem witness_held_admission : held0.admitting = true ∧
    (held0.descs.find? (fun e => e.isHeld && (held0.holdWhy e).isNone && !held0.noCredit e && !held0.cancelled e)).map (fun d => d.did) = some 0 := by decide +kernel

/-- A SEEDSET for pen 4095 waits on the control pen. -/
def seeding : State := { waiting seedset0 with pens := [(0, servedPen 2)] }

theorem witness_seed : (seeding.desc? 0).isSome = true ∧ seeding.admitting = true ∧ (seeding.nextFetched).map (fun d => d.did) = some 0 ∧
    seedset0.pen = 0 ∧ seedset0.isOpc .seedset = true ∧ (seeding.check seedset0).2 = true ∧
    (seeding.check seedset0).1.holdWhy seedset0 = none := by decide +kernel
/-- STEP goes up by one and the SEEDSET's own pen keeps its seed. -/
theorem test_seedset : (got (exec .admission seeding)).map (fun t => (t.stile.step, (t.pen 4095).seed, (t.pen 0).seed)) = some (1, 77, 0) := by
  decide +kernel

theorem witness_control_pen : (seeding.check seedset0).2 = true ∧ ((waiting copy0).check copy0).2 = true := by decide +kernel

/-- A closed epoch's record under commit, with a counter slot to follow or not. -/
def commitOf (slot : Bool) : Commit :=
  { seq := 5, marker := List.replicate 32 1, tlen := 9, slot := slot, closed := ((book 0).tally.epoch).getD
      { seq := 5, stepLo := 0, opened := 0, epochS := 60, prev := 0, mountedF := false, lost := false, brk := false, therm3 := false,
        pause := false, unverified := false, warnrec := false, faults := [], bounds := 0, snaps := 0, nmv := 0, leaves := [], breakSeq := 0 } }

/-- The book is mounted, its slot written, STEP at `n`; the reservation is 2^20. -/
def stepped (n : BitVec 64) : State := { book 3 with stile := { (book 3).stile with step := n } }

theorem witness_refresh : (stepped 0x80000).live = true ∧ (stepped 0x80000).tally.stop = .no ∧ (stepped 0x80000).tally.slotDone = true ∧
    (stepped 0x80000).tally.refresh = none ∧ (stepped 0x80000).tally.commit = none ∧
    (stepped 0x80000).tally.resv ≤ (stepped 0x80000).stile.step.toNat + 2 ^ 19 ∧
    (stepped 0x7FFFF).stile.step.toNat + 2 ^ 19 < (stepped 0x7FFFF).tally.resv := by decide +kernel
theorem witness_refresh_done : ({ book 3 with tally := { (book 3).tally with refresh := some 0x180000 } } : State).up = true ∧
    ({ book 3 with tally := { (book 3).tally with refresh := some 0x180000 } } : State).tally.refresh = some 0x180000 ∧
    (book 3).tally.commit = none ∧ ({ book 3 with tally := { (book 3).tally with commit := some (commitOf true) } } : State).tally.commit.isSome = true := by
  decide +kernel

theorem witness_dither : (5 : BitVec 64) ^^^ (1 * 0x9E3779B97F4A7C15#64) = (5 ^^^ 0x9E3779B97F4A7C15#64) ^^^ (0 * 0x9E3779B97F4A7C15#64) ∧
    (TParams.ofAux (2 ^ 92)).rnd = true ∧ (Grat.ofCell (grat true 0 4 1).toNat).ty ≠ .s48 ∧
    (Grat.ofCell (grat true 0 4 1).toNat).ty ≠ .fp32 := by decide +kernel

/-! ### Witnesses: the period, bells, power, temperature -/

/-- The boundary of the current period is due at tick e, the last was at tick b; tick n. -/
def boundary (n b e : Nat) : State :=
  { at_ n with period := { (at_ n).period with tb := b, next := some e },
               cfg := { (at_ n).cfg with bellEn := true } }

theorem witness_boundary : (boundary 7 0 7).live = true ∧ (boundary 7 0 7).cfg.enable = true ∧ (boundary 7 0 7).period.next = some 7 ∧
    7 ≤ (boundary 7 0 7).tick ∧ (boundary 7 0 7).pausing = false ∧ (boundary 7 0 7).plans = [] ∧ (boundary 7 0 8).tick < 8 ∧
    ({ boundary 7 0 7 with pause := { (at_ 7).pause with paused := true } } : State).pausing = true ∧
    ({ boundary 7 0 7 with pause := { (at_ 7).pause with paused := true } } : State).evtUsed + 4 <
      ({ boundary 7 0 7 with pause := { (at_ 7).pause with paused := true } } : State).evtFree + 64 := by decide +kernel
theorem witness_period_register : (at_ 3).up = true ∧ (disabled 3).cfg.enable = false ∧ (at_ 3).cfg.enable = true ∧
    (∀ x ∈ ({ at_ 3 with period := { (at_ 3).period with pending := [(9, 1), (8, 2)] } } : State).period.pending, 0 < x.2 ∧ x.2 ≤ 2) ∧
    (disabled 3).live = true ∧ (disabled 3).ready.stile = true ∧ (disabled 3).ready.fold ≠ 0 := by decide +kernel
/-- 0xFFFF is taken as 0x0001_0000 (R359). -/
theorem test_period_floor : (got (exec (.registerWrite 0x300 0xFFFF 15) (at_ 3))).map (fun t => t.readReg 0x300) = some 0x10000 := by
  decide +kernel

theorem witness_bell : (boundary 100 0 781382).live = true ∧ (boundary 100 0 781382).gate.mayRise 100 = true ∧
    ({ (at_ 3).gate with high := some 98 } : Gate).mayRise 100 = true ∧ ({ (at_ 3).gate with high := some 99 } : Gate).mayRise 100 = false ∧
    (boundary 100 0 781382).cfg.bellEn = true ∧
    (boundary 100 0 781382).cfg.enable = true ∧ (boundary 100 0 781382).period.snapped = false ∧
    8 * (((100 + 32 : Nat) : Int) - ((781382 : Nat) : Int)).natAbs ≤ (boundary 100 0 781382).period.inForce ∧
    (boundary 100 0 781382).period.inForce < 8 * (((100 + 32 : Nat) : Int) - ((781383 : Nat) : Int)).natAbs ∧
    8 * (((100 + 32 : Nat) : Int) - ((0 : Nat) : Int)).natAbs ≤ (boundary 100 0 781383).period.inForce ∧
    (boundary 1000000 0 6250000).period.inForce < 8 * (((1000000 + 32 : Nat) : Int) - ((6250000 : Nat) : Int)).natAbs ∧
    (boundary 1000000 0 6250000).period.inForce < 8 * (((1000000 + 32 : Nat) : Int) - ((0 : Nat) : Int)).natAbs ∧
    (at_ 3).cfg.bellEn = false := by decide +kernel
/-- A bell 1,000,032 ticks past a boundary slews the next one later by floor(P/64) (R292). -/
theorem test_bell_slews : (got (exec .bell (boundary 1000000 0 6250000))).map (fun t => t.period.next) = some (some (6250000 + 97656)) := by
  decide +kernel
theorem witness_bell_ignored : ({ boundary 100 0 200 with period := { (boundary 100 0 200).period with snapped := true } } : State).period.snapped = true := by
  decide +kernel

/-- An armed block whose bell was at tick 52, at tick 100; a release due then; an arming GATE admitted. -/
def armed : State :=
  { at_ 100 with gate := { high := some 52, lastBell := some (52, true), release := some 100 }, pins := { (at_ 100).pins with gateArm := true },
                 descs := [{ admitted 0 0x39 with cells := [BitVec.ofNat 512 (legend 0x39 0x80 0), 1], pen := 0 }, admitted 1 0x3F] }

theorem witness_gate : armed.live = true ∧ armed.gate.lastBell = some (52, true) ∧ 52 + 48 ≤ armed.tick ∧
    armed.gate.release = some 100 ∧ 100 ≤ armed.tick ∧ (∀ d ∈ armed.descs, ∀ e ∈ armed.descs, d.did = e.did → d = e) ∧
    (∃ d ∈ armed.descs, d.active = true ∧ d.isOpc .gate = true) ∧ (∃ d ∈ armed.descs, ¬(d.active = true ∧ d.isOpc .gate = true)) := by decide +kernel

theorem witness_warning : (book 9).live = true ∧ (book 9).pins.warn = false ∧ (book 9).tally.stop = .no ∧ (book 9).tally.epoch.isSome = true ∧
    (book 9).tally.commit = none ∧ (book 9).tally.refresh = none ∧ (book 9).tally.export_ = none := by decide +kernel

/-- After a warning whose commit is written; during a cut. -/
def warned : State :=
  { book 9 with pins := { (book 9).pins with warn := true },
                tally := { (book 9).tally with stop := .warn, epoch := none, commit := some (commitOf false) } }
def cutting : State := { book 9 with tally := { (book 9).tally with stop := .cut, epoch := none } }

theorem witness_warning_return : warned.live = true ∧ warned.pins.warn = true ∧ warned.tally.stop = .warn ∧ warned.tally.slotDone = true ∧
    cutting.live = true ∧ cutting.pins.warn = false ∧ cutting.tally.stop ≠ .no ∧
    ({ cutting with pins := { cutting.pins with warn := true } } : State).tally.stop ≠ .warn := by decide +kernel

theorem witness_therm : (at_ 3).up = true ∧ (at_ 3).therm.lvl = 0 ∧ (at_ 3).therm.lvl ≠ 3 ∧ (2 : BitVec 2) ≠ 3 := by decide +kernel
/-- L3COUNT stops at 0xFFFF (R361). -/
theorem test_therm_saturates : (got (exec (.thermLvlChange 3) { at_ 3 with therm := { (at_ 3).therm with l3count := 0xFFFF } })).map
    (fun t => (t.therm.lvl, t.therm.l3, t.therm.l3count)) = some (3, true, 0xFFFF) := by decide +kernel

/-! ### Witnesses: opcodes -/

/-- A transaction of unit 0 on port 3 with ID 9, its first byte strobed. -/
def txn (write : Bool) (line : Nat) (owner : Owner) : Txn :=
  { port := 3, id := 9, write := write, line := line, owner := owner, unit := 0,
    req := { port := 3, write := write, id := 9, line := line, sid := 0, qos := 13, noalloc := false, msg := false, data := 0xA5, strb := 1,
             poison := false },
    qos := 13, aged := 0, arrival := 36, limit := 100, retryAt := none }

theorem witness_fold_opcodes : ∀ x ∈ foldCodes, (started 0 x.2 2).isOpc x.1 = true ∧
    (busy x.2 2).desc? 0 = some (started 0 x.2 2) ∧ (started 0 x.2 2).active = true ∧ (busy x.2 2).canRun (started 0 x.2 2) = true ∧
    ((busy x.2 2).ensure 0).desc? 0 = some (started 0 x.2 2) := by decide +kernel

/-- Where no fold sends over the ring, no unit waits for a transfer. -/
theorem legsFor_nil (s : State) (d : Desc) (f u : Nat) (h : s.hops d.p d.did = []) (t : s.tLayout d.p = none) : s.legsFor d f u = [] := by
  simp [State.legsFor, State.legsBefore, h, t]

theorem witness_unhindered : ∀ x ∈ foldCodes ++ [(Opc.deliver, 0x18), (Opc.collect, 0x19)],
    ((busy x.2 2).ensure 0).unhindered (started 0 x.2 2) := by
  have h : ∀ x ∈ foldCodes ++ [(Opc.deliver, 0x18), (Opc.collect, 0x19)], ((busy x.2 2).ensure 0).hops (started 0 x.2 2).p (started 0 x.2 2).did = [] ∧
      ((busy x.2 2).ensure 0).tLayout (started 0 x.2 2).p = none ∧
      (started 0 x.2 2).lineOperands.all (fun g => g.space) = true ∧ ((started 0 x.2 2).work.map Prod.fst).Nodup ∧
      (∀ y ∈ (started 0 x.2 2).work, ((busy x.2 2).ensure 0).works (started 0 x.2 2) y.1 = true) ∧
      ((busy x.2 2).ensure 0).ports.txns = [] ∧ (∀ w ∈ ((busy x.2 2).ensure 0).twins, w.active = false) ∧
      (started 0 x.2 2).checking = false ∧ ((busy x.2 2).ensure 0).cbStop (started 0 x.2 2) = false := by decide +kernel
  intro x hx
  obtain ⟨a, b, c, d, e, f, g, i, j⟩ := h x hx
  exact ⟨rfl, rfl, c, rfl, d, fun y hy => ⟨e y hy, fun u => legsFor_nil _ _ _ u a b⟩, by simp [f], g, by simp [i], j⟩

/-- A COPY of 64 bytes within slice 0, admitted and not begun; then started. -/
def copying : State := { at_ 100 with descs := [{ copy0 with stage := .admitted, admitted := true, step := 1 }] }
def copyD : Desc := ((copying.ensure 0).desc? 0).getD copy0

theorem witness_copy_runs : copying.canRun { copy0 with stage := .admitted, admitted := true, step := 1 } = true ∧
    (copying.ensure 0).desc? 0 = some copyD ∧ copyD.active = true ∧ copyD.begun = true ∧ copyD.work = [(0, [List.range 64])] ∧
    (copying.ensure 0).works copyD 0 = true ∧ copyD.lineOperands.all (fun g => g.space) = true := by decide +kernel

/-- The bytes of slice 0 that a COPY reads. -/
def filled : State := { copying with past := [(0, 0xA5), (63, 0x5A)] }

/-- COPY moves byte 63 of SRC0 to byte 63 of DST (R385). -/
theorem test_copy : (got (exec (.copy 0) filled)).map (fun t => (sget 0 t.past 64, sget 0 t.past 127, sget 0 t.past 63)) =
    some (0xA5, 0x5A, 0x5A) := by decide +kernel

/-- A TRANSPOSE without operands cannot be divided, nor can a SHUFFLE; a VSTORE of an EMPTY register is refused at its start (R151). -/
def bare (opc : Nat) : Desc := { Desc.fresh 0 1 0 [BitVec.ofNat 512 (legend opc 0 1)] none with stage := .admitted, admitted := true }
def vstoreD : Desc := { Desc.fresh 0 1 0 [BitVec.ofNat 512 (legend 0x21 0x88 1), grat true 0 3 64, 2 ^ 5 + 2 ^ 11 * 3] none with
                          stage := .admitted, admitted := true }

theorem witness_start_checks : (bare 0x02).isOpc .transpose = true ∧
    ({ at_ 9 with descs := [bare 0x02] } : State).canStart (bare 0x02) = true ∧
    ({ at_ 9 with descs := [bare 0x02] } : State).heldOf (bare 0x02) = [] ∧ (bare 0x02).begun = false ∧
    ({ at_ 9 with descs := [bare 0x02] } : State).workOf (bare 0x02) = none ∧ (bare 0x04).isOpc .shuffle = true ∧
    ({ at_ 9 with descs := [bare 0x04] } : State).canStart (bare 0x04) = true ∧
    ({ at_ 9 with descs := [bare 0x04] } : State).workOf (bare 0x04) = none := by decide +kernel
theorem witness_start_file : vstoreD.isOpc .vstore = true ∧ ({ at_ 9 with descs := [vstoreD] } : State).canStart vstoreD = true ∧
    (({ at_ 9 with descs := [vstoreD] } : State).workOf vstoreD).map (fun w => w.map Prod.fst) = some [0] ∧
    ({ at_ 9 with descs := [vstoreD] } : State).startBad vstoreD [0] = some .refusedShape := by decide +kernel
theorem test_start_refused : ((got (exec (.vstore 0) { at_ 9 with descs := [vstoreD] })).bind (fun t => t.desc? 0)).map
    (fun d => (d.stage, d.status, d.tDone)) = some (.ended, .refusedShape, 9) := by decide +kernel

theorem witness_destination : (copying.ensure 0).desc? 0 = some copyD ∧ copyD.isOpc .copy = true ∧ copyD.p.dst.isSome = true ∧
    copyD.stalled = [] ∧ copying.heldOf copyD = [] ∧ copyD.wins = [] ∧ (busy 0x20 1).heldOf (started 0 0x20 1) = [] ∧
    (got (exec (.copy 0) copying)).isSome = true ∧ (∀ w ∈ copying.twins, w.active = false) ∧
    (∀ x ∈ copyD.work, ∀ ls ∈ x.2, ∀ l ∈ ls, ∀ p ∈ copying.eltPieces x.1 (copyD.p.dst.getD (Grat.ofCell 0)) l { val := 0, rad := 0 },
      ¬(p.host = true ∧ p.key = 64)) ∧
    (∀ x ∈ copyD.work, ∀ ls ∈ x.2, ∀ l ∈ ls, ∀ p ∈ copying.eltPieces x.1 (copyD.p.dst.getD (Grat.ofCell 0)) l { val := 0, rad := 0 },
      ¬(p.host = false ∧ p.key = 128)) ∧
    (busy 0x20 1).desc? 0 = some (started 0 0x20 1) ∧ (started 0 0x20 1).isOpc .vload = true ∧
    (got (exec (.vload 0) (busy 0x20 1))).isSome = true := by decide +kernel

/-- What the one unit of the COPY writes. -/
def copyOut : Out := filled.unitOut copyD 0 0 (List.range 64)

theorem witness_unit : (∀ p ∈ copyOut.pieces, p.mask < 256 ∧ p.val < 256 ∧ p.val &&& (0xFF ^^^ p.mask) = 0) ∧
    (∀ w ∈ filled.twins, w.active = false) ∧ filled.ecc = [] ∧ copyOut.pieces.length = 64 := by decide +kernel
theorem witness_reorder : copyD.p.src0.isSome = true ∧ copyD.p.dst.isSome = true ∧ copyD.isOpc .copy = true ∧ copyD.derr = [] ∧
    copyD.onWire 0 0 = [] ∧
    8 ≤ (copyD.p.dst.getD (Grat.ofCell 0)).w ∧ 63 ∈ List.range 64 ∧ (copyOut.pieces.map (fun p => (p.host, p.key))).Nodup ∧
    (copyD.p.srcIndex 63).1 = 0 := by decide +kernel

/-- DELIVER and COLLECT started on fold 0 with nothing left to move, on ports that are ready; ports that are not. -/
theorem witness_ports : ∀ x ∈ [(Opc.deliver, 0x18), (Opc.collect, 0x19)], (started 0 x.2 0).isOpc x.1 = true ∧
    (busy x.2 0).canRun (started 0 x.2 0) = true ∧ (busy x.2 0).portUp (started 0 x.2 0) = true ∧
    ((busy x.2 0).ensure 0).desc? 0 = some (started 0 x.2 0) ∧ (started 0 x.2 0).active = true ∧
    (∀ y ∈ (started 0 x.2 0).work, (started 0 x.2 0).collectReady y.2 = y.2.length) ∧
    (bring 9).portUp (started 0 x.2 0) = false := by decide +kernel

/-- A rank-2 graticule of one U8 element at address 0 under projection `proj`. -/
def one (space : Bool) (proj : Nat) : Cell :=
  BitVec.ofNat 512 ((if space then 2 ^ 63 else 0) + 2 ^ 64 * 3 + 2 ^ 69 + 2 ^ 72 * proj + 2 ^ 128 + 2 ^ 160 + 2 ^ 330 + 2 ^ 362)

/-- DELIVER of one byte on NE port 3 as a block of projection 1, and COLLECT of 64 bytes from NR port 1, within slice 0. -/
def deliverD : Desc := { Desc.fresh 0 1 0 [BitVec.ofNat 512 (legend 0x18 0x89 1), one true 0, one false 1, 3] none with
                           stage := .admitted, admitted := true, step := 1 }
def collectD : Desc := { Desc.fresh 0 1 0 [BitVec.ofNat 512 (legend 0x19 0x89 1), grat false 0 3 64, grat true 0 3 64, 1] none with
                           stage := .admitted, admitted := true, step := 1 }
def delivering : State := { at_ 100 with descs := [deliverD] }
def collecting : State := ({ at_ 100 with descs := [collectD] } : State).ensure 0
def collectS : Desc := (collecting.desc? 0).getD collectD

theorem witness_deliver : delivering.canRun deliverD = true ∧ delivering.portUp deliverD = true ∧
    (((delivering.ensure 0).desc? 0).map (fun d => (d.begun, d.work))) = some (true, [(0, [[0]])]) := by decide +kernel
/-- The 16 beats of the block leave on port 3 with the byte in front, and the last says so (R68, R270, Table 10-6). -/
theorem test_deliver : (got (exec (.deliver 0 0) { delivering with past := [(0, 0xA5)] })).map
    (fun t => (t.neOut.length, t.neOut.head?, t.neOut.getLast?)) = some (16, some (.beat 3 0 0xA5 false false), some (.beat 3 15 0 true false)) := by
  decide +kernel

theorem witness_drain : (∀ d ∈ (at_ 9).descs, ¬(d.active = true ∧ d.isOpc .collect = true)) ∧
    (collecting.descs.find? (fun e => e.active && e.isOpc .collect && e.portNum = 12 + (1 : BitVec 1).toNat && collecting.portUp e &&
      collecting.runsSome e)).map (fun d => d.did) = some 0 ∧
    collectS.begun = true ∧ collectS.p.src0.isSome = true ∧
    ((collectS.p.src0.getD (Grat.ofCell 0)).drainBeats[collectS.drain.length]?) = some (0, true) ∧
    (collecting.ensure 0).desc? 0 = some collectS ∧ collectS.active = true ∧ (collecting.ensure 0).slotFree collectS = true ∧
    ({ collecting with ports := { collecting.ports with txns := List.replicate 64 (txn false 0x40 (.drover 0 0)) } } : State).slotFree collectS =
      false := by decide +kernel
theorem witness_stall : (collecting.desc? 0) = some collectS ∧ collectS.active = true ∧ collecting.runsSome collectS = true ∧
    (collecting.ensure 0).desc? 0 = some collectS ∧ collectS.begun = true ∧ collectS.stallFrom = some (100, 0x400) ∧ collectS.bounded = false ∧
    collectS.stalled = [] ∧ (∀ w ∈ collecting.twins, w.active = false) ∧ ((at_ 9).runsSome { collectD with waitOn := [] } = true) ∧
    ({ at_ 9 with boot := { (at_ 9).boot with passed := [] }, pause := { (at_ 9).pause with req := true } } : State).runsSome collectD = false ∧
    100 + 0x400 ≤ ({ collecting with tick := 1124 } : State).tick ∧
    ({ collecting with tick := 1123 } : State).tick < 100 + 0x400 := by decide +kernel

/-- NOP, SEEDSET and FENCE admitted; the FENCE behind an earlier descriptor of its pen. -/
def stileD (did opc : Nat) : Desc := { Desc.fresh did 1 0 [BitVec.ofNat 512 (legend opc 0 1)] none with stage := .admitted, admitted := true, step := did }
def stiling (opc : Nat) : State := { at_ 9 with descs := [stileD 4 opc] }

theorem witness_stile : ∀ x ∈ [(Opc.fence, 0x38), (Opc.nop, 0x3F), (Opc.seedset, 0x3E)], (stiling x.2).live = true ∧
    (stileD 4 x.2).isOpc x.1 = true ∧ (stileD 4 x.2).active = true ∧ (stiling x.2).waitsMet (stileD 4 x.2) = true ∧
    (∀ y ∈ (stiling x.2).descs, y.admitted = true → y.pen = 1 → 4 ≤ y.step) ∧ (stileD 4 x.2).cov = [] ∧ (stileD 4 x.2).accs = [] ∧
    (stileD 4 x.2).marked = false ∧ (stileD 4 x.2).folds = [] := by decide +kernel
theorem witness_stile_waits : ({ stiling 0x3F with descs := [{ stileD 4 0x3F with waitOn := [3] }, stileD 3 0x3F] } : State).waitsMet
      { stileD 4 0x3F with waitOn := [3] } = false ∧
    (∃ x ∈ [stileD 3 0x3F, stileD 4 0x38], x.admitted = true ∧ x.pen = 1 ∧ x.step < 4) := by decide +kernel
theorem witness_gates : armed.live = true ∧ (∃ e ∈ armed.descs, e.active = true ∧ e.isOpc .gate = true ∧ e.p.arms = true) ∧
    (stiling 0x39).live = true ∧ (stileD 4 0x39).active = true ∧ (stileD 4 0x39).isOpc .gate = true ∧ (stileD 4 0x39).p.arms = false ∧
    (stileD 4 0x39).admitted = true := by decide +kernel

/-! ### Witnesses: CANCEL, PLANLOAD, the run records -/

/-- A CANCEL of the descriptor `i`. -/
def cancelD (i : Nat) : Desc := { stileD 9 0x3C with targets := [i], pen := 0 }
def cancelling (l : List Desc) : State := { at_ 100 with descs := l ++ [cancelD 0] }

theorem witness_cancel : (cancelling []).live = true ∧ (cancelD 0).active = true ∧ (cancelD 0).isOpc .cancel = true ∧
    (cancelling []).waitsMet (cancelD 0) = true ∧ (∀ i ∈ (cancelD 0).targets, (cancelling []).desc? i = none) ∧ (cancelD 0).folds = [] ∧
    (cancelD 0).targets = [0] ∧ 0 ≠ 9 ∧ (cancelling [nop0]).desc? 0 = some nop0 ∧ nop0.stage = .fetched ∧
    (cancelling [started 0 0x01 2]).desc? 0 = some (started 0 0x01 2) ∧ (started 0 0x01 2).active = true ∧
    (started 0 0x01 2).isOpc .tally = false ∧
    (cancelling [started 0 0x01 2]).pastWrite (started 0 0x01 2) [] = false := by decide +kernel

/-- A VSTORE that has issued its first write; a TALLY whose record is not folded, and one whose record is. -/
def stored : Desc := { started 0 0x21 2 with prog := [(0, 1)] }
def tallyD : Desc := stileD 0 0x3B
def record0 (folded : Bool) : RunRec :=
  { did := 0, pen := 1, bytes := List.replicate 64 7, mv := true, folded := folded, layers := [], stepOpen := none, stoch := [], mvs := [] }

theorem witness_cancel_runs_on : stored.active = true ∧ stored.isOpc .tally = false ∧ stored.begun = true ∧
    (cancelling [stored]).pastWrite stored [] = true ∧ tallyD.active = true ∧ tallyD.isOpc .tally = true ∧
    [record0 false].find? (fun q => decide (q.did = 0)) = some (record0 false) ∧
    [record0 true].find? (fun q => decide (q.did = 0)) = some (record0 true) := by decide +kernel

/-- PLANLOAD of plan 5 of pen 1 from one cell at host address 0x40; with CLEAR; with nothing at that address. -/
def planD (clear : Bool) : Desc :=
  { Desc.fresh 0 0 0 [BitVec.ofNat 512 (legend 0x3D 0x81 0), grat false 0x40 3 64,
                      BitVec.ofNat 512 (5 + (if clear then 2 ^ 10 else 0) + 2 ^ 32)] none with stage := .admitted, admitted := true }
def planning (clear image loaded : Bool) : State :=
  { at_ 9 with descs := [planD clear], host := if image then ssetAll 0 [] (bytesAt 0x40 (leBytes (legend 0x3F 0 1) 64)) else [],
               plans := if loaded then [(5, { Plan.blank with loaded := some (1, [0]) })] else [] }

theorem witness_planload : ∀ clear image loaded, (planning clear image loaded).live = true ∧
    (planning clear image loaded).desc? 0 = some (planD clear) ∧ (planD clear).active = true ∧ (planD clear).isOpc .planload = true ∧
    (planning clear image loaded).waitsMet (planD clear) = true ∧ (planD clear).begun = false ∧ fld (planD clear).p.aux 0 10 = 5 ∧
    fld (planD clear).p.aux 32 12 = 1 ∧ (sget Plan.blank (planning clear image loaded).plans 5).staged = none ∧
    (sget Plan.blank (planning clear image loaded).plans 5).clear ≠ some 0 ∧ (planD clear).folds = [] ∧
    (planD clear).accs = [] ∧ (planning clear image loaded).folds = [] ∧
    bit (planD clear).p.aux 10 = clear ∧ (planD clear).p.src0.isSome = true := by decide +kernel
theorem witness_plan_image : planImageOk ((planning false true false).imageCells 0x40 1) 1 = true ∧
    planImageOk ((planning false false false).imageCells 0x40 1) 1 = false ∧ (planning false true true).storeUsed 5 + 1 ≤ 16384 ∧
    16384 < ({ planning false true false with plans := [(6, { Plan.blank with loaded := some (1, List.replicate 16384 0) })] } : State).storeUsed 5 + 1 := by
  decide +kernel

/-- A TALLY admitted on a mounted book; behind an earlier DIGEST with RUN = 1. -/
def tallying : State := { book 9 with descs := [tallyD] }
def digestD : Desc := { Desc.fresh 1 1 0 [BitVec.ofNat 512 (legend 0x3A 0x80 1), BitVec.ofNat 512 (2 ^ 16)] none with
                          stage := .admitted, admitted := true, step := 1 }
def tallyLate : Desc := { stileD 2 0x3B with step := 2 }

theorem witness_tally : tallying.stileReady .tally 0 = true ∧ tallying.tallyReady tallyD = true ∧
    ({ book 9 with descs := [digestD, tallyLate] } : State).tallyReady tallyLate = false := by decide +kernel

/-- One record waits. -/
def recorded (folded : Bool) : State :=
  { book 9 with descs := [tallyD], tally := { (book 9).tally with waiting := [record0 folded] } }

theorem witness_leaf : (recorded false).live = true ∧ (recorded false).tally.st = .mounted ∧ (recorded false).tally.stop = .no ∧
    (recorded false).tally.epoch.isSome = true ∧ (recorded false).tally.waiting.find? (fun x => !x.folded) = some (record0 false) := by
  decide +kernel
theorem witness_run_log : (recorded true).live = true ∧ (recorded true).cfg.enable = true ∧ (recorded true).runLogging = false ∧
    (recorded true).tally.waiting.find? (fun x => x.folded) = some (record0 true) ∧ (recorded true).runRoom (record0 true) = true ∧
    ({ recorded true with logs := { (recorded true).logs with runW := 1024 } } : State).runRoom (record0 true) = false ∧
    (recorded true).logs.runFull = false ∧ ((record0 true).cells = 1) ∧
    (({ recorded true with logs := { (recorded true).logs with runFull := false } } : State).issueOwn (.runLog 0 1) true
      ((List.range 1).map (fun i => (64 * fld (10 : BitVec 64).toNat 6 42 + 64 * ((0 + i) % 2 ^ fld (10 : BitVec 64).toNat 0 5)) / 64))
      (bytesAt 0 (List.replicate 64 7))).isSome = true := by decide +kernel

/-! ### Witnesses: folds and streaming -/

/-- Fold 0 runs a background COPY of three units of its own, the first committed; a bounded descriptor waits for the fold. -/
def background : Desc := { started 0 0x01 3 with prog := [(0, 1)] }
def boundD : Desc := { stileD 1 0x01 with bound := some 900, folds := [0] }
def preempting : State := { busy 0x01 3 with descs := [background, boundD] }

/-- The same fold with the background suspended for it, and with it gone. -/
def suspended (gone : Bool) : State :=
  { preempting with descs := if gone then [background] else [background, boundD],
                    folds := [(0, { Fold.blank with susp := some { did := 0, why := .preempt 1, ready := false } })] }

theorem witness_preempt : preempting.live = true ∧ preempting.pause.paused = false ∧ preempting.desc? 0 = some background ∧
    preempting.preemptor 0 = some boundD ∧ preempting.runsOn background 0 = true ∧ background.ranked = false ∧
    (preempting.lfold 0).susp = none ∧ background.at_ 0 ≤ 2 ∧ background.at_ 0 = 1 ∧ background.stalled = [] ∧ 2 < background.unitsOn 0 ∧
    ((preempting.advanceOne 0 0 2).desc? 0).map (fun x => (x.at_ 0, x.active)) = some (2, true) := by decide +kernel

/-- A background COPY of two host lines without a token: it cannot come to its second unit. -/
def dryD : Desc :=
  { Desc.fresh 0 1 0 [BitVec.ofNat 512 (legend 0x01 0x09 1), grat false 0x1000 3 128, grat true 64 3 128] none with
      stage := .admitted, admitted := true, step := 1, begun := true, folds := [0],
      work := [(0, [List.range 64, (List.range 64).map (fun l => l + 64)])] }
def dry : State := { preempting with descs := [dryD, boundD], pens := [(1, { servedPen 1 with tokTick := 100, tokens := 0 })] }

theorem witness_preempt_waits : dry.desc? 0 = some dryD ∧ dry.preemptor 0 = some boundD ∧ dry.runsOn dryD 0 = true ∧ dryD.ranked = false ∧
    (dry.lfold 0).susp = none ∧ dryD.at_ 0 ≤ 1 ∧ 1 < dryD.unitsOn 0 ∧
    ((dry.advanceOne 0 0 1).desc? 0).map (fun x => x.at_ 0) = some 0 := by decide +kernel
theorem witness_resume_suspended : (suspended true).live = true ∧ (suspended true).pause.req = false ∧ (suspended true).present 0 = true ∧
    (suspended true).lfold 0 = { Fold.blank with susp := some { did := 0, why := .preempt 1, ready := false } } ∧
    (suspended true).suspReady { did := 0, why := .preempt 1, ready := false } = true ∧
    (suspended false).suspReady { did := 0, why := .preempt 1, ready := false } = false := by decide +kernel

/-- A bounded COPY from a host line to pasture, started on fold 0, entitled to its line; the same descriptor past its entitlement. -/
def streamD : Desc :=
  { Desc.fresh 0 1 0 [BitVec.ofNat 512 (legend 0x01 0x09 1), grat false 0x1000 3 64, grat true 64 3 64] none with
      stage := .admitted, admitted := true, step := 1, begun := true, folds := [0], work := [(0, [List.range 64])],
      bound := some 900, start := 0, xbytes := 64 }
def streaming (issued : Nat) : State :=
  { busy 0x01 1 with descs := [{ streamD with issued := issued }], pens := [(1, { servedPen 1 with tokTick := 100 })] }

theorem witness_grant : (streaming 0).live = true ∧ ((streaming 0).ensure 0).comeOn 0 0 = streaming 0 ∧ (streaming 0).ensure 0 = streaming 0 ∧
    (streaming 0).cameTo streamD 0 0 ≤ streamD.at_ 0 ∧ (streaming 0).desc? 0 = some streamD ∧
    (streaming 0).phys 0 = some 0 ∧ streamD.active = true ∧ (streaming 0).pause.paused = false ∧
    (streaming 0).nextRead streamD 0 = some (0, { line := 0x40, stage := 1, noalloc := false }) ∧
    (streaming 0).mayFetchAhead streamD 0 = true ∧ (streaming 0).mayRead streamD 0 0 0 { line := 0x40, stage := 1, noalloc := false } = true ∧
    (streaming 0).landingUsed 0 < 64 ∧ ((streaming 0).batchFor 0 0 0 (streamD.linePort 0x40 false) false).isSome = true ∧
    (streaming 0).portOpen streamD 0x40 false = true ∧ (streaming 0).firstAsking streamD 0 = true ∧
    ((streaming 0).lineId streamD 0x40 false).isSome = true ∧ 0 < ((streaming 0).grants streamD).1 + ((streaming 0).grants streamD).2 ∧
    (streaming 64).nextRead { streamD with issued := 64 } 0 = some (0, { line := 0x40, stage := 1, noalloc := false }) ∧
    ((streaming 64).grants { streamD with issued := 64 }).1 + ((streaming 64).grants { streamD with issued := 64 }).2 = 0 := by
  decide +kernel

/-- The same COPY from pasture to the host line: its write is due at once. -/
def writeD : Desc :=
  { streamD with cells := [BitVec.ofNat 512 (legend 0x01 0x09 1), grat true 64 3 64, grat false 0x1000 3 64] }
def writing0 : State := { streaming 0 with descs := [writeD] }

theorem witness_grant_write : (writing0.ensure 0).comeOn 0 0 = writing0 ∧ writing0.desc? 0 = some writeD ∧ writing0.runsOn writeD 0 = true ∧
    (writing0.nextWrite writeD 0 0).map (fun x => (x.1, x.2.1.line, x.2.2.2.1)) = some (0, 0x40, 0xFFFFFFFFFFFFFFFF) ∧
    (writing0.batchFor 0 0 0 (writeD.linePort 0x40 true) true).isSome = true ∧ writing0.portOpen writeD 0x40 true = true ∧
    writing0.firstAsking writeD 0 = true ∧ (writing0.lineId writeD 0x40 true).isSome = true ∧
    0 < (writing0.grants writeD).1 + (writing0.grants writeD).2 := by decide +kernel

/-- A COPY from pasture to two host lines whose first line has left: its fold comes to the second unit. -/
def sendingD : Desc :=
  { streamD with cells := [BitVec.ofNat 512 (legend 0x01 0x09 1), grat true 64 3 128, grat false 0x1000 3 128], xbytes := 128, issued := 64,
                 work := [(0, [List.range 64, (List.range 64).map (fun l => l + 64)])],
                 sent := [{ fold := 0, unit := 0, write := true, n := 1 }], wire := [(0, 0, 0x40)] }
def sending : State := { streaming 0 with descs := [sendingD] }

theorem test_grant_comes_on : sending.cameTo sendingD 0 0 = 1 ∧
    ((sending.comeOn 0 0).desc? 0).map (fun d => (d.at_ 0, d.issued, d.active)) = some (1, 64, true) ∧
    ((sending.comeOn 0 0).desc? 0).bind (fun d => ((sending.comeOn 0 0).nextWrite d 0 0).map (fun x => (x.1, x.2.1.line))) = some (1, 0x41) ∧
    (sending.comeOn 0 0).host = sending.host := by decide +kernel

/-- Descriptor 0 waits to move 3 beats from fold 0 to fold 1; another transfer holds fold 1's receive path, or has come later. -/
def transfer0 : Transfer := { did := 0, index := 0, src := 0, dst := 1, beats := 3, asked := 50, step := 1, until_ := none }
def ringing (other : Option Nat) (asked : Nat) : State :=
  { busy 0x01 1 with xfers := [transfer0, { did := 5, index := 0, src := 2, dst := 1, beats := 1, asked := asked, step := 2, until_ := other }] }

theorem witness_ring : (ringing none 51).live = true ∧ ((ringing none 51).ensure 0).desc? 0 = some (started 0 0x01 1) ∧
    (ringing none 51).transfer (started 0 0x01 1) 0 = some transfer0 ∧
    (ringing none 51).shareRing transfer0 { did := 5, index := 0, src := 2, dst := 1, beats := 1, asked := 51, step := 2, until_ := none } = true ∧
    transfer0.before { did := 5, index := 0, src := 2, dst := 1, beats := 1, asked := 51, step := 2, until_ := none } = true ∧
    transfer0.before { did := 5, index := 0, src := 2, dst := 1, beats := 1, asked := 49, step := 2, until_ := none } = false ∧
    (started 0 0x01 1).active = true ∧ (started 0 0x01 1).begun = true ∧ (ringing none 51).legDue (started 0 0x01 1) 0 = true ∧
    (ringing (some 101) 51).tick < 101 := by decide +kernel

/-! ### Witnesses: responses -/

/-- An access of Polter's own of one line. -/
def answered (a : Txn) (k : OwnKind) (waiting : Bool) : State :=
  { streaming 0 with ports := { (streaming 0).ports with txns := [a] },
                     own := [{ key := 0, kind := k, writes := bytesAt 0x40 (leBytes 7 64), waiting := waiting }] }

theorem witness_responses : (answered (txn false 0x40 (.drover 0 0)) .event false).txn? 3 9 = some (txn false 0x40 (.drover 0 0)) ∧
    (answered (txn false 0x40 (.own 0)) .event false).txn? 3 9 = some (txn false 0x40 (.own 0)) ∧
    (answered (txn true 0x40 (.drover 0 0)) .event false).txn? 3 9 = some (txn true 0x40 (.drover 0 0)) ∧
    (answered (txn true 1 (.own 0)) .event false).up = true ∧
    ({ answered (txn true 1 (.own 0)) .event false with pins := inReset.pins } : State).up = false := by decide +kernel
theorem witness_own_write : ∀ k ∈ [OwnKind.event, .message 2 true, .runLog 0 1],
    (answered (txn true 1 (.own 0)) k false).txn? 3 9 = some (txn true 1 (.own 0)) ∧
    (answered (txn true 1 (.own 0)) k false).own.find? (fun y => decide (y.key = 0)) =
      some { key := 0, kind := k, writes := bytesAt 0x40 (leBytes 7 64), waiting := false } ∧
    ((bytesAt 0x40 (leBytes 7 64)).map Prod.fst).Nodup ∧
    (∀ z ∈ (answered (txn true 1 (.own 0)) k false).ports.txns.erase (txn true 1 (.own 0)), z.owner ≠ .own 0) := by decide +kernel
/-- A request of a retired fold's drover; two requests due for reissue, the second of higher QoS. -/
def due (n q : Nat) : Txn := { txn false 0x40 (.drover 0 n) with id := 9 + n, qos := q, retryAt := some 100 }
def duel : State := { streaming 0 with ports := { (streaming 0).ports with txns := [due 0 12, due 1 13] } }

theorem witness_reissue : (answered (txn false 0x40 (.drover 67 0)) .event false).orphan (.drover 67 0) = true ∧ duel.up = true ∧
    duel.orphan (.drover 0 0) = false ∧ duel.waitingTxn 3 9 = some (due 0 12) ∧ duel.waitingTxn 3 10 = some (due 1 13) ∧
    duel.winsPort (due 0 12) = false ∧ duel.winsPort (due 1 13) = true ∧ (due 1 13).retryAt = some 100 ∧ 100 ≤ duel.tick ∧
    ({ duel with tick := 99 } : State).tick < 100 := by decide +kernel
theorem witness_unusual : (at_ 3).up = true ∧ (at_ 3).ports.quar.contains (3, 9) = false ∧
    ({ at_ 3 with ports := { (at_ 3).ports with quar := [(3, 9)] } } : State).ports.quar.contains (3, 9) = true ∧
    (txn true 1 (.own 0)).qos + (txn true 1 (.own 0)).aged < 14 ∧ 36 + 64 * (0 + 1) ≤ (streaming 0).tick ∧
    14 ≤ ({ txn true 1 (.own 0) with aged := 1 } : Txn).qos + ({ txn true 1 (.own 0) with aged := 1 } : Txn).aged ∧
    (answered (txn true 0x40 (.drover 0 0)) .event false).desc? 0 = some streamD := by decide +kernel

/-- Descriptor 0, bounded, one of its two units done. -/
def faultD : Desc := { streamD with work := [(0, [[], []])], prog := [(0, 1)] }

/-- Descriptor 0 runs on fold 0; a read of its is out; a bounded descriptor waits behind it. -/
def faulting (susp : Bool) : State :=
  { answered (txn false 0x40 (.drover 0 0)) .event false with
      descs := [faultD, boundD],
      folds := [(0, { Fold.blank with running := some 0, logicOn := true,
                                      susp := if susp then some { did := 7, why := .preempt 0, ready := false } else none })] }

theorem witness_faults_of_folds : ∀ b, (faulting b).up = true ∧ (faulting b).txn? 3 9 = some (txn false 0x40 (.drover 0 0)) ∧
    (faulting b).desc? 0 = some faultD ∧ (faulting b).logical 0 = some 0 ∧ faultD.active = true ∧ faultD.admitted = true ∧ faultD.begun = true ∧
    (faulting b).works faultD 0 = true ∧ faultD.stalled = [] ∧ faultD.at_ 0 = 1 ∧ faultD.unitsOn 0 = 2 ∧ faultD.checking = false ∧
    (∀ w ∈ (faulting b).twins, w.active = false) ∧ faultD.p.pinned = false ∧ (faulting b).evtUsed + 1 < (faulting b).evtFree + 64 ∧
    ((faulting b).lfold 0).susp.isSome = b ∧
    ({ faultD with cells := [BitVec.ofNat 512 (legend 0x01 0x09 1 + 2 ^ 98)] } : Desc).p.pinned = true ∧ (faulting b).faultedOn 0 0 = false ∧ faultD.bound.isSome = true ∧
    (faulting b).ports.txns.find? (fun x => decide (x.port = 3 ∧ x.id = 9 ∧ x.limit ≤ (faulting b).tick)) = some (txn false 0x40 (.drover 0 0)) ∧
    (txn true 0x40 (.drover 0 0)).unit < faultD.at_ 0 ∧ faultD.step < boundD.step + 1 ∧ boundD.active = true ∧
    boundD.bound.isSome = true ∧ boundD.p.pinned = false ∧ (∃ g ∈ boundD.folds, g ∈ faultD.folds) ∧ 1 < 2 := by decide +kernel
theorem witness_faults_of_own : ∀ k ∈ [OwnKind.completion 0 5, .burst 1], (answered (txn true 1 (.own 0)) k false).up = true ∧
    (answered (txn true 1 (.own 0)) k false).txn? 3 9 = some (txn true 1 (.own 0)) ∧
    ((answered (txn true 1 (.own 0)) k false).ring 0).faulted = false := by decide +kernel

/-- A pause asked for with nothing running; in the pause. -/
def pauseAt (paused : Bool) : State :=
  { at_ 9 with pause := { req := true, paused := paused, busy := !paused, base := 0x80000, retry := [] } }

/-- Fold 0 holds descriptor 0 at a fault of tick 90 with an XLAT_WAIT of 10: suspended, or waiting in place. -/
def unserviced (place : Bool) : State :=
  let u : Susp := { did := 0, why := .fault 90 10, ready := false }
  { faulting false with folds := [(0, if place then { Fold.blank with running := some 0, inPlace := some u } else { Fold.blank with susp := some u })] }

theorem witness_xresume_in_pause : ({ unserviced false with pause := (pauseAt true).pause } : State).live = true ∧
    ((unserviced false).lfold 0).inPlace = none := by decide +kernel
theorem witness_xresume : ∀ b, (unserviced b).live = true ∧ (unserviced b).present 0 = true ∧
    ((unserviced b).lfold 0).fault = some { did := 0, why := .fault 90 10, ready := false } ∧
    ((unserviced b).desc? 0).map (fun d => (d.active, d.checking)) = some (true, false) ∧ (∀ w ∈ (unserviced b).twins, w.active = false) ∧ bit (unserviced b).ready.fold.toNat 0 = true ∧
    (unserviced b).pause.req = false ∧ (unserviced b).pause.paused = false ∧ 90 + 10 ≤ (unserviced b).tick ∧
    (unserviced b).pause.retry = [] ∧ ({ unserviced b with tick := 99 } : State).tick < 90 + 10 ∧
    ((unserviced b).lfold 0).inPlace = (if b then some { did := 0, why := .fault 90 10, ready := false } else none) ∧
    ((at_ 3).lfold 0).fault = none := by decide +kernel

/-! ### Witnesses: completion, messages, events -/

/-- A descriptor of pen 1 ended, unbounded, its ring 0 loaded with `w` records sent of 16 and none consumed. -/
def endedD : Desc := { admitted 0 0x3F with stage := .ended, tDone := 3 }
def completing (w : BitVec 32) : State :=
  { at_ 3 with descs := [endedD], pens := [(1, servedPen 1)],
               rings := [(0, { CplRing.blank with loaded := true, base := 0x20000, logsz := 4, w := w })] }

/-- Its record is prepared and one entry of its raddle map is on its way. -/
def mapping : State :=
  { completing 15 with descs := [{ endedD with tried := true }], own := [{ key := 0, kind := .map 0 0 0, writes := [], waiting := false }] }

theorem witness_completion : (completing 15).desc? 0 = some endedD ∧ (completing 15).live = true ∧ endedD.stage = .ended ∧
    (completing 15).writing 0 = false ∧ endedD.tried = false ∧
    ((completing 15).prepareRecord endedD).desc? 0 = some { endedD with tried := true } ∧
    ((completing 15).prepareRecord endedD).mapOut 0 = false ∧
    (((((completing 15).prepareRecord endedD).readCons 0).ring 0).held.contains 0) = false ∧
    (mapping.desc? 0 = some { endedD with tried := true } ∧ mapping.mapOut 0 = true) ∧
    (((completing 15).prepareRecord endedD).ring 0).bad = false ∧ (((completing 15).prepareRecord endedD).ring 0).full = false ∧
    ((completing 15).prepareRecord endedD).ringOf endedD = 0 ∧
    (((((completing 15).prepareRecord endedD).readCons 0).ring 0).held = []) ∧
    ((((completing 15).prepareRecord endedD).readCons 0).ring 0).faulted = false ∧
    ((((completing 15).prepareRecord endedD).readCons 0).ring 0).room = true ∧
    ((((completing 15).prepareRecord endedD).readCons 0).issueRecord { endedD with tried := true } false).isSome = true ∧
    ((((completing 16).prepareRecord endedD).readCons 0).ring 0).room = false ∧ 2 < (completing 15).cnt.length := by decide +kernel
theorem witness_completion_waits : (admitted 0 0x3F).stage ≠ .ended ∧ (answered (txn true 0x40 (.drover 0 0)) .event false).writing 0 = true ∧
    (completing 15).cfg.enable = true ∧ ((completing 15).ring 0).loaded = true := by decide +kernel

/-- A message of vector 2 is due; the vector is masked, and pends. -/
def messaging (mask : BitVec 4) : State :=
  { at_ 3 with msgs := [(2, false)], cfg := { (at_ 3).cfg with intMask := mask }, intPend := 4 }

theorem witness_message : (messaging 4).up = true ∧ (messaging 4).msgs = [(2, false)] ∧ bit (messaging 4).cfg.intMask.toNat 2 = true ∧
    bit (messaging 0).cfg.intMask.toNat 2 = false ∧ (({ messaging 0 with msgs := [] } : State).issueMessage 2 false).isSome = true ∧
    bit (messaging 4).intPend.toNat 2 = true ∧ (messaging 4).pendDue 2 = false ∧ bit (0 : BitVec 32).toNat 2 = false := by decide +kernel

/-- One event record waits; one own write waits for its retry. -/
def evented : State :=
  { at_ 3 with evt := { (at_ 3).evt with queue := [{ code := 0x405, fold := none, tag := 0, brand := 0, pen := 0xFFF, tick := 1, info := 0 }] } }
def retrying : State := answered (txn true 1 (.own 5)) (.completion 0 4) true

theorem witness_event : evented.up = true ∧ evented.cfg.enable = true ∧ evented.evtRoom = true ∧ (∀ o ∈ evented.own, o.kind ≠ .event) ∧
    evented.evt.queue.length = 1 ∧ (evented.issueOwn .event true [(64 * fld (8 : BitVec 64).toNat 6 42 + 32 * (0 % 2 ^ 8)) / 64]
      (bytesAt 0 (List.replicate 32 1))).isSome = true := by decide +kernel
theorem witness_own_retry : retrying.up = true ∧ (retrying.own.find? (fun y => y.waiting && ownNamed (.completion 0) y.kind)).isSome = true ∧
    (({ retrying with own := retrying.own.map (fun x => if x.key = 0 then { x with waiting := false } else x) } : State).issueLines 0 true false
      (bytesAt 0x40 (leBytes 7 64)) (linesOfBytes (bytesAt 0x40 (leBytes 7 64)))).isSome = true := by decide +kernel

/-! ### Witnesses: faults, scrubbers, spares -/

/-- At the tick of its first slot, physical fold 67's scrubber finds word 3 of its slice uncorrectable. -/
def scrubbing (n : Nat) : State :=
  { at_ n with ecc := [(131072 * 67 + 3, .hard)], handed := [(131072 * 67 + 9, 960)] }

theorem witness_scrub : (67 : BitVec 7).toNat < 68 ∧ (scrubbing 1024).live = true ∧ (scrubbing 1024).boot.pastureDone = true ∧
    (scrubbing 1024).usable 67 = true ∧ ((scrubbing 1024).fold 67).scrub = 0 ∧ 1024 * (0 + 1) ≤ (scrubbing 1024).tick ∧
    (scrubbing 1023).tick < 1024 * (0 + 1) ∧ 131072 * 67 + 8 * (0 % 16384) + 8 ≤ 131072 * 67 + (8 : BitVec 17).toNat ∧
    (∃ h ∈ (scrubbing 1024).handed, h.1 = 131072 * 67 + 9 ∧ h.2 + 64 ≤ (scrubbing 1024).tick) ∧
    (∀ h ∈ (scrubbing 1023).handed, ¬(h.1 = 131072 * 67 + 9 ∧ h.2 + 64 ≤ (scrubbing 1023).tick)) := by decide +kernel
theorem witness_mram_patrol : (at_ 3).live = true ∧ (at_ 3).ready.shepherd = true ∧ 65535 < mramWords true ∧ 2097151 < mramWords false ∧
    (at_ 3).mram.bad true (32 * 65535) 32 = false ∧
    ({ at_ 3 with mram := { Mram.factory with badSeals := [65535] } } : State).mram.bad true (32 * 65535) 32 = true ∧
    (at_ 3).pause.paused = false ∧ (at_ 3).usable 67 = true ∧ (at_ 3).patrolled 67 = true ∧
    ((at_ 3).fold 67).patrol = (0 : BitVec 4).toNat ∧ (at_ 3).pstate 67 = .spare ∧ (at_ 3).pstate 0 = .backs := by decide +kernel

/-- Fold 0 runs two units of descriptor 0, whose checker has struck once before, or not; folds 0 and 1 a twin pair. -/
def struck (again : Bool) : State :=
  { busy 0x01 2 with folds := [(0, { Fold.blank with running := some 0, logicOn := true, strikes := if again then [(0, 0)] else [] })] }
def twinned (again : Bool) : State :=
  { struck again with twins := { pri := 0, shd := 1, en := true, active := true, fault := false, taken := true, prep := false } ::
                                 (at_ 3).twins.drop 1 }

theorem witness_strikes : ∀ b, (struck b).desc? 0 = some (started 0 0x01 2) ∧ (struck b).pairWith 0 = none ∧
    (struck b).strikes (started 0 0x01 2) 0 1 = true ∧ (struck b).phys 0 = some 0 ∧ ((struck b).lfold 0).strikes.length = b2n b ∧
    (struck b).pstate 0 = .backs ∧ (struck b).logical 0 = some 0 ∧ (struck b).fmap.subst = [] ∧ (started 0 0x01 2).folds.contains 0 = true ∧
    (struck b).waitsMet (started 0 0x01 2) = true ∧ ((struck b).descs.map (fun x => x.did)).Nodup ∧ (started 0 0x01 2).checking = false ∧
    (started 0 0x01 2).admitted = true ∧ (∀ w ∈ (struck b).twins, w.active = false) ∧ (struck b).strikes (started 0 0x01 2) 0 0 = true ∧
    (started 0 0x01 2).at_ ((started 0 0x01 2).shareFold 0) = 0 ∧ permuterFault false 1 2 = true ∧ permuterFault false 1 (2 ^ 8) = false ∧ 5 ≤ (5 : BitVec 4).toNat ∧
    (11 : BitVec 4).toNat ≤ 11 := by decide +kernel
theorem test_clean_rerun : (match exec (.copy 0) (struck true) with
    | .next t => (t.desc? 0).map (fun d => (d.status, d.noted))
    | _ => none) = some (.doneNoted, true) := by decide +kernel
theorem witness_twin_strikes : ∀ b, ((twinned b).twins[0]?).map (fun a => (a.active, a.pri.toNat)) = some (true, 0) ∧
    (twinned b).desc? 0 = some (started 0 0x01 2) ∧ (twinned b).strikes (started 0 0x01 2) 0 0 = true ∧ (started 0 0x01 2).admitted = true ∧
    (started 0 0x01 2).at_ 0 = 0 ∧ (twinned b).diverged 0 = b := by decide +kernel

/-- No spare is left; a substitution of fold 63 by spare 67 is under way. -/
def spareless : State :=
  { at_ 3 with fmap := { (at_ 3).fmap with state := List.replicate 64 .backs ++ List.replicate 4 .retired } }
def substituting (from_ : Option Nat) : State := { at_ 3 with fmap := { (at_ 3).fmap with subst := [(63, 67, from_)] } }

theorem witness_retire : (at_ 3).live = true ∧ (at_ 3).pstate 63 = .backs ∧ (at_ 3).logical 63 = some 63 ∧ (at_ 3).fmap.subst = [] ∧
    ((at_ 3).descs.map (fun x => x.did)).Nodup ∧ (at_ 3).freeSpares = [64, 65, 66, 67] ∧ spareless.freeSpares = [] ∧
    spareless.pstate 63 = .backs ∧ spareless.logical 63 = some 63 ∧ (at_ 3).lostWith 63 = [] ∧ (at_ 3).fmap.phys.length = 64 ∧
    (at_ 3).fmap.state.length = 68 ∧ spareless.fmap.phys.length = 64 ∧ 0 ∈ (busy 0x01 2).lostWith 0 ∧
    (at_ 3).pstate 67 = .spare ∧ spareless.pstate 67 = .retired := by decide +kernel
theorem witness_spare_in : ∀ g ∈ [none, some 63], (substituting g).live = true ∧ (substituting g).ready.shepherd = true ∧
    (substituting g).pause.paused = false ∧ (substituting g).shaped = true ∧
    (substituting g).fmap.subst.find? (fun x => decide (x.1 = 63)) = some (63, 67, g) ∧ (substituting g).phys 63 = some 63 ∧ 63 ≠ 67 ∧
    (∀ x ∈ (substituting g).fmap.subst, x.1 ≠ (62 : BitVec 6).toNat) := by decide +kernel
theorem witness_fatal : (at_ 3).live = true ∧ 1 ≤ (7 : BitVec 8).toNat ∧ (7 : BitVec 8).toNat ≤ 7 ∧ (busy 0x01 2).live = true ∧
    (∃ e ∈ (busy 0x01 2).descs, e.active = true) ∧ (∀ e ∈ (at_ 3).descs, e.active = false) ∧ (at_ 3).ready.shepherd = true ∧
    (bring 3).ready.shepherd = false := by decide +kernel

/-! ### Witnesses: reset, the tally book, the pause, registers -/

/-- In test mode; in reset with a transaction whose limit is tick 100. -/
def testing : State := { inReset with pins := { inReset.pins with testMode := true } }
def draining (n : Nat) : State := { inReset with tick := n, ports := { inReset.ports with txns := [txn true 1 (.own 0)] } }

theorem witness_resets : (at_ 3).up = true ∧ (at_ 3).own = [] ∧ (at_ 3).tally.export_ = none ∧ testing.pins.rstLow = true ∧
    testing.pins.testMode = true ∧ inReset.pins.rstLow = true ∧ inReset.pins.testMode = false ∧
    (∀ a ∈ (draining 100).ports.txns, a.limit ≤ (draining 100).tick) ∧
    (∃ a ∈ (draining 99).ports.txns, (draining 99).tick < a.limit) ∧ (at_ 3).pins.rstLow = false := by decide +kernel

/-- The boundary at tick b is due and epoch 5 opened at tick 0; commits; a span ready for its seal. -/
def closing (b : Nat) : State := { book b with period := { (book b).period with next := some b } }
def committing (slot : Bool) : State :=
  { book 9 with tally := { (book 9).tally with commit := some (commitOf slot),
                                               stop := if slot then .no else .cut } }
def spanned (n : Nat) : State := { book 9 with tally := { (book 9).tally with sealTicks := n } }

theorem witness_epoch_close : (closing 5625000000).live = true ∧ (closing 5625000000).cfg.enable = true ∧
    ((closing 5625000000).tally.epoch).map (fun e => (e.opened, e.epochS, e.faults.length)) = some (0, 60, 12) ∧
    0 + 60 * 93750000 ≤ 5625000000 ∧ (closing 5625000000).tally.stop = .no ∧ (closing 5625000000).tally.commit = none ∧
    5624999999 < 0 + 60 * 93750000 := by decide +kernel
theorem witness_commit : (∀ b, (committing b).up = true ∧ (committing b).tally.commit.isSome = true) ∧
    (committing true).tally.refresh = none ∧ ((committing false).tally.stop = .cut) := by decide +kernel
theorem witness_seal : (spanned sealSpan).live = true ∧ (spanned sealSpan).tally.st = .mounted ∧ (spanned sealSpan).tally.stop = .no ∧
    (spanned sealSpan).tally.commit = none ∧ sealSpan ≤ (spanned sealSpan).tally.sealTicks ∧
    (spanned (sealSpan - 1)).tally.sealTicks < sealSpan ∧ (spanned sealSpan).tally.sealFull = false ∧ (spanned sealSpan).mram.usedSeals < sealSlots ∧
    sealSlots ≤ ({ spanned sealSpan with mram := { Mram.factory with seals := [(384 * sealSlots - 1, 1)] } } : State).mram.usedSeals := by decide +kernel
theorem witness_cut : (book 9).live = true ∧ ((book 9).tally.epoch).map (fun e => e.faults.length) = some 12 ∧ (book 9).tally.st ≠ .verifying ∧
    (book 9).tally.stop ≠ .cut ∧ (book 9).tally.commit = none ∧ (book 9).tally.refresh = none ∧ (book 9).tally.export_ = none := by decide +kernel

/-- EXP_CMD names the last seal slot; an export of slot 5 is in progress, its record under commit or not. -/
def exportable (cmd : BitVec 32) : State := { book 9 with cfg := { (book 9).cfg with expCmd := cmd } }
def export5 : Export := { addr := 0x40000, first := 5, region := false, count := 1 }
def exporting (s : State) : State := { s with tally := { s.tally with export_ := some export5 } }

theorem witness_export : (exportable 0x40AA9).live = true ∧ fld (0x40AA9 : BitVec 32).toNat 0 18 + (fld (0x40AA9 : BitVec 32).toNat 20 12 + 1) ≤ 2730 ∧
    bit (0x40AA9 : BitVec 32).toNat 18 = true ∧ 2730 < fld (0x40AAA : BitVec 32).toNat 0 18 + (fld (0x40AAA : BitVec 32).toNat 20 12 + 1) ∧
    (exporting (book 9)).tally.export_ ≠ none ∧ (exporting (book 9)).live = true ∧ (exporting (book 9)).exportWaits export5 = false ∧
    (exporting (committing true)).exportWaits export5 = true ∧ (book 9).tally.export_ = none := by decide +kernel

theorem witness_pause : (at_ 9).live = true ∧ (at_ 9).pause.busy = false ∧ (at_ 9).pause.req = false ∧ (pauseAt true).pause.busy = false ∧
    (pauseAt true).pause.req = true ∧ (pauseAt false).pause.busy = true ∧ (at_ 9).pause.paused = false := by decide +kernel
theorem witness_pause_complete : (pauseAt false).live = true ∧ (pauseAt false).pause.req = true ∧ (pauseAt false).pause.busy = true ∧
    (pauseAt false).pause.paused = false ∧ (pauseAt false).pauseReady = true ∧ (pauseAt false).running = [] := by decide +kernel
theorem witness_resume : (pauseAt true).live = true ∧ (pauseAt true).pause.paused = true ∧ (pauseAt true).pause.retry = [] ∧
    (∀ w ∈ (pauseAt true).twins, w.active = false ∧ (w.en = false ∨ w.taken = true)) ∧
    (∀ f < 64, (pauseAt true).phys f = some f) ∧ (pauseAt true).fmap.phys.length = 64 ∧
    (∀ f < 64, ((pauseAt true).readBeat (0x80000 + 2112 * f)).2 = 0) ∧ (pauseAt true).n = 64 := by decide +kernel

theorem witness_registers : (at_ 3).up = true ∧ (at_ 3).shaped = true ∧ (at_ 3).cfg.enable = true ∧ (disabled 3).cfg.enable = false ∧
    (0x110 : BitVec 12).toNat = 0x110 ∧ (0xD18 : BitVec 12).toNat = 0xD18 ∧ (14 : BitVec 4) ≠ 15 ∧ (2 : BitVec 12).toNat % 4 ≠ 0 ∧
    (0xE00 : BitVec 12).toNat = 0xE00 ∧ (at_ 3).pause.paused = false ∧ (pauseAt true).pause.paused = true ∧ (pauseAt true).shaped = true := by
  decide +kernel
theorem witness_twin_prepared : ({ at_ 3 with twins := (twinned false).twins.map (fun w => { w with prep := true, active := false }) } : State).live = true ∧
    (({ at_ 3 with twins := (twinned false).twins.map (fun w => { w with prep := true, active := false }) } : State).twins[0]?).map
      (fun a => (a.prep, a.pri.toNat, a.shd.toNat)) = some (true, 0, 1) ∧ (at_ 3).phys 0 = some 0 ∧ (at_ 3).phys 1 = some 1 := by decide +kernel

/-- Physical fold 67 idle with its logic on since tick 0; the debug port open. -/
def idle (n : Nat) : State :=
  { at_ n with folds := [(67, { Fold.blank with logicOn := true })], boot := { (at_ n).boot with debugOpen := true } }

theorem witness_gating : ((idle 256).fold 67).logicOn = true ∧ ((idle 256).fold 67).running = none ∧ ((idle 256).fold 67).susp = none ∧
    ((idle 256).fold 67).inPlace = none ∧ (idle 256).foldBusy 67 = false ∧ ((idle 256).fold 67).lastTick + 256 ≤ (idle 256).tick ∧
    (idle 255).tick < ((idle 255).fold 67).lastTick + 256 ∧ (idle 256).portBusy (.sn 7) = false ∧
    sget 0 (idle 256).ports.last (PortName.num (.sn 7)) + 2 ≤ (idle 256).tick ∧ (idle 1).tick < sget 0 (idle 1).ports.last (PortName.num (.sn 7)) + 2 ∧
    (answered (txn true 1 (.own 0)) .event false).portBusy (.sn 3) = true ∧ (idle 256).boot.debugOpen = true ∧
    (at_ 3).boot.debugOpen = false ∧ (idle 256).pstate 67 = .spare := by decide +kernel

end Sys2Proof.Tests
end

section
/-!
SUPPORT. Admission of the next fetched descriptor (08_pens_and_admission.md R18, R22, R200): what its checks leave alone, and what
a refusal and a hold change.
-/
namespace Sys2Proof.Machine

/-! ### Little-endian bytes -/

@[simp] theorem leBytes_length : ∀ (n k : Nat), (leBytes n k).length = k
  | _, 0 => rfl
  | n, k + 1 => by simp [leBytes, leBytes_length (n / 256) k]

/-- Bytes of a number from byte `j` on. -/
theorem drop_leBytes : ∀ (n k j : Nat), (leBytes n k).drop j = leBytes (n / 256 ^ j) (k - j)
  | _, _, 0 => by simp
  | _, 0, _ + 1 => by simp [leBytes]
  | n, k + 1, j + 1 => by
    rw [leBytes, List.drop_succ_cons, drop_leBytes, Nat.div_div_eq_div_mul, Nat.pow_succ', Nat.add_sub_add_right]

/-- The first `j` bytes of a number. -/
theorem take_leBytes : ∀ (n k j : Nat), j ≤ k → (leBytes n k).take j = leBytes n j
  | _, _, 0, _ => by simp [leBytes]
  | n, k + 1, j + 1, h => by
    rw [leBytes, List.take_succ_cons, take_leBytes _ k j (by omega), leBytes]

/-- The number that `k` bytes of a number spell. -/
theorem leNat_leBytes : ∀ (n k : Nat), leNat (leBytes n k) = n % 256 ^ k
  | n, 0 => by simp [leBytes, leNat, Nat.mod_one]
  | n, k + 1 => by
    rw [leBytes, leNat, leNat_leBytes, Nat.pow_succ', Nat.mod_mul]
    simp

/-- A placed field takes its own bits only. -/
theorem place_le (v lo w : Nat) : place v lo w ≤ (2 ^ w - 1) * 2 ^ lo := by
  rw [place, Nat.shiftLeft_eq]
  exact Nat.mul_le_mul_right _ (Nat.le_sub_one_of_lt (Nat.mod_lt _ (Nat.two_pow_pos w)))

theorem place_zero (lo w : Nat) : place 0 lo w = 0 := by simp [place]

/-! ### The completion record of a descriptor that ended as it was admitted or refused -/

/-- The fields of Table 08-7 below T_ADMIT take the first 168 bits, and a record without bound whose descriptor is done at
T_ADMIT holds zeros above it. -/
theorem recordBytes_of_no_time (d : Desc) (w l : Nat) (hb : d.bound = none) (hd : d.tDone = d.tAdmit) :
    ∃ low < 2 ^ 168, recordBytes d w l = leBytes (low + d.tAdmit % 2 ^ 40 * 2 ^ 168) 32 := by
  unfold recordBytes
  simp only [hb, hd, Nat.sub_self, place_zero, Nat.add_zero, Nat.min_zero]
  refine ⟨_, ?_, by rw [place.eq_1 d.tAdmit, Nat.shiftLeft_eq]⟩
  have h1 := place_le d.p.tag 0 32
  have h2 := place_le d.p.brand 32 16
  have h3 := place_le d.status.code 48 8
  have h4 := place_le (b2n d.constCh) 56 1
  have h5 := place_le (b2n d.noted) 57 1
  have h6 := place_le (b2n d.sat) 58 1
  have h7 := place_le (b2n d.p.v) 59 1
  have h8 := place_le (b2n d.void) 60 1
  have h9 := place_le (b2n false) 61 1
  have h10 := place_le (phaseOf w l) 62 1
  have h11 := place_le (if d.status.hasDigest then d.digest.toNat else 0) 64 64
  have h12 := place_le (Nat.min 0xFFFFF d.raddles) 128 20
  have h13 := place_le (Nat.min 0xFFFFF d.clamps) 148 20
  omega

/-- R22: zero for T_DONE − T_ADMIT and BOUND, T_ADMIT in its own field. -/
theorem recordBytes_ticks (d : Desc) (w l : Nat) (hb : d.bound = none) (hd : d.tDone = d.tAdmit) :
    (recordBytes d w l).length = 32 ∧ leNat ((recordBytes d w l).drop 26) = 0 ∧
      leNat (((recordBytes d w l).drop 21).take 5) = d.tAdmit % 2 ^ 40 := by
  obtain ⟨low, hlow, e⟩ := recordBytes_of_no_time d w l hb hd
  have ht := Nat.mod_lt d.tAdmit (Nat.two_pow_pos 40)
  rw [e, drop_leBytes, drop_leBytes, take_leBytes _ _ _ (by decide), leNat_leBytes, leNat_leBytes]
  refine ⟨leBytes_length _ _, ?_, ?_⟩
  · omega
  · omega

/-! ### Frames of event records -/

theorem State.onlyEvents.refl (s : State) : s.onlyEvents s := ⟨rfl, rfl⟩

theorem State.onlyEvents.trans {r s t : State} (h : r.onlyEvents s) (k : s.onlyEvents t) : r.onlyEvents t := by
  obtain ⟨hs, he⟩ := h
  obtain ⟨ht, ke⟩ := k
  refine ⟨?_, ke.trans he⟩
  rw [ht, hs]

theorem State.noteRemaps_onlyEvents (s : State) (d : Desc) : s.onlyEvents (s.noteRemaps d) := by
  have hf : ∀ (l : List (Nat × Nat)) (t : State), s.onlyEvents t →
      s.onlyEvents (l.foldl (fun t x => t.noteD 0x0103 none d (place x.1 0 6 + place x.2 8 6)) t) := by
    intro l
    induction l with
    | nil => exact fun _ h => h
    | cons x l ih => exact fun t h => ih _ (h.trans (State.event_onlyEvents _ _ _ _ _ _ _))
  exact hf _ s (.refl s)

/-! ### The checks -/

/-- What the checks of R200 can do: they pass, or they refuse the descriptor; before that only event records are queued. -/
theorem State.check_cases (s : State) (d : Desc) :
    (∃ u, s.onlyEvents u ∧ s.check d = (u, true)) ∨ ∃ u st, s.onlyEvents u ∧ s.check d = (u.refuse d.did st, false) := by
  unfold State.check
  split
  · exact .inr ⟨_, _, State.event_onlyEvents _ _ _ _ _ _ _, rfl⟩
  · extract_lets v s1
    have h1 : s.onlyEvents s1 := by
      show s.onlyEvents (if _ then _ else _)
      split
      · exact State.noteRemaps_onlyEvents s d
      · exact .refl s
    cases v with
    | pass => exact .inl ⟨s1, h1, rfl⟩
    | bad b => exact .inr ⟨_, _, h1.trans (State.event_onlyEvents _ _ _ _ _ _ _), rfl⟩
    | refuse st => exact .inr ⟨s1, st, h1, rfl⟩

theorem State.check_passed {s u : State} {d : Desc} (h : s.check d = (u, true)) : s.onlyEvents u := by
  obtain ⟨u', hu, e⟩ | ⟨u', st, -, e⟩ := s.check_cases d
  · obtain ⟨rfl, -⟩ := Prod.mk.inj (h.symm.trans e)
    exact hu
  · exact absurd (Prod.mk.inj (h.symm.trans e)).2 (by decide)

/-- A descriptor that the checks or the budget refuse is refused after event records alone. -/
theorem State.take_refused {s : State} {d : Desc}
    (h : (s.check d).2 = false ∨ ((s.check d).1.holdWhy d = none ∧ d.pen ≠ 0 ∧ d.p.opc.any Opc.noFold = false ∧
      ∃ st, (s.check d).1.budget d ((s.check d).1.priceOf d) = some st)) :
    ∃ u st, s.onlyEvents u ∧ s.take d = u.refuse d.did st := by
  unfold State.take
  obtain ⟨u, hu, e⟩ | ⟨u, st, hu, e⟩ := s.check_cases d
  · rw [e] at h
    obtain h | ⟨hw, hp, hf, st, hb⟩ := h
    · cases h
    · exact ⟨u, st, hu, by simp [e, hw, State.priceAdmit, hp, hf, hb]⟩
  · exact ⟨u, st, hu, by simp [e]⟩

/-- A descriptor that passes the checks and must wait is held. -/
theorem State.take_held {s u : State} {d : Desc} {w : HoldWhy} (h : s.check d = (u, true)) (hw : u.holdWhy d = some w) :
    s.take d = u.hold d w := by
  simp [State.take, h, hw]

/-! ### The next fetched descriptor -/

theorem State.nextFetched_find {s : State} {d : Desc} (h : s.nextFetched = some d) :
    s.descs.find? (fun d => d.stage = .fetched && !s.penBlocked d && !s.noCredit d && !s.cancelled d) = some d :=
  (Option.filter_eq_some_iff.mp h).1

theorem State.nextFetched_mem {s : State} {d : Desc} (h : s.nextFetched = some d) : d ∈ s.descs :=
  List.mem_of_find?_eq_some (State.nextFetched_find h)

/-- R213: a descriptor of a pen without a credit does not come next. -/
theorem State.nextFetched_credit {s : State} {d : Desc} (h : s.nextFetched = some d) : s.noCredit d = false := by
  have := List.find?_some (State.nextFetched_find h)
  simp only [Bool.and_eq_true, Bool.not_eq_true'] at this
  exact this.1.2

theorem execAdmission_next {s : State} {d : Desc} (ha : s.admitting = true) (hn : s.nextFetched = some d) :
    exec .admission s = .next (s.take d) := by
  show execAdmission s = _
  simp [execAdmission, ha, hn]

theorem execAdmission_idle {s : State} (h : s.admitting = false ∨ s.nextFetched = none) : exec .admission s = .next s := by
  show execAdmission s = _
  obtain h | h := h <;> simp [execAdmission, h]

/-! ### What a refusal and a hold change -/

theorem State.desc?_of_mem {s : State} {d : Desc} (h : d ∈ s.descs) : ∃ e, s.desc? d.did = some e := by
  refine Option.isSome_iff_exists.mp ?_
  rw [State.desc?, List.find?_isSome]
  exact ⟨d, h, by simp⟩

/-- A refused descriptor has ended, with T_ADMIT and T_DONE the tick and no bound. -/
theorem State.desc?_refuse {s : State} {d : Desc} (h : d ∈ s.descs) (st : Status) :
    ∃ e, (s.refuse d.did st).desc? d.did = some e ∧ e.stage = .ended ∧ e.tAdmit = s.tick ∧ e.tDone = s.tick ∧ e.bound = none := by
  obtain ⟨e, he⟩ := State.desc?_of_mem h
  refine ⟨{ e with stage := .ended, status := st, tAdmit := s.tick, tDone := s.tick, bound := none }, ?_, rfl, rfl, rfl, rfl⟩
  rw [State.refuse, State.desc?_modDesc, if_pos rfl, he]
  · rfl
  · exact fun _ h => h

/-- A refusal changes what a field reads of no descriptor where the field is none of those that a refusal sets. -/
theorem State.refuse_descs_map {α : Type} (s : State) (i : Nat) (st : Status) (g : Desc → α)
    (hg : ∀ d : Desc, g { d with stage := .ended, status := st, tAdmit := s.tick, tDone := s.tick, bound := none } = g d) :
    (s.refuse i st).descs.map g = s.descs.map g := by
  simp only [State.refuse, State.modDesc, List.map_map]
  refine List.map_congr_left (fun d _ => ?_)
  simp only [Function.comp_apply]
  split
  · exact hg d
  · rfl

/-- Holding a descriptor sets its stage, and counts it where it waits for an entry or a refresh (R368). -/
theorem State.hold_eq (s : State) (d : Desc) (w : HoldWhy) :
    s.hold d w = { s with
      descs := s.descs.map (fun e => if e.did = d.did then { e with stage := .held w } else e),
      cnt := if w = .entry ∨ w = .step then setNth s.cnt 7 (s.cnt.getD 7 0 + 1) else s.cnt } := by
  cases w <;> rfl

/-- Settles O20: a refusal follows event records alone and touches the refused descriptor alone. -/
theorem refusalWritesNothingAndTakesNothing : Obligations.RefusalWritesNothingAndTakesNothing := by
  unfold Obligations.RefusalWritesNothingAndTakesNothing
  intro s d ha hn hr
  obtain ⟨u, st, ⟨hu, -⟩, ht⟩ := State.take_refused hr
  have hmem : d ∈ u.descs := by rw [hu]; exact State.nextFetched_mem hn
  obtain ⟨e, he, hstage, hadmit, hdone, hbound⟩ := State.desc?_refuse hmem st
  have htick : u.tick = s.tick := by rw [hu]
  refine ⟨_, e, execAdmission_next ha hn, ?_⟩
  rw [ht]
  refine ⟨he, hstage, hadmit.trans htick, hdone.trans htick, hbound, fun w l => ?_, fun p => ?_, ?_⟩
  · rw [← htick, ← hadmit]
    exact recordBytes_ticks e w l hbound (hdone.trans hadmit.symm)
  · simp only [State.pen, State.refuse_fields]
    rw [hu]
  · rw [State.refuse_descs_map u _ _ (fun x => (x.did, x.waitOn)) (fun _ => rfl),
      State.refuse_descs_map u _ _ (fun x => x.admitted) (fun _ => rfl)]
    simp only [State.refuse_fields]
    rw [hu]
    and_intros <;> rfl

/-- Settles O21: a hold sets the stage of the held descriptor and one counter, and no descriptor without a credit comes next. -/
theorem admissionHoldsInsteadOfRefusing : Obligations.AdmissionHoldsInsteadOfRefusing := by
  unfold Obligations.AdmissionHoldsInsteadOfRefusing
  refine ⟨fun s u d w ha hn hc hw => ?_, fun s h => execAdmission_idle h, fun s d _ _ hplan hcredit hn => ?_⟩
  · refine ⟨State.check_passed hc, u.hold d w, ?_, ?_⟩
    · rw [execAdmission_next ha hn, State.take_held hc hw]
    · rw [State.hold_eq]
      exact ⟨rfl, rfl, rfl⟩
  · have := State.nextFetched_credit hn
    simp [State.noCredit, hplan, hcredit] at this

end Sys2Proof.Machine
end

section
/-!
SUPPORT. What the execution of a descriptor does to the descriptors and to the event records that wait. `State.KeepsDescs` says of an
operation that it changes no descriptor and drops no record; `State.Drove i` that it drops no record, changes another descriptor
than `i` in its VOID alone, and leaves `i`, where it is in flight, in flight or ended as a descriptor ends short of its finish.
Every operation that an execution is made of has one lemma.
-/
namespace Sys2Proof.Machine

/-! ### Operations that leave the descriptors alone -/

/-- No descriptor changes and no waiting event record goes. -/
structure State.KeepsDescs (s t : State) : Prop where
  descs : t.descs = s.descs
  queue : ∀ r ∈ s.evt.queue, r ∈ t.evt.queue

theorem State.KeepsDescs.refl (s : State) : s.KeepsDescs s := ⟨rfl, fun _ h => h⟩

theorem State.KeepsDescs.trans {r s t : State} (h : r.KeepsDescs s) (k : s.KeepsDescs t) : r.KeepsDescs t :=
  ⟨k.descs.trans h.descs, fun x hx => k.queue x (h.queue x hx)⟩

/-- An operation that changes neither the descriptors nor the event ring. -/
theorem State.KeepsDescs.of_eq {s t : State} (hd : t.descs = s.descs) (he : t.evt = s.evt) : s.KeepsDescs t :=
  ⟨hd, fun _ h => he ▸ h⟩

theorem State.KeepsDescs.foldl {α : Type} {f : State → α → State} (hf : ∀ (s : State) (a : α), s.KeepsDescs (f s a)) :
    ∀ (l : List α) (s : State), s.KeepsDescs (l.foldl f s)
  | [], s => .refl s
  | a :: l, s => (hf s a).trans (State.KeepsDescs.foldl hf l (f s a))

theorem State.KeepsDescs.ite {s t u : State} {c : Prop} [Decidable c] (ht : s.KeepsDescs t) (hu : s.KeepsDescs u) :
    s.KeepsDescs (if c then t else u) := by
  split
  · exact ht
  · exact hu

theorem State.KeepsDescs.desc? {s t : State} (h : s.KeepsDescs t) (i : Nat) : t.desc? i = s.desc? i := by
  rw [State.desc?, h.descs]
  rfl

section LowOperations

variable (s : State)

theorem State.bumpFault_keepsDescs (i n : Nat) : s.KeepsDescs (s.bumpFault i n) := by
  unfold State.bumpFault
  split
  · exact .refl s
  · exact .of_eq rfl rfl

theorem State.corrected_keepsDescs : s.KeepsDescs s.corrected :=
  (s.bumpFault_keepsDescs 6 1).trans (.of_eq rfl rfl)

theorem State.event_keepsDescs (code : Nat) (fold : Option Nat) (tag brand pen info : Nat) :
    s.KeepsDescs (s.event code fold tag brand pen info) := by
  unfold State.event
  split
  · exact ⟨rfl, fun _ h => List.mem_append_left _ h⟩
  · have h : s.KeepsDescs { s with evt := { s.evt with dropped := s.evt.dropped + 1 } } := ⟨rfl, fun _ h => h⟩
    exact (h.trans (State.bumpFault_keepsDescs _ 11 1)).trans (.of_eq rfl rfl)

theorem State.noteF_keepsDescs (code f info : Nat) : s.KeepsDescs (s.noteF code f info) := s.event_keepsDescs _ _ _ _ _ _

theorem State.noteD_keepsDescs (code : Nat) (f : Option Nat) (d : Desc) (info : Nat) : s.KeepsDescs (s.noteD code f d info) :=
  s.event_keepsDescs _ _ _ _ _ _

theorem State.hand_keepsDescs (w : Nat) : s.KeepsDescs (s.hand w) := .ite (.refl s) (.of_eq rfl rfl)

theorem State.mergeWord_keepsDescs (ps : List Piece) (w : Nat) : s.KeepsDescs (s.mergeWord ps w) := by
  unfold State.mergeWord
  split
  · exact .refl s
  · extract_lets full s1 keep
    have h1 : s.KeepsDescs s1 := .of_eq rfl rfl
    refine .ite h1 (.ite (h1.trans s1.corrected_keepsDescs) (State.KeepsDescs.trans ?_ (State.hand_keepsDescs _ w)))
    exact .of_eq rfl rfl

theorem State.poisonLine_keepsDescs (ps : List Piece) (l : Nat) : s.KeepsDescs (s.poisonLine ps l) :=
  .ite (.of_eq rfl rfl) (.ite (.of_eq rfl rfl) (.refl s))

theorem State.putPiece_keepsDescs (p : Piece) : s.KeepsDescs (s.putPiece p) := .ite (.of_eq rfl rfl) (.of_eq rfl rfl)

theorem State.putAll_keepsDescs (ps : List Piece) : s.KeepsDescs (s.putAll ps) := by
  unfold State.putAll
  extract_lets words s1 s2
  have h1 : s.KeepsDescs s1 := .foldl (fun t w => t.mergeWord_keepsDescs ps w) _ _
  have h2 : s1.KeepsDescs s2 := .foldl (fun t l => t.poisonLine_keepsDescs ps l) _ _
  exact (h1.trans h2).trans (.foldl State.putPiece_keepsDescs _ _)

theorem State.noteWord_keepsDescs (w : Nat) : s.KeepsDescs (s.noteWord w) := by
  unfold State.noteWord
  split
  · exact .refl s
  · exact s.corrected_keepsDescs
  · exact s.hand_keepsDescs w

theorem State.noteReads_keepsDescs (ws : List Nat) : s.KeepsDescs (s.noteReads ws) := .foldl State.noteWord_keepsDescs _ _

theorem State.modL_keepsDescs (f : Nat) (g : Fold → Fold) : s.KeepsDescs (s.modL f g) := by
  unfold State.modL
  split
  · exact .refl s
  · exact .of_eq rfl rfl

theorem State.modPair_keepsDescs (f : Nat) (g : Fold → Fold) : s.KeepsDescs (s.modPair f g) := by
  unfold State.modPair
  dsimp only
  split
  · exact (s.modL_keepsDescs f g).trans (State.modL_keepsDescs _ _ g)
  · exact s.modL_keepsDescs f g

theorem State.takeId_keepsDescs {s : State} {port : Nat} {x : Nat × State} (e : s.takeId port = some x) : s.KeepsDescs x.2 := by
  unfold State.takeId at e
  dsimp only at e
  split at e
  · cases e
  · obtain rfl := Option.some.inj e
    exact .of_eq rfl rfl

theorem State.emit_keepsDescs (r : SnReq) : s.KeepsDescs (s.emit r) := .of_eq rfl rfl

theorem State.dropLoads_keepsDescs (d : Desc) : s.KeepsDescs (s.dropLoads d) :=
  .ite (.foldl (fun t f => t.modPair_keepsDescs f _) _ _) (.refl s)

theorem State.dropRoutes_keepsDescs (d : Desc) : s.KeepsDescs (s.dropRoutes d) := .foldl (fun t _ => t.modPair_keepsDescs _ _) _ _

theorem State.latchPermute_keepsDescs (d : Desc) (f : Nat) : s.KeepsDescs (s.latchPermute d f) :=
  .ite (s.modPair_keepsDescs f _) (.refl s)

theorem State.choose_keepsDescs (n : Nat) : s.KeepsDescs (s.choose n).2 := .of_eq rfl rfl

theorem State.pickPieces_keepsDescs : ∀ (s : State) (l : List (List Piece)), s.KeepsDescs (s.pickPieces l).1
  | s, [] => .refl s
  | s, [] :: l => State.pickPieces_keepsDescs s l
  | s, (p :: q) :: l => by
    unfold State.pickPieces
    split
    · exact State.pickPieces_keepsDescs s l
    · exact (s.choose_keepsDescs _).trans (State.pickPieces_keepsDescs _ l)

theorem State.settleBytes_keepsDescs (old : Nat → Bool) : ∀ (s : State) (l : List Piece), s.KeepsDescs (s.settleBytes old l).1
  | s, [] => .refl s
  | s, p :: l => by
    unfold State.settleBytes
    split
    · exact (s.choose_keepsDescs 2).trans (State.settleBytes_keepsDescs old _ l)
    · exact State.settleBytes_keepsDescs old s l

theorem State.putFree_keepsDescs (ps : List Piece) : s.KeepsDescs (s.putFree ps) :=
  (s.pickPieces_keepsDescs _).trans (State.putAll_keepsDescs _ _)

theorem State.raceByte_keepsDescs : ∀ (n : Nat) (s : State) (ps : List (Piece × (Byte × Bool))) (cur : Byte × Bool),
    s.KeepsDescs (State.raceByte n s ps cur).1
  | 0, s, _, _ => .refl s
  | _ + 1, s, [], _ => .refl s
  | n + 1, s, _ :: _, _ =>
    ((s.choose_keepsDescs _).trans (State.choose_keepsDescs _ 2)).trans (State.raceByte_keepsDescs n _ _ _)

theorem State.raceBytes_keepsDescs : ∀ (s : State) (wins : List Win) (l : List Nat), s.KeepsDescs (s.raceBytes wins l).1
  | s, _, [] => .refl s
  | s, wins, k :: l => by
    have picks : ∀ (m : List (List (Piece × (Byte × Bool)))) (acc : State × List (Piece × (Byte × Bool))), s.KeepsDescs acc.1 →
        s.KeepsDescs (m.foldl (fun (acc : State × List (Piece × (Byte × Bool))) w =>
          ((acc.1.pickPieces (groupPieces (w.map Prod.fst))).1,
            acc.2 ++ (mergePieces (acc.1.pickPieces (groupPieces (w.map Prod.fst))).2).map (fun p =>
              (p, (w.head?.map Prod.snd).getD (s.hostByte k))))) acc).1 := by
      intro m
      induction m with
      | nil => exact fun acc h => h
      | cons w m ih => exact fun acc h => ih _ (h.trans (State.pickPieces_keepsDescs _ _))
    exact ((picks _ (s, []) (.refl s)).trans (State.raceByte_keepsDescs _ _ _ _)).trans (State.raceBytes_keepsDescs _ wins l)

theorem State.settleWins_keepsDescs (d : Desc) (wins : List Win) (keys : List (Bool × Nat)) :
    s.KeepsDescs (s.settleWins d wins keys) :=
  .ite ((s.raceBytes_keepsDescs _ _).trans (State.putAll_keepsDescs _ _))
    (.ite (s.putFree_keepsDescs _) (s.putFree_keepsDescs _))

theorem State.settle_keepsDescs (d : Desc) (o : Out) : s.KeepsDescs (s.settle d o).1 := by
  unfold State.settle
  split
  · exact (s.pickPieces_keepsDescs _).trans (State.settleBytes_keepsDescs _ _ _)
  · exact .refl s

theorem State.holdLines_keepsDescs (d : Desc) (f u : Nat) (o : Out) : s.KeepsDescs (s.holdLines d f u o).1 := by
  unfold State.holdLines
  split
  · exact .refl s
  · exact s.modL_keepsDescs f _

theorem State.unitBytes_keepsDescs (d : Desc) (f u : Nat) (ls : List Nat) : s.KeepsDescs (s.unitBytes d f u ls).1 := by
  unfold State.unitBytes
  extract_lets o x
  split
  · exact .refl s
  · exact s.settle_keepsDescs d o

theorem State.noWait_keepsDescs (i f : Nat) : s.KeepsDescs (s.noWait i f) := .of_eq rfl rfl

theorem State.waitFor_keepsDescs (i f : Nat) : s.KeepsDescs (s.waitFor i f) := .ite (.refl s) (.of_eq rfl rfl)

theorem State.wake_keepsDescs (fs : List Nat) : s.KeepsDescs (s.wake fs) := .foldl (fun t f => t.modPair_keepsDescs f _) _ _

theorem State.sendLeg_keepsDescs (d : Desc) (x : Transfer) (len : Nat) : s.KeepsDescs (s.sendLeg d x len) := by
  unfold State.sendLeg
  dsimp only
  refine .ite (State.KeepsDescs.trans ?_ (State.wake_keepsDescs _ _)) (.of_eq rfl rfl)
  exact (s.putAll_keepsDescs _).trans (.of_eq rfl rfl)

theorem State.startLeg_keepsDescs (d : Desc) (k : Nat) (pass : Bool) : s.KeepsDescs (s.startLeg d k pass) := by
  unfold State.startLeg
  split
  · exact .ite (s.sendLeg_keepsDescs d _ _) (.refl s)
  · exact .refl s

theorem State.runLegs_keepsDescs (i : Nat) : s.KeepsDescs (s.runLegs i) := by
  unfold State.runLegs
  split
  · exact .refl s
  · exact .foldl (fun t k => t.startLeg_keepsDescs _ k true) _ _

theorem State.unpair_keepsDescs (k : Nat) : s.KeepsDescs (s.unpair k) := by
  unfold State.unpair
  split
  · exact .refl s
  · refine .trans ?_ (State.noteF_keepsDescs _ _ _ _)
    exact .of_eq rfl rfl

theorem State.leaveDone_keepsDescs (i : Nat) : s.KeepsDescs (s.leaveDone i) := by
  unfold State.leaveDone
  split
  · exact .refl s
  · exact .foldl (fun t f => t.modPair_keepsDescs f _) _ _

/-- A descriptor that every fold lets go of, its held lines written and its loads and routes dropped. -/
theorem State.letGo_keepsDescs (d : Desc) (i : Nat) : s.KeepsDescs ((((s.flushHeld d).dropLoads d).dropRoutes d).leaveAll i) :=
  (((s.putAll_keepsDescs _).trans (State.dropLoads_keepsDescs _ d)).trans (State.dropRoutes_keepsDescs _ d)).trans (.of_eq rfl rfl)

end LowOperations

/-! ### Descriptors that an execution drives -/

/-- Ended short of its finish as an execution or a lost fold ends it: no digest, and one of the statuses of R23, R299 and R340. -/
def Desc.endedLost (d : Desc) : Prop :=
  d.stage = .ended ∧ d.digest = 0 ∧ (d.status = .foldLost ∨ d.status = .refusedRange ∨ d.status = .twinMismatch)

/-- What the execution of descriptor `i` makes of a descriptor `d`. -/
structure Desc.DroveTo (i : Nat) (d e : Desc) : Prop where
  did : e.did = d.did
  others : d.did ≠ i → e = { d with void := e.void }
  active : d.active = true → e.active = true ∨ e.endedLost
  lost : d.endedLost → e.endedLost

/-- A change of VOID. -/
theorem Desc.DroveTo.of_void {i : Nat} {d e : Desc} (h : e = { d with void := e.void }) : d.DroveTo i e := by
  rw [h]
  exact ⟨rfl, fun _ => rfl, .inl, id⟩

theorem Desc.DroveTo.refl (i : Nat) (d : Desc) : d.DroveTo i d := .of_void rfl

theorem Desc.DroveTo.trans {i : Nat} {d e f : Desc} (h : d.DroveTo i e) (k : e.DroveTo i f) : d.DroveTo i f := by
  refine ⟨k.did.trans h.did, fun hd => ?_, fun ha => (h.active ha).elim k.active (.inr ∘ k.lost), k.lost ∘ h.lost⟩
  rw [k.others (h.did ▸ hd), h.others hd]

/-- What the execution of descriptor `i` makes of a list of descriptors, one by one. -/
inductive Desc.AllDrove (i : Nat) : List Desc → List Desc → Prop
  | nil : AllDrove i [] []
  | cons {d e : Desc} {l m : List Desc} (head : d.DroveTo i e) (tail : AllDrove i l m) : AllDrove i (d :: l) (e :: m)

theorem Desc.AllDrove.map {i : Nat} {f : Desc → Desc} : ∀ {l : List Desc}, (∀ d ∈ l, d.DroveTo i (f d)) → AllDrove i l (l.map f)
  | [], _ => .nil
  | _ :: _, h => .cons (h _ List.mem_cons_self) (Desc.AllDrove.map fun _ hd => h _ (List.mem_cons_of_mem _ hd))

theorem Desc.AllDrove.refl (i : Nat) : ∀ l : List Desc, AllDrove i l l
  | [] => .nil
  | d :: l => .cons (.refl i d) (.refl i l)

theorem Desc.AllDrove.trans {i : Nat} : ∀ {l m n : List Desc}, AllDrove i l m → AllDrove i m n → AllDrove i l n
  | _, _, _, .nil, .nil => .nil
  | _, _, _, .cons h hl, .cons k kl => .cons (h.trans k) (hl.trans kl)

/-- A change of descriptor `i` that leaves its end alone. -/
theorem Desc.DroveTo.of_same {i : Nat} {d e : Desc} (hi : d.did = i) (h : e.did = d.did) (hs : e.stage = d.stage)
    (ht : e.status = d.status) (hg : e.digest = d.digest) : d.DroveTo i e := by
  refine ⟨h, fun hd => absurd hi hd, fun ha => .inl ?_, ?_⟩
  · rwa [Desc.active, hs]
  · rw [Desc.endedLost, Desc.endedLost, hs, ht, hg]
    exact id

/-- An end of descriptor `i`. -/
theorem Desc.DroveTo.of_lost {i : Nat} {d e : Desc} (hi : d.did = i) (h : e.did = d.did) (he : e.endedLost) : d.DroveTo i e :=
  ⟨h, fun hd => absurd hi hd, fun _ => .inr he, fun _ => he⟩

/-- What the execution of descriptor `i` makes of the descriptors and of the event records that wait. -/
structure State.Drove (i : Nat) (s t : State) : Prop where
  descs : Desc.AllDrove i s.descs t.descs
  queue : ∀ r ∈ s.evt.queue, r ∈ t.evt.queue

theorem State.KeepsDescs.drove {s t : State} (h : s.KeepsDescs t) (i : Nat) : s.Drove i t := by
  refine ⟨?_, h.queue⟩
  rw [h.descs]
  exact .refl i _

theorem State.Drove.refl (i : Nat) (s : State) : s.Drove i s := (State.KeepsDescs.refl s).drove i

theorem State.Drove.trans {i : Nat} {r s t : State} (h : r.Drove i s) (k : s.Drove i t) : r.Drove i t := by
  refine ⟨?_, fun x hx => k.queue x (h.queue x hx)⟩
  exact h.descs.trans k.descs

theorem State.Drove.foldl {i : Nat} {α : Type} {f : State → α → State} (hf : ∀ (s : State) (a : α), s.Drove i (f s a)) :
    ∀ (l : List α) (s : State), s.Drove i (l.foldl f s)
  | [], s => .refl i s
  | a :: l, s => (hf s a).trans (State.Drove.foldl hf l (f s a))

theorem State.Drove.ite {i : Nat} {s t u : State} {c : Prop} [Decidable c] (ht : s.Drove i t) (hu : s.Drove i u) :
    s.Drove i (if c then t else u) := by
  split
  · exact ht
  · exact hu

/-- Every descriptor is found again under its serial number. -/
theorem State.Drove.desc? {i j : Nat} {s t : State} {d : Desc} (h : s.Drove i t) (hd : s.desc? j = some d) :
    ∃ e, t.desc? j = some e ∧ d.DroveTo i e := by
  have found : ∀ {l m : List Desc}, Desc.AllDrove i l m → l.find? (fun x => x.did = j) = some d →
      ∃ e, m.find? (fun x => x.did = j) = some e ∧ d.DroveTo i e := by
    intro l m hlm
    induction hlm with
    | nil => exact fun h => by cases h
    | @cons a b l m hab _ ih =>
      intro hf
      rw [List.find?_cons] at hf ⊢
      rw [hab.did]
      by_cases haj : a.did = j
      · simp only [haj, decide_true, Option.some.injEq] at hf ⊢
        exact ⟨b, rfl, hf ▸ hab⟩
      · simp only [haj, decide_false] at hf ⊢
        exact ih hf
  exact found h.descs hd

/-! ### Operations that change descriptors -/

/-- A change of every descriptor. -/
theorem State.Drove.of_map {i : Nat} (s : State) (f : Desc → Desc) (hf : ∀ d ∈ s.descs, d.DroveTo i (f d)) :
    s.Drove i { s with descs := s.descs.map f } :=
  ⟨.map hf, fun _ h => h⟩

theorem State.modDesc_drove_of {i : Nat} (s : State) (f : Desc → Desc) (hf : ∀ d : Desc, d.did = i → d.DroveTo i (f d)) :
    s.Drove i (s.modDesc i f) := by
  refine State.Drove.of_map s _ (fun d _ => ?_)
  split
  · next h => exact hf d h
  · exact .refl i d

/-- A change of descriptor `i` that leaves its end alone. -/
theorem State.modDesc_drove (s : State) (i : Nat) (f : Desc → Desc)
    (hf : ∀ d, (f d).did = d.did ∧ (f d).stage = d.stage ∧ (f d).status = d.status ∧ (f d).digest = d.digest) :
    s.Drove i (s.modDesc i f) :=
  s.modDesc_drove_of f (fun d hd => .of_same hd (hf d).1 (hf d).2.1 (hf d).2.2.1 (hf d).2.2.2)

section Execution

variable (s : State)

theorem State.voidBound_drove (i : Nat) : s.Drove i (s.voidBound i) := by
  refine s.modDesc_drove_of _ (fun d _ => .of_void ?_)
  split <;> rfl

theorem State.voidBarred_drove (i : Nat) : s.Drove i s.voidBarred := by
  refine .of_map s _ (fun d _ => .of_void ?_)
  split <;> rfl

theorem State.lineId_drove {s : State} {d : Desc} {line : Nat} {write : Bool} {x : Nat × Nat × State}
    (e : s.lineId d line write = some x) : s.Drove d.did x.2.2 := by
  unfold State.lineId at e
  dsimp only at e
  split at e
  · split at e
    · obtain rfl := Option.some.inj e
      exact .refl _ s
    · cases e
  · obtain ⟨u, hu, rfl⟩ := Option.map_eq_some_iff.mp e
    refine ((State.takeId_keepsDescs hu).drove _).trans (State.modDesc_drove _ _ _ ?_)
    exact fun _ => ⟨rfl, rfl, rfl, rfl⟩
  · obtain ⟨u, hu, rfl⟩ := Option.map_eq_some_iff.mp e
    exact (State.takeId_keepsDescs hu).drove _

theorem State.passBeat_drove (d : Desc) (l : HLine) (beat : BitVec 512 × BitVec 64 × Bool) : s.Drove d.did (s.passBeat d l beat) := by
  unfold State.passBeat
  split
  · exact .refl _ s
  · next e =>
    obtain ⟨a, ha, e⟩ := Option.bind_eq_some_iff.mp e
    rw [← State.desc?_did ha]
    exact (State.lineId_drove e).trans ((State.emit_keepsDescs _ _).drove _)

theorem State.passRead_drove (d : Desc) (l : HLine) : s.Drove d.did (s.passRead d l) := by
  unfold State.passRead
  split
  · exact .refl _ s
  · next e => exact (State.lineId_drove e).trans ((State.emit_keepsDescs _ _).drove _)

theorem State.passLines_drove (d : Desc) (write : Bool) (ps : List Piece) (hs : List HLine) :
    s.Drove d.did (s.passLines d write ps hs) :=
  .ite (.foldl (fun t l => t.passBeat_drove d l _) _ _) (.foldl (fun t l => t.passRead_drove d l) _ _)

theorem State.payLines_drove (d : Desc) (n : Nat) : s.Drove d.did (s.payLines d n) := by
  unfold State.payLines
  extract_lets tok s1
  have h1 : s.Drove d.did s1 := s.modDesc_drove _ _ (fun _ => ⟨rfl, rfl, rfl, rfl⟩)
  refine .ite h1 (h1.trans (State.KeepsDescs.drove ?_ _))
  exact .of_eq rfl rfl

theorem State.deal_drove (d : Desc) (asks : Progress) : s.Drove d.did (s.deal d asks).1 := by
  unfold State.deal
  extract_lets fs g got s1
  refine (s.payLines_drove d _).trans (.foldl (fun t x => ?_) _ _)
  extract_lets k
  refine .ite ((t.noWait_keepsDescs _ _).drove _) (State.KeepsDescs.drove ?_ _)
  exact (State.KeepsDescs.ite (.refl t) (t.noWait_keepsDescs _ _)).trans (State.waitFor_keepsDescs _ _ _)

theorem State.landPart_drove (i f u : Nat) (hs : List HLine) : s.Drove i (s.landPart i f u hs) := by
  refine ((s.modL_keepsDescs f _).drove i).trans (State.modDesc_drove _ _ _ ?_)
  exact fun _ => ⟨rfl, rfl, rfl, rfl⟩

theorem State.writePart_drove (d : Desc) (f u : Nat) (ls : List Nat) (hs : List HLine) : s.Drove d.did (s.writePart d f u ls hs) := by
  refine ((((s.unitBytes_keepsDescs d f u ls).drove _).trans (State.passLines_drove _ d _ _ _)).trans
    ((State.putAll_keepsDescs _ _).drove _)).trans (State.modDesc_drove _ _ _ ?_)
  exact fun _ => ⟨rfl, rfl, rfl, rfl⟩

theorem State.commit_drove (d : Desc) (f u : Nat) (o : Out) : s.Drove d.did (s.commit d f u o) := by
  unfold State.commit
  extract_lets s1 ps s2 s3 s4
  have h4 : s.KeepsDescs s4 :=
    ((s.noteReads_keepsDescs _).trans (State.putAll_keepsDescs _ _)).trans
      ((State.KeepsDescs.foldl (fun t _ => t.modPair_keepsDescs _ _) _ _).trans
        (State.KeepsDescs.foldl (fun t _ => t.noteD_keepsDescs _ _ d _) _ _))
  refine ((h4.trans ?_).drove _).trans (State.modDesc_drove _ _ _ ?_)
  · exact .of_eq rfl rfl
  · exact fun _ => ⟨rfl, rfl, rfl, rfl⟩

theorem State.commitRacy_drove (d : Desc) (f u : Nat) (o : Out) : s.Drove d.did (s.commitRacy d f u o) := by
  refine (((s.settleWins_keepsDescs d _ _).drove _).trans (State.commit_drove _ d f u _)).trans (State.modDesc_drove _ _ _ ?_)
  exact fun _ => ⟨rfl, rfl, rfl, rfl⟩

theorem State.commitUnit_drove (d : Desc) (f u : Nat) (ls : List Nat) (ws : List HLine) :
    s.Drove d.did (s.commitUnit d f u ls ws) := by
  unfold State.commitUnit
  extract_lets o x y s1
  have h1 : s.Drove d.did s1 := by
    refine .ite ((s.passLines_drove d _ _ _).trans (State.commitRacy_drove _ d f u o)) ?_
    exact ((((s.settle_keepsDescs d o).trans (State.holdLines_keepsDescs _ d f u _)).drove _).trans
      (State.passLines_drove _ d _ _ _)).trans (State.commit_drove _ d f u _)
  refine ((h1.trans (State.modDesc_drove _ _ _ ?_)).trans ((State.latchPermute_keepsDescs _ d f).drove _)).trans
    ((State.modL_keepsDescs _ f _).drove _)
  exact fun _ => ⟨rfl, rfl, rfl, rfl⟩

theorem State.rewrite_drove (d : Desc) (ws : List WLine) : s.Drove d.did (s.rewrite d ws) := by
  refine .foldl (fun t w => ((t.passBeat_drove d _ _).trans ((State.putAll_keepsDescs _ _).drove _)).trans
    (State.modDesc_drove _ _ _ ?_)) _ _
  exact fun _ => ⟨rfl, rfl, rfl, rfl⟩

/-! ### Ends short of the finish -/

/-- The statuses with which an execution or a lost fold ends a descriptor short of its finish. -/
def Status.short (st : Status) : Prop := st = .foldLost ∨ st = .refusedRange ∨ st = .twinMismatch

theorem State.endAgain_drove (d : Desc) {st : Status} (hst : st.short) : s.Drove d.did (s.endAgain d st) := by
  refine .ite (s.modDesc_drove_of _ (fun e he => ⟨rfl, fun h => absurd he h, .inl, ?_⟩)) (.refl _ s)
  rintro ⟨hstage, hdigest, -⟩
  exact ⟨hstage, hdigest, hst⟩

theorem State.endEarly_drove (i : Nat) {st : Status} (hst : st.short) : s.Drove i (s.endEarly i st) := by
  unfold State.endEarly
  split
  · exact .refl i s
  · next d hd =>
    extract_lets s0 s1 s2
    have h0 : s.Drove i s0 := .ite (s.voidBarred_drove i) (.refl i s)
    have h1 : s0.Drove i s1 := (s0.letGo_keepsDescs d i).drove i
    have h2 : s1.Drove i s2 := s1.modDesc_drove_of _ (fun e he => .of_lost he rfl ⟨rfl, rfl, hst⟩)
    refine .ite (State.desc?_did hd ▸ s.endAgain_drove d hst) (((h0.trans h1).trans h2).trans (State.KeepsDescs.drove ?_ i))
    exact .of_eq rfl rfl

/-- A descriptor in flight ends with the status given and digest zero. -/
theorem State.desc?_endEarly {s : State} {i : Nat} {d : Desc} (hd : s.desc? i = some d) (ha : d.active = true) (st : Status) :
    ∃ x, (s.endEarly i st).desc? i = some x ∧ x.stage = .ended ∧ x.digest = 0 ∧ x.status = st := by
  unfold State.endEarly
  split
  · next h => exact absurd (hd.symm.trans h) (by simp)
  · next d' h =>
    obtain rfl := Option.some.inj (hd.symm.trans h)
    extract_lets s0 s1 s2
    have h0 : s.Drove i s0 := .ite (s.voidBarred_drove i) (.refl i s)
    obtain ⟨e, he, -⟩ := (h0.trans ((s0.letGo_keepsDescs d i).drove i)).desc? hd
    have h2 : ∃ x, s2.desc? i = some x ∧ x.stage = .ended ∧ x.digest = 0 ∧ x.status = st := by
      rw [State.desc?_modDesc, if_pos rfl, he]
      · exact ⟨_, rfl, rfl, rfl, rfl⟩
      · exact fun _ h => h
    rw [if_neg (by simp [ha])]
    exact h2

theorem State.mismatch_drove (k i f shd : Nat) : s.Drove i (s.mismatch k i f shd) :=
  ((s.endEarly_drove i (.inr (.inr rfl))).trans ((State.unpair_keepsDescs _ k).drove i)).trans
    ((State.KeepsDescs.foldl (fun t g => t.modL_keepsDescs g _) _ _).drove i)

theorem State.disagree_drove (d : Desc) (f u : Nat) (ls : List Nat) : s.Drove d.did (s.disagree d f u ls) := by
  unfold State.disagree
  split
  · exact .refl _ s
  · extract_lets seen s1 s2 s3
    have h2 : s.Drove d.did s2 :=
      (((s.noteReads_keepsDescs _).trans (State.noteD_keepsDescs _ _ _ d _)).drove _).trans (State.voidBound_drove _ _)
    have h3 : s2.Drove d.did s3 := .ite (.refl _ s2) ((s2.noteD_keepsDescs _ _ d _).drove _)
    exact (h2.trans h3).trans (State.mismatch_drove _ _ _ _ _)

theorem State.refuseRange_drove (i : Nat) : s.Drove i (s.refuseLate i .refusedRange) := by
  unfold State.refuseLate
  split
  · exact .refl i s
  · next d hd =>
    extract_lets s1
    have h1 : s.Drove i s1 := .ite ((s.noteD_keepsDescs _ _ d _).drove i) (.refl i s)
    refine (h1.trans (State.modDesc_drove _ _ _ (fun e => ?_))).trans (State.endEarly_drove _ i (.inr (.inl rfl)))
    exact ⟨rfl, rfl, rfl, rfl⟩

/-! ### Running to the units asked for -/

theorem State.runUnits_drove (i f : Nat) (us : List (List Nat)) : ∀ (l : List (List Nat)) (u k : Nat) (s : State),
    s.Drove i (s.runUnits i f us u k l)
  | [], _, _, s => .refl i s
  | ls :: l, u, k, s => by
    unfold State.runUnits
    split
    · next d p hd hp =>
      obtain rfl := State.desc?_did hd
      extract_lets rs ws t
      have ht : s.Drove d.did t := s.passLines_drove d _ _ _
      refine .ite (.refl _ s) (.ite (ht.trans (t.landPart_drove _ _ _ _)) (.ite (ht.trans (t.disagree_drove d _ _ _)) (.ite ?_ ?_)))
      · exact (ht.trans (t.landPart_drove _ _ _ _)).trans (State.writePart_drove _ d _ _ _ _)
      · exact ((ht.trans ((t.noteReads_keepsDescs _).drove _)).trans (State.commitUnit_drove _ d _ _ _ _)).trans
          (State.runUnits_drove d.did f us l _ _ _)
    · exact .refl i s

theorem State.runFold_drove (d : Desc) (f : Nat) (us : List (List Nat)) (u k : Nat) (ls : List (List Nat)) :
    s.Drove d.did (s.runFold d f us u k ls) := by
  unfold State.runFold
  extract_lets n t
  have ht : s.Drove d.did t := s.rewrite_drove d _
  exact .ite ht (ht.trans (State.runUnits_drove _ _ _ _ _ _ _))

theorem State.runStage_drove (i b : Nat) (want : Nat → Nat) : s.Drove i (s.runStage i b want) := by
  unfold State.runStage
  split
  · exact .refl i s
  · next d hd =>
    obtain rfl := State.desc?_did hd
    extract_lets goal mine g
    exact (s.deal_drove d _).trans (.foldl (fun t x => t.runFold_drove d _ _ _ _ _) _ _)

theorem State.stages_drove (i : Nat) (want : Nat → Nat) : ∀ (l : List Nat) (s : State), s.Drove i (s.stages i want l)
  | [], s => .refl i s
  | b :: l, s => by
    unfold State.stages
    extract_lets t
    have ht : s.Drove i t := ((s.runLegs_keepsDescs i).drove i).trans (State.runStage_drove _ i b want)
    exact .ite (ht.trans (State.stages_drove i want l t)) ht

theorem State.readCheck_drove (d : Desc) : s.Drove d.did (s.readCheck d) := by
  unfold State.readCheck
  extract_lets mine asks g
  exact (s.deal_drove d _).trans (.foldl (fun t x => (t.passLines_drove d _ _ _).trans (State.landPart_drove _ _ _ _ _)) _ _)

theorem State.checkPass_drove (i : Nat) : s.Drove i (s.checkPass i) := by
  unfold State.checkPass
  split
  · exact .refl i s
  · next d hd =>
    extract_lets t u
    have ht : s.Drove i t := State.desc?_did hd ▸ s.readCheck_drove d
    have hu : t.Drove i u := (t.noteReads_keepsDescs _).drove i
    exact .ite (.refl i s) (.ite (.ite ((ht.trans hu).trans (u.refuseRange_drove i)) (ht.trans hu)) ht)

theorem State.advance_drove (i : Nat) (want : Nat → Nat) : s.Drove i (s.advance i want) := by
  unfold State.advance
  split
  · exact .refl i s
  · extract_lets s1
    have h1 : s.Drove i s1 := s.checkPass_drove i
    refine .ite (.refl i s) ?_
    split
    · exact h1
    · exact .ite h1 ((h1.trans (State.stages_drove i want _ s1)).trans ((State.leaveDone_keepsDescs _ i).drove i))

end Execution

end Sys2Proof.Machine
end

section
/-!
SUPPORT. Losing a fold (R17, R168, R340, R341, R353): what ends with it, and what its retirement changes besides.
-/
namespace Sys2Proof.Machine

/-! ### Replaced entries of a list -/

theorem getElem?_setNth {α : Type} : ∀ (l : List α) (k j : Nat) (a : α),
    (setNth l k a)[j]? = if j = k ∧ k < l.length then some a else l[j]?
  | [], _, _, _ => by simp [setNth]
  | _ :: _, 0, 0, _ => by simp [setNth]
  | _ :: _, 0, _ + 1, _ => by simp [setNth]
  | _ :: _, _ + 1, 0, _ => by simp [setNth]
  | _ :: l, k + 1, j + 1, a => by simp [setNth, getElem?_setNth l k j a]

theorem getD_setNth_of_lt {α : Type} {l : List α} {k : Nat} (h : k < l.length) (j : Nat) (a d : α) :
    (setNth l k a)[j]?.getD d = if j = k then a else l[j]?.getD d := by
  rw [getElem?_setNth]
  by_cases hj : j = k <;> simp [hj, h]

/-! ### Event records -/

/-- A record waits while no operation drops one. -/
theorem State.logged.mono {s t u : State} {code info : Nat} (h : s.logged t code info) (hq : ∀ r ∈ t.evt.queue, r ∈ u.evt.queue) :
    s.logged u code info := by
  intro hroom
  obtain ⟨r, hr, hc⟩ := h hroom
  exact ⟨r, hq r hr, hc⟩

/-- Room in the internal queue, and the tick, are read from four fields. -/
theorem State.logged.of_eq {s r t : State} {code info : Nat} (h : r.logged t code info) (he : r.evt = s.evt) (ho : r.own = s.own)
    (hc : r.cfg = s.cfg) (ht : r.tick = s.tick) : s.logged t code info := by
  intro hroom
  have hr : r.evtUsed < r.evtFree + 64 := by
    simpa only [State.evtUsed, State.evtFree, he, ho, hc] using hroom
  rw [← ht]
  exact h hr

/-! ### Descriptors that end with a fold -/

theorem State.Drove.desc?_other {i k : Nat} {s t : State} {d : Desc} (h : s.Drove k t) (hk : i ≠ k) (hd : s.desc? i = some d) :
    ∃ e, t.desc? i = some e ∧ e = { d with void := e.void } := by
  obtain ⟨e, he, hde⟩ := h.desc? hd
  exact ⟨e, he, hde.others (State.desc?_did hd ▸ hk)⟩

theorem State.stopAt_drove (s : State) (i : Nat) (pts : Progress) : s.Drove i (s.stopAt i pts .foldLost) :=
  (s.advance_drove i _).trans (State.endEarly_drove _ i (.inl rfl))

/-- Units that a list of cancel points gives a descriptor. -/
def cancelPoint (pts : List (Nat × Progress)) (i : Nat) : Progress := ((pts.find? (fun x => decide (x.1 = i))).map Prod.snd).getD []

theorem State.loseAll_eq (s : State) (l : List Nat) (pts : List (Nat × Progress)) :
    s.loseAll l pts = l.foldl (fun t i => t.stopAt i (cancelPoint pts i) .foldLost) s := rfl

theorem State.loseAll_queue (pts : List (Nat × Progress)) : ∀ (l : List Nat) (s : State), ∀ r ∈ s.evt.queue, r ∈ (s.loseAll l pts).evt.queue
  | [], _, _, h => h
  | i :: l, s, r, h => State.loseAll_queue pts l _ r ((s.stopAt_drove i _).queue r h)

/-- What every stop of the list keeps of a descriptor, and what its own stop and every later one give it. -/
theorem State.desc?_loseAll {pts : List (Nat × Progress)} {i : Nat} {P Q : Desc → Prop}
    (step : ∀ (s : State) (j : Nat) (d : Desc), s.desc? i = some d → P d →
      ∃ e, (s.stopAt j (cancelPoint pts j) .foldLost).desc? i = some e ∧ P e ∧ (j = i ∨ Q d → Q e)) :
    ∀ (l : List Nat) (s : State) (d : Desc), s.desc? i = some d → P d →
      ∃ e, (s.loseAll l pts).desc? i = some e ∧ P e ∧ (i ∈ l ∨ Q d → Q e)
  | [], s, d, hd, hp => ⟨d, hd, hp, by simp⟩
  | j :: l, s, d, hd, hp => by
    obtain ⟨e, he, hpe, hqe⟩ := step s j d hd hp
    obtain ⟨x, hx, hpx, hqx⟩ := State.desc?_loseAll step l _ e he hpe
    refine ⟨x, hx, hpx, fun h => hqx ?_⟩
    rw [List.mem_cons] at h
    obtain (rfl | h) | h := h
    · exact .inr (hqe (.inl rfl))
    · exact .inl h
    · exact .inr (hqe (.inr h))

/-- A descriptor in flight stopped for the loss of a fold ends as an execution or the loss ends it. -/
theorem State.desc?_stopAt {s : State} {i : Nat} {d : Desc} (pts : List (Nat × Progress)) (j : Nat) (hd : s.desc? i = some d)
    (h : d.active = true ∨ d.endedLost) :
    ∃ e, (s.stopAt j (cancelPoint pts j) .foldLost).desc? i = some e ∧ (e.active = true ∨ e.endedLost) ∧
      (j = i ∨ d.endedLost → e.endedLost) := by
  obtain ⟨e, he, hde⟩ := (s.stopAt_drove j (cancelPoint pts j)).desc? hd
  refine ⟨e, he, h.elim hde.active (.inr ∘ hde.lost), ?_⟩
  rintro (rfl | hl)
  · obtain ⟨a, ha, hda⟩ := (s.advance_drove j (progAt (cancelPoint pts j))).desc? hd
    obtain hact | hlost := h.elim hda.active (.inr ∘ hda.lost)
    · obtain ⟨x, hx, hstage, hdigest, hstatus⟩ := State.desc?_endEarly ha hact .foldLost
      obtain rfl := Option.some.inj (he.symm.trans hx)
      exact ⟨hstage, hdigest, .inl hstatus⟩
    · obtain ⟨x, hx, hax⟩ := (State.endEarly_drove _ j (.inl rfl)).desc? ha
      obtain rfl := Option.some.inj (he.symm.trans hx)
      exact hax.lost hlost
  · exact hde.lost hl

/-- Ended FOLD_LOST with digest zero. -/
def Desc.fellWithFold (d : Desc) : Prop := d.stage = .ended ∧ d.digest = 0 ∧ d.status = .foldLost

/-- With no units asked for and no line to be written again nothing runs. -/
theorem State.advance_standing {s : State} {i : Nat} {d : Desc} (hd : s.desc? i = some d)
    (h : d.active = true ∧ d.stalled = [] ∨ d.fellWithFold) : s.advance i (progAt []) = s := by
  unfold State.advance
  split
  · rfl
  · next d' h' =>
    obtain rfl := Option.some.inj (hd.symm.trans h')
    rw [if_pos]
    obtain ⟨-, hs⟩ | ⟨hs, -, -⟩ := h
    · simp [hs, progAt]
    · simp [Desc.active, hs]

/-- Nothing takes the place of FOLD_LOST (R338). -/
theorem State.endEarly_fellWithFold {s : State} {i : Nat} {d : Desc} (hd : s.desc? i = some d) (h : d.fellWithFold) (st : Status) :
    s.endEarly i st = s := by
  obtain ⟨hstage, -, hstatus⟩ := h
  unfold State.endEarly
  split
  · rfl
  · next d' h' =>
    obtain rfl := Option.some.inj (hd.symm.trans h')
    simp [Desc.active, hstage, State.endAgain, hstatus, Status.rank]

/-- A descriptor that stands at its cancel points ends FOLD_LOST. -/
theorem State.desc?_stopAt_standing {s : State} {i : Nat} {d : Desc} (j : Nat) (hd : s.desc? i = some d)
    (h : d.active = true ∧ d.stalled = [] ∨ d.fellWithFold) :
    ∃ e, (s.stopAt j (cancelPoint [] j) .foldLost).desc? i = some e ∧ (e.active = true ∧ e.stalled = [] ∨ e.fellWithFold) ∧
      (j = i ∨ d.fellWithFold → e.fellWithFold) := by
  by_cases hj : j = i
  · subst hj
    have heq : s.stopAt j (cancelPoint [] j) .foldLost = s.endEarly j .foldLost := congrArg (·.endEarly j .foldLost) (State.advance_standing hd h)
    rw [heq]
    obtain ⟨hact, -⟩ | hfell := h
    · obtain ⟨x, hx, hstage, hdigest, hstatus⟩ := State.desc?_endEarly hd hact .foldLost
      exact ⟨x, hx, .inr ⟨hstage, hdigest, hstatus⟩, fun _ => ⟨hstage, hdigest, hstatus⟩⟩
    · rw [State.endEarly_fellWithFold hd hfell]
      exact ⟨d, hd, .inr hfell, fun _ => hfell⟩
  · obtain ⟨e, he, hde⟩ := (s.stopAt_drove j (cancelPoint [] j)).desc?_other (Ne.symm hj) hd
    have hfell : d.fellWithFold → e.fellWithFold := by rw [hde]; exact id
    refine ⟨e, he, h.imp (fun ha => ?_) hfell, fun hx => hfell (hx.resolve_left hj)⟩
    rw [hde]
    exact ha

/-! ### Retirement -/

theorem State.voidFold_drove (s : State) (k f : Nat) : s.Drove k (s.voidFold f) := by
  refine .of_map s _ (fun d _ => .of_void ?_)
  split <;> rfl

theorem State.breakPairs_keepsDescs (s : State) (f : Nat) : s.KeepsDescs (s.breakPairs f) := .foldl State.unpair_keepsDescs _ _

theorem State.breakPairs_ran {r s : State} (h : r.Ran s) (f : Nat) : r.Ran (s.breakPairs f) := State.Ran.foldl State.unpair_ran _ h

/-- A logical fold that `logical` names is one of the 64, and the physical fold backs it. -/
theorem State.logical_some {s : State} {p f : Nat} (h : s.logical p = some f) : f < 64 ∧ s.phys f = some p :=
  ⟨List.mem_range.mp (List.mem_of_find?_eq_some h), by simpa using List.find?_some h⟩

theorem State.bit_setReady (s : State) {f : Nat} (b : Bool) (hf : f < 64) : bit (s.setReady f b).ready.fold.toNat f = b := by
  have hbit : (BitVec.ofNat 64 (2 ^ f)).getLsbD f = true := by
    rw [BitVec.getLsbD_ofNat, Nat.testBit_two_pow_self]
    simpa using hf
  rw [bit, BitVec.testBit_toNat]
  cases b
  · show (s.ready.fold &&& ~~~(BitVec.ofNat 64 (2 ^ f))).getLsbD f = false
    rw [BitVec.getLsbD_and, BitVec.getLsbD_not, hbit]
    simp
  · show (s.ready.fold ||| BitVec.ofNat 64 (2 ^ f)).getLsbD f = true
    rw [BitVec.getLsbD_or, hbit, Bool.or_true]

/-- The free spares are read from the fold map. -/
theorem State.freeSpares_of_fmap {s t : State} (h : t.fmap = s.fmap) : t.freeSpares = s.freeSpares := by
  unfold State.freeSpares State.spares State.pstate
  rw [h]

theorem State.Ran.ent {s t : State} (h : s.Ran t) (q : Nat) : (t.pen q).ent = (s.pen q).ent := by
  obtain ⟨k, n, e⟩ := h.pens_ q
  rw [e]

/-- What the retirement of a fold leaves alone before it looks for a spare: all that an execution leaves alone, but for
transactions of the fold's drover and the FOLD bit. -/
theorem State.retireBacking_ran (s : State) (f p : Nat) (pts : List (Nat × Progress)) :
    ∃ u, s.Ran u ∧ ((u.withdraw p).setReady f false).Ran (s.retireBacking f p pts) := by
  refine ⟨(s.loseAll (s.lostWith f) pts).voidFold f, State.voidFold_ran (State.loseAll_ran (.refl s) _ _) _, ?_⟩
  exact State.breakPairs_ran (State.noteF_ran (State.bumpFault_ran (.refl _) _ _) _ _ _) _

/-- After the descriptors of the fold have ended, its retirement changes a descriptor in its VOID alone. -/
theorem State.retireBacking_drove (s : State) (k f p : Nat) (pts : List (Nat × Progress)) :
    (s.loseAll (s.lostWith f) pts).Drove k (s.retireBacking f p pts) := by
  refine (State.voidFold_drove _ k f).trans (State.KeepsDescs.drove ?_ k)
  refine State.KeepsDescs.trans ?_ (State.breakPairs_keepsDescs _ f)
  refine State.KeepsDescs.trans ?_ (State.noteF_keepsDescs _ _ _ _)
  refine State.KeepsDescs.trans ?_ (State.bumpFault_keepsDescs _ 1 1)
  exact .of_eq rfl rfl

/-- The FOLD_RETIRED record waits where no descriptor ended before it. -/
theorem State.retireBacking_logged {s : State} {f : Nat} (h : s.lostWith f = []) (p : Nat) (pts : List (Nat × Progress)) :
    s.logged (s.retireBacking f p pts) 0x0306 p := by
  have hu : s.Ran (((s.loseAll (s.lostWith f) pts).voidFold f)) := State.voidFold_ran (State.loseAll_ran (.refl s) _ _) _
  have hb := State.bumpFault_ran (.refl ((((s.loseAll (s.lostWith f) pts).voidFold f).withdraw p).setReady f false)) 1 1
  refine State.logged.mono (State.logged.of_eq (State.event_logged _ _ _ _ _ _ _) ?_ (hb.own.trans hu.own) (hb.cfg.trans hu.cfg)
    (hb.tick.trans hu.tick)) (State.breakPairs_keepsDescs _ f).queue
  rw [h]
  unfold State.bumpFault
  split <;> rfl

/-! ### The fold that takes the place of a retired one -/

/-- What the search for a spare leaves alone. -/
structure State.Replaced (s t : State) : Prop where
  cfg : t.cfg = s.cfg
  mram : t.mram = s.mram
  stile : t.stile = s.stile
  ready : t.ready = s.ready
  ent : ∀ q, (t.pen q).ent = (s.pen q).ent
  queue : ∀ r ∈ s.evt.queue, r ∈ t.evt.queue

theorem State.Replaced.refl (s : State) : s.Replaced s := ⟨rfl, rfl, rfl, rfl, fun _ => rfl, fun _ h => h⟩

theorem State.Replaced.trans {r s t : State} (h : r.Replaced s) (k : s.Replaced t) : r.Replaced t :=
  ⟨k.cfg.trans h.cfg, k.mram.trans h.mram, k.stile.trans h.stile, k.ready.trans h.ready, fun q => (k.ent q).trans (h.ent q),
    fun x hx => k.queue x (h.queue x hx)⟩

theorem State.startSubst_replaced (s : State) (f sp : Nat) (copy : Option Nat) : s.Replaced (s.startSubst f sp copy) :=
  ⟨rfl, rfl, rfl, rfl, fun _ => rfl, fun _ h => h⟩

/-- R340: the substitution is entered in the fold map, and ends 1,025 ticks from now at the earliest. -/
theorem State.startSubst_enters (s : State) (f sp : Nat) (copy : Option Nat) :
    (s.startSubst f sp copy).fmap = { s.fmap with subst := s.fmap.subst ++ [(f, sp, copy)] } ∧
      s.tick + 1025 ≤ sget 0 (s.startSubst f sp copy).hor.fold f := by
  refine ⟨rfl, ?_⟩
  show _ ≤ sget 0 (sset 0 _ f _) f
  rw [sget_sset_same]
  exact Nat.le_trans (Nat.le_add_right _ _) (Nat.le_max_right _ _)

/-- The fold map once logical fold `f` is absent, with physical fold `p` retired (R341). -/
def State.withoutFold (s : State) (f p : Nat) : State :=
  { s with fmap := { phys := setNth s.fmap.phys f none, state := setNth s.fmap.state p .retired, absent := s.fmap.absent ++ [f],
                     subst := s.fmap.subst.filter (fun x => x.1 ≠ f) } }

/-- The descriptors in flight that name a logical fold. -/
def State.boundFor (s : State) (f : Nat) : List Nat := (s.descs.filter (fun d => d.active && d.folds.contains f)).map (fun d => d.did)

theorem State.makeAbsent_eq (s : State) (f p : Nat) (pts : List (Nat × Progress)) :
    s.makeAbsent f p pts = ((s.loseAll (s.boundFor f) pts).withoutFold f p).noteF 0x0309 f f := rfl

theorem State.makeAbsent_fmap (s : State) (f p : Nat) (pts : List (Nat × Progress)) :
    (s.makeAbsent f p pts).fmap = (s.withoutFold f p).fmap := by
  rw [State.makeAbsent_eq, (State.noteF_ran (.refl _) 0x0309 f f).fmap, State.withoutFold,
    (State.loseAll_ran (.refl s) (s.boundFor f) pts).fmap]
  rfl

theorem State.makeAbsent_replaced (s : State) (f p : Nat) (pts : List (Nat × Progress)) : s.Replaced (s.makeAbsent f p pts) := by
  rw [State.makeAbsent_eq]
  have hl : s.Ran (s.loseAll (s.boundFor f) pts) := State.loseAll_ran (.refl s) _ pts
  have hn := State.noteF_ran (.refl ((s.loseAll (s.boundFor f) pts).withoutFold f p)) 0x0309 f f
  exact ⟨hn.cfg.trans hl.cfg, hn.mram.trans hl.mram, hn.stile.trans hl.stile, hn.ready.trans hl.ready,
    fun q => (hn.ent q).trans (hl.ent q),
    fun r hr => (State.noteF_keepsDescs _ _ _ _).queue r (State.loseAll_queue pts _ s r hr)⟩

/-- The search for a spare: the lowest free one, or none. -/
theorem State.findSpare_cases (s : State) (f p : Nat) (pts : List (Nat × Progress)) :
    (∃ sp l, s.freeSpares = sp :: l ∧ s.findSpare f p pts = s.startSubst f sp (some p)) ∨
      (s.freeSpares = [] ∧ s.findSpare f p pts = s.makeAbsent f p pts) := by
  unfold State.findSpare
  cases h : s.freeSpares with
  | nil => exact .inr ⟨rfl, rfl⟩
  | cons sp l => exact .inl ⟨sp, l, rfl, rfl⟩

theorem State.findSpare_replaced (s : State) (f p : Nat) (pts : List (Nat × Progress)) : s.Replaced (s.findSpare f p pts) := by
  obtain ⟨sp, l, -, e⟩ | ⟨-, e⟩ := s.findSpare_cases f p pts
  · rw [e]
    exact s.startSubst_replaced f sp _
  · rw [e]
    exact s.makeAbsent_replaced f p pts

/-- A descriptor after the search for a spare, which ends what waits for a fold that becomes absent. -/
theorem State.desc?_findSpare {s : State} {i : Nat} {d : Desc} {pts : List (Nat × Progress)} {P Q : Desc → Prop}
    (step : ∀ (s : State) (j : Nat) (d : Desc), s.desc? i = some d → P d →
      ∃ e, (s.stopAt j (cancelPoint pts j) .foldLost).desc? i = some e ∧ P e ∧ (j = i ∨ Q d → Q e))
    (f p : Nat) (hd : s.desc? i = some d) (hp : P d) (hq : Q d) : ∃ e, (s.findSpare f p pts).desc? i = some e ∧ Q e := by
  obtain ⟨sp, l, -, e⟩ | ⟨-, e⟩ := s.findSpare_cases f p pts
  · rw [e]
    exact ⟨d, hd, hq⟩
  · rw [e, State.makeAbsent_eq]
    obtain ⟨x, hx, -, hqx⟩ := State.desc?_loseAll step (s.boundFor f) s d hd hp
    exact ⟨x, ((State.noteF_keepsDescs _ _ _ _).desc? i).trans hx, hqx (.inr hq)⟩

/-- A descriptor in flight on a fold that is retired, once it is. -/
theorem State.desc?_retired {s : State} {i : Nat} {d : Desc} {pts : List (Nat × Progress)} {P Q : Desc → Prop}
    (step : ∀ (s : State) (j : Nat) (d : Desc), s.desc? i = some d → P d →
      ∃ e, (s.stopAt j (cancelPoint pts j) .foldLost).desc? i = some e ∧ P e ∧ (j = i ∨ Q d → Q e))
    (hv : ∀ (d : Desc) (b : Bool), P d → P { d with void := b }) (hw : ∀ (d : Desc) (b : Bool), Q d → Q { d with void := b })
    {f : Nat} (p : Nat) (hi : i ∈ s.lostWith f) (hd : s.desc? i = some d) (hp : P d) :
    ∃ e, ((s.retireBacking f p pts).findSpare f p pts).desc? i = some e ∧ Q e := by
  obtain ⟨x, hx, hpx, hqx⟩ := State.desc?_loseAll step (s.lostWith f) s d hd hp
  obtain ⟨y, hy, hxy⟩ := (s.retireBacking_drove (i + 1) f p pts).desc?_other (by omega) hx
  refine State.desc?_findSpare step f p hy ?_ ?_
  · rw [hxy]
    exact hv x _ hpx
  · rw [hxy]
    exact hw x _ (hqx (.inl hi))

/-- A descriptor that ends with a fold is in flight. -/
theorem State.lostWith_active {s : State} {f i : Nat} (h : i ∈ s.lostWith f) : ∃ d ∈ s.descs, d.did = i ∧ d.active = true := by
  obtain ⟨d, hd, rfl⟩ := List.mem_map.mp h
  obtain ⟨hmem, hon⟩ := List.mem_filter.mp hd
  obtain ⟨g, -, hg⟩ := List.any_eq_true.mp hon
  simp only [State.onFold, Bool.and_eq_true] at hg
  exact ⟨d, hmem, rfl, hg.1.1.1⟩

/-- With each serial number given once, a descriptor is the first of its list under its own. -/
theorem Desc.find?_of_nodup {d : Desc} : ∀ {l : List Desc}, (l.map (fun x => x.did)).Nodup → d ∈ l →
    l.find? (fun x => x.did = d.did) = some d
  | e :: l, hn, hd => by
    obtain ⟨hfirst, hrest⟩ := List.nodup_cons.mp hn
    obtain rfl | hl := List.mem_cons.mp hd
    · exact List.find?_cons_of_pos (by simp only [decide_true])
    · have hne : e.did ≠ d.did := fun h => hfirst (List.mem_map.mpr ⟨d, hl, h.symm⟩)
      rw [List.find?_cons_of_neg (by simp only [hne, decide_false, Bool.false_eq_true, not_false_eq_true])]
      exact Desc.find?_of_nodup hrest hl

theorem State.desc?_of_nodup {s : State} {d : Desc} (hn : (s.descs.map (fun x => x.did)).Nodup) (hd : d ∈ s.descs) :
    s.desc? d.did = some d := Desc.find?_of_nodup hn hd

/-! ### The retirement of a spare -/

theorem State.pstate_of_state {s t : State} (h : t.fmap.state = s.fmap.state) (q : Nat) : t.pstate q = s.pstate q := by
  rw [State.pstate, State.pstate, h]

theorem State.pstate_setNth {s t : State} {p : Nat} (hp : p < s.fmap.state.length) {x : PhysState}
    (h : t.fmap.state = setNth s.fmap.state p x) (q : Nat) : t.pstate q = if q = p then x else s.pstate q := by
  unfold State.pstate
  rw [h]
  exact getD_setNth_of_lt hp q x _

/-- A spare once it is retired and its record queued. -/
def State.spareRetired (s : State) (p : Nat) : State := ((s.setPhys p .retired).bumpFault 1 1).note 0x0306 p

/-- The substitution that a spare was to complete is taken back. -/
def State.dropSpare (s : State) (p : Nat) : State := { s with fmap := { s.fmap with subst := s.fmap.subst.filter (fun y => y.2.1 ≠ p) } }

theorem State.dropSpare_replaced (s : State) (p : Nat) : s.Replaced (s.dropSpare p) :=
  ⟨rfl, rfl, rfl, rfl, fun _ => rfl, fun _ h => h⟩

/-- What the retirement of a spare goes on to do: nothing, another substitution, or an absent fold. -/
theorem State.retireSpare_cases (s : State) (p : Nat) :
    s.retireSpare p = s.spareRetired p ∨
      (∃ f sp copy, s.retireSpare p = ((s.spareRetired p).dropSpare p).startSubst f sp copy) ∨
      ∃ f g, s.retireSpare p = ((s.spareRetired p).dropSpare p).makeAbsent f g [] := by
  unfold State.retireSpare
  dsimp only
  split
  · exact .inl rfl
  · split
    · exact .inr (.inl ⟨_, _, _, rfl⟩)
    · exact .inr (.inr ⟨_, _, rfl⟩)

theorem State.spareRetired_ran (s : State) (p : Nat) : (s.setPhys p .retired).Ran (s.spareRetired p) :=
  State.note_ran (State.bumpFault_ran (.refl _) 1 1) 0x0306 p

theorem State.spareRetired_logged (s : State) (p : Nat) : s.logged (s.spareRetired p) 0x0306 p := by
  have hb := State.bumpFault_ran (.refl (s.setPhys p .retired)) 1 1
  refine State.logged.of_eq (State.event_logged _ _ _ _ _ _ _) ?_ hb.own hb.cfg hb.tick
  unfold State.bumpFault
  split <;> rfl

theorem State.retireSpare_replaced (s : State) (p : Nat) : (s.spareRetired p).Replaced (s.retireSpare p) := by
  obtain e | ⟨f, sp, copy, e⟩ | ⟨f, g, e⟩ := s.retireSpare_cases p
  · exact e ▸ .refl _
  · exact e ▸ (State.dropSpare_replaced _ p).trans (State.startSubst_replaced _ f sp copy)
  · exact e ▸ (State.dropSpare_replaced _ p).trans (State.makeAbsent_replaced _ f g [])

theorem State.retireSpare_pstate {s : State} {p : Nat} (hp : p < s.fmap.state.length) : (s.retireSpare p).pstate p = .retired := by
  have hstate : (s.spareRetired p).fmap.state = setNth s.fmap.state p .retired := by
    rw [(s.spareRetired_ran p).fmap]
    rfl
  have h1 : (s.spareRetired p).pstate p = .retired := by
    rw [State.pstate_setNth hp hstate, if_pos rfl]
  obtain e | ⟨f, sp, copy, e⟩ | ⟨f, g, e⟩ := s.retireSpare_cases p
  · rw [e, h1]
  · rw [State.pstate_of_state (s := s.spareRetired p), h1]
    rw [e, (State.startSubst_enters _ f sp copy).1, State.dropSpare]
  · have hlast : (s.retireSpare p).fmap.state = setNth (s.spareRetired p).fmap.state g .retired := by
      rw [e, State.makeAbsent_fmap, State.withoutFold, State.dropSpare]
    rw [State.pstate, hlast, getElem?_setNth]
    split
    · rfl
    · exact h1

/-! ### FOLD_RETIRE -/

theorem execFoldRetire_next {s : State} {phys : BitVec 7} (hp : phys.toNat < 68) (hl : s.live = true) (hr : s.ready.shepherd = true)
    (hu : s.pause.paused = false) (pts : List (Nat × Progress)) : exec (.foldRetire phys pts) s = .next (s.retire phys.toNat pts) := by
  show execFoldRetire phys pts s = _
  simp [execFoldRetire, Nat.not_le.mpr hp, hl, hr, hu]

theorem State.retire_backing {s : State} {p f : Nat} (hp : s.pstate p = .backs) (hf : s.logical p = some f)
    (hs : ∀ x ∈ s.fmap.subst, x.1 ≠ f) (pts : List (Nat × Progress)) :
    s.retire p pts = (s.retireBacking f p pts).findSpare f p pts := by
  have hany : s.fmap.subst.any (fun x => decide (x.1 = f)) = false := by simpa using hs
  simp [State.retire, hp, hf, hany]

theorem State.retire_spare {s : State} {p : Nat} (hp : s.pstate p = .spare) (pts : List (Nat × Progress)) :
    s.retire p pts = s.retireSpare p := by
  simp [State.retire, hp]

theorem State.retire_gone {s : State} {p : Nat} (hp : s.pstate p = .retired ∨ s.pstate p = .fusedOff) (pts : List (Nat × Progress)) :
    s.retire p pts = s := by
  obtain hp | hp := hp <;> simp [State.retire, hp]

/-- R340: every descriptor in flight on a retired fold has ended as the loss of the fold ends it. -/
theorem State.retire_ends {s : State} {f i : Nat} (p : Nat) (pts : List (Nat × Progress))
    (hn : (s.descs.map (fun x => x.did)).Nodup) (hi : i ∈ s.lostWith f) :
    ∃ x, ((s.retireBacking f p pts).findSpare f p pts).desc? i = some x ∧ x.endedLost ∧
      (pts = [] → (∀ e ∈ s.descs, e.stalled = []) → x.status = .foldLost) := by
  obtain ⟨d, hmem, rfl, ha⟩ := State.lostWith_active hi
  have hd := State.desc?_of_nodup hn hmem
  obtain ⟨x, hx, hlost⟩ := State.desc?_retired (P := fun d => d.active = true ∨ d.endedLost) (Q := Desc.endedLost)
    (fun s j d hd h => State.desc?_stopAt pts j hd h) (fun _ _ h => h) (fun _ _ h => h) p hi hd (.inl ha)
  refine ⟨x, hx, hlost, ?_⟩
  rintro rfl hs
  obtain ⟨y, hy, -, -, hstatus⟩ := State.desc?_retired (pts := []) (P := fun d => d.active = true ∧ d.stalled = [] ∨ d.fellWithFold)
    (Q := Desc.fellWithFold) (fun s j d hd h => State.desc?_stopAt_standing j hd h) (fun _ _ h => h) (fun _ _ h => h) p hi hd
    (.inl ⟨ha, hs d hmem⟩)
  obtain rfl := Option.some.inj (hx.symm.trans hy)
  exact hstatus

/-- R340, R341: what the retirement of a fold that backs a logical fold leaves of the fold map and of the rest. -/
theorem State.retire_replaces {s : State} {f p : Nat} (hf : f < 64) (pts : List (Nat × Progress)) {t : State}
    (ht : t = (s.retireBacking f p pts).findSpare f p pts) :
    bit t.ready.fold.toNat f = false ∧
      (∀ sp l, s.freeSpares = sp :: l → t.fmap.subst = s.fmap.subst ++ [(f, sp, some p)] ∧ t.fmap.phys = s.fmap.phys ∧
        t.fmap.state = s.fmap.state ∧ s.tick + 1025 ≤ sget 0 t.hor.fold f) ∧
      (s.freeSpares = [] → s.fmap.phys.length = 64 → f ∈ t.fmap.absent ∧ t.phys f = none) ∧
      (s.lostWith f = [] → s.logged t 0x0306 p) ∧
      t.cfg = s.cfg ∧ t.mram = s.mram ∧ t.stile = s.stile ∧ ∀ q, (t.pen q).ent = (s.pen q).ent := by
  obtain ⟨u, hu, hv⟩ := s.retireBacking_ran f p pts
  have hr := (s.retireBacking f p pts).findSpare_replaced f p pts
  have hfmap : (s.retireBacking f p pts).fmap = s.fmap := hv.fmap.trans hu.fmap
  have htick : (s.retireBacking f p pts).tick = s.tick := hv.tick.trans hu.tick
  have hfree := State.freeSpares_of_fmap hfmap
  rw [← ht] at hr
  refine ⟨?_, fun sp l h => ?_, fun h hlen => ?_, fun h => (State.retireBacking_logged h p pts).mono hr.queue,
    hr.cfg.trans (hv.cfg.trans hu.cfg), hr.mram.trans (hv.mram.trans hu.mram), hr.stile.trans (hv.stile.trans hu.stile),
    fun q => (hr.ent q).trans ((hv.ent q).trans (hu.ent q))⟩
  · rw [hr.ready, hv.ready]
    exact State.bit_setReady _ false hf
  · obtain ⟨sp', l', h', e⟩ | ⟨h', -⟩ := (s.retireBacking f p pts).findSpare_cases f p pts
    · rw [hfree, h] at h'
      obtain ⟨rfl, -⟩ := List.cons.inj h'
      obtain ⟨hmap, hhor⟩ := State.startSubst_enters (s.retireBacking f p pts) f sp (some p)
      rw [ht, e, hmap, hfmap]
      exact ⟨rfl, rfl, rfl, htick ▸ hhor⟩
    · rw [hfree, h] at h'
      cases h'
  · obtain ⟨sp', l', h', -⟩ | ⟨-, e⟩ := (s.retireBacking f p pts).findSpare_cases f p pts
    · rw [hfree, h] at h'
      cases h'
    · have hmap : t.fmap = (s.withoutFold f p).fmap := by
        rw [ht, e, State.makeAbsent_fmap, State.withoutFold, hfmap]
        rfl
      refine ⟨?_, ?_⟩
      · rw [hmap]
        exact List.mem_append_right _ (List.mem_singleton.mpr rfl)
      · rw [State.phys, hmap]
        exact (getD_setNth_of_lt (hlen ▸ hf) f none none).trans (if_pos rfl)

end Sys2Proof.Machine
end

section
/-!
SUPPORT. The spare that takes the place of a retired fold (R168, R340): reads of a copied and of a filled stretch of a sparse store,
what the copy of a slice and the loss of one leave alone, and the end of a substitution.
-/
namespace Sys2Proof.Machine

/-! ### Copied and filled stretches -/

section Stretches

variable {α : Type} {d : α}

/-- A list that nothing is found in passes the read on to the next. -/
theorem sget_append (k : Nat) : ∀ (l m : Sparse α), sget d (l ++ m) k = sget (sget d m k) l k
  | [], _ => rfl
  | (j, v) :: l, m => by simp only [List.cons_append, sget, sget_append k l m]

theorem sget_filter (p : Nat → Bool) (k : Nat) : ∀ (m : Sparse α), sget d (m.filter (fun x => p x.1)) k = if p k then sget d m k else d
  | [] => by simp [sget]
  | (j, v) :: m => by
    have ih := sget_filter p k m
    by_cases hk : k = j
    · subst hk
      by_cases hp : p k <;> simp [sget, hp, ih]
    · by_cases hp : p j <;> simp [sget, hp, hk, ih]

/-- The stretch of `n` keys from `a` up, moved to `b`. -/
theorem sget_moved (a b n k : Nat) : ∀ (m : Sparse α),
    sget d ((m.filter (fun x => decide (a ≤ x.1 ∧ x.1 < a + n))).map (fun x => (b + (x.1 - a), x.2))) k =
      if b ≤ k ∧ k < b + n then sget d m (a + (k - b)) else d
  | [] => by simp [sget]
  | (j, v) :: m => by
    have ih := sget_moved a b n k m
    by_cases hj : a ≤ j ∧ j < a + n
    · rw [List.filter_cons_of_pos (by simpa using hj), List.map_cons, sget, ih, sget]
      by_cases hk : k = b + (j - a)
      · rw [if_pos hk, if_pos (by omega), if_pos (by omega)]
      · rw [if_neg hk]
        by_cases hr : b ≤ k ∧ k < b + n
        · rw [if_pos hr, if_pos hr, if_neg (by omega)]
        · rw [if_neg hr, if_neg hr]
    · rw [List.filter_cons_of_neg (by simpa using hj), ih, sget]
      by_cases hr : b ≤ k ∧ k < b + n
      · rw [if_pos hr, if_pos hr, if_neg (by omega)]
      · rw [if_neg hr, if_neg hr]

/-- Some keys with one value. -/
theorem sget_const (v : α) (k : Nat) : ∀ (l : List Nat), sget d (l.map (fun j => (j, v))) k = if k ∈ l then v else d
  | [] => by simp [sget]
  | j :: l => by
    rw [List.map_cons, sget, sget_const v k l]
    by_cases hk : k = j <;> simp [hk]

/-- A stretch of `n` keys from `b` up with one value. -/
theorem sget_run (b n k : Nat) (v : α) :
    sget d ((List.range n).map (fun i => (b + i, v))) k = if b ≤ k ∧ k < b + n then v else d := by
  have hmem : k ∈ (List.range n).map (b + ·) ↔ b ≤ k ∧ k < b + n := by
    rw [List.mem_map]
    exact ⟨fun ⟨i, hi, e⟩ => by have := List.mem_range.mp hi; omega, fun h => ⟨k - b, List.mem_range.mpr (by omega), by omega⟩⟩
  have := sget_const (d := d) v k ((List.range n).map (b + ·))
  simp only [List.map_map, hmem] at this
  exact this

variable [DecidableEq α]

theorem ssetAll_append : ∀ (m : Sparse α) (l r : List (Nat × α)), ssetAll d m (l ++ r) = ssetAll d (ssetAll d m l) r
  | _, [], _ => rfl
  | m, (_, _) :: l, r => ssetAll_append (sset d m _ _) l r

/-- Of the writes of a list taken from its end, the first to name a key in the list is the one read. -/
theorem sget_ssetAll_reverse (m : Sparse α) (k : Nat) : ∀ (l : List (Nat × α)),
    sget d (ssetAll d m l.reverse) k = sget (sget d m k) l k
  | [] => rfl
  | (j, v) :: l => by
    rw [List.reverse_cons, ssetAll_append, ssetAll, ssetAll, sget_sset, sget_ssetAll_reverse m k l, sget]

/-- A copied stretch reads as its source, every other key as before. -/
theorem sget_scopy (m : Sparse α) (a b n k : Nat) :
    sget d (scopy d m a b n) k = if b ≤ k ∧ k < b + n then sget d m (a + (k - b)) else sget d m k := by
  rw [scopy, sget_ssetAll_reverse, sget_moved, sget_sfilter]
  by_cases hr : b ≤ k ∧ k < b + n
  · rw [if_pos hr, if_pos hr, if_neg (by rw [decide_eq_true_eq]; omega)]
  · rw [if_neg hr, if_neg hr, if_pos (by rw [decide_eq_true_eq]; omega)]

/-- A filled stretch reads as its value, every other key as before. -/
theorem sget_sfill (m : Sparse α) (b n k : Nat) (v : α) :
    sget d (sfill d m b n v) k = if b ≤ k ∧ k < b + n then v else sget d m k := by
  have hrun : ∀ e : α, (b ≤ k ∧ k < b + n → e = d) →
      sget e (if v = d then [] else (List.range n).map (fun i => (b + i, v))) k = if b ≤ k ∧ k < b + n then v else e := by
    intro e he
    split
    · next hv =>
      split
      · next hr => rw [hv, ← he hr]; rfl
      · rfl
    · exact sget_run b n k v
  rw [sfill, sget_append, sget_append, sget_filter (fun j => decide (b + n ≤ j)), hrun, sget_filter (fun j => decide (j < b))]
  · simp only [decide_eq_true_eq]
    by_cases hlow : k < b
    · rw [if_pos hlow, if_neg (by omega), if_neg (by omega), if_neg (by omega)]
    · rw [if_neg hlow]
      by_cases hr : b ≤ k ∧ k < b + n
      · rw [if_pos hr, if_pos hr]
      · rw [if_neg hr, if_neg hr, if_pos (by omega)]
  · intro hr
    rw [if_neg (by rw [decide_eq_true_eq]; omega)]

end Stretches

/-! ### Counters -/

/-- Counter 15, which counts the spares taken in, stays, and no counter is added. -/
def SparesCounted (s t : State) : Prop := t.cnt.length = s.cnt.length ∧ t.cnt.getD 15 0 = s.cnt.getD 15 0

theorem SparesCounted.of_eq {s t : State} (h : t.cnt = s.cnt) : SparesCounted s t := by
  rw [SparesCounted, h]
  exact ⟨rfl, rfl⟩

theorem SparesCounted.trans {r s t : State} (h : SparesCounted r s) (k : SparesCounted s t) : SparesCounted r t :=
  ⟨k.1.trans h.1, k.2.trans h.2⟩

theorem State.count_sparesCounted (s : State) {i : Nat} (h : i ≠ 15) (n : Nat) : SparesCounted s (s.count i n) := by
  refine ⟨length_setNth _ _ _, ?_⟩
  rw [List.getD_eq_getElem?_getD, List.getD_eq_getElem?_getD, State.count, getElem?_setNth, if_neg (by omega)]

theorem State.bumpFault_sparesCounted (s : State) (i n : Nat) : SparesCounted s (s.bumpFault i n) := by
  unfold State.bumpFault
  split <;> exact .of_eq rfl

theorem State.event_sparesCounted (s : State) (code : Nat) (fold : Option Nat) (tag brand pen info : Nat) :
    SparesCounted s (s.event code fold tag brand pen info) := by
  unfold State.event
  split
  · exact .of_eq rfl
  · refine SparesCounted.trans (SparesCounted.trans ?_ (State.bumpFault_sparesCounted _ 11 1)) (State.count_sparesCounted _ (by decide) 1)
    exact .of_eq rfl

theorem State.count_spare (s : State) (h : 15 < s.cnt.length) : (s.count 15 1).cnt.getD 15 0 = s.cnt.getD 15 0 + 1 := by
  rw [List.getD_eq_getElem?_getD, State.count, getElem?_setNth, if_pos ⟨rfl, h⟩]
  rfl

/-! ### The slice that a spare receives -/

/-- `t` is `s` but for words handed on and corrections counted: what reads of words with errors do (R329, R330). -/
structure State.ReadOn (s t : State) : Prop where
  frame : t = { s with handed := t.handed, cnt := t.cnt, tally := { s.tally with epoch := t.tally.epoch } }
  cnt : SparesCounted s t

theorem State.ReadOn.refl (s : State) : s.ReadOn s := ⟨rfl, .of_eq rfl⟩

theorem State.ReadOn.trans {r s t : State} (h : r.ReadOn s) (k : s.ReadOn t) : r.ReadOn t := by
  refine ⟨?_, h.cnt.trans k.cnt⟩
  rw [k.frame, h.frame]

theorem State.noteWord_readOn (s : State) (w : Nat) : s.ReadOn (s.noteWord w) := by
  unfold State.noteWord
  split
  · exact .refl s
  · refine ⟨?_, (s.bumpFault_sparesCounted 6 1).trans (State.count_sparesCounted _ (by decide) 1)⟩
    unfold State.corrected State.bumpFault
    split <;> rfl
  · unfold State.hand
    split
    · exact .refl s
    · exact ⟨rfl, .of_eq rfl⟩

theorem State.noteReads_readOn (s : State) (ws : List Nat) : s.ReadOn (s.noteReads ws) := by
  have run : ∀ (l : List Nat) (t : State), s.ReadOn t → s.ReadOn (l.foldl State.noteWord t) := by
    intro l
    induction l with
    | nil => exact fun _ h => h
    | cons w l ih => exact fun t h => ih _ (h.trans (t.noteWord_readOn w))
  exact run _ s (.refl s)

/-- The words of a slice that hold an error. -/
def State.wordsInError (s : State) (a : Nat) : List Nat := (s.ecc.filter (fun x => decide (x.1 / 131072 = a))).map Prod.fst

/-- The slice of spare `sp` at the end of its substitution for logical fold `f`: as it was for a fold that failed its first patrol,
zeros where the retired fold's slice was lost, else the copy of that slice (R340). -/
def State.fillSlice (s : State) (f sp : Nat) (lost : Bool) : Option Nat → State
  | none => s
  | some p => if lost then (s.loseSlice sp).noteF 0x0308 f 131072 else s.copySlice p sp

theorem State.fillSlice_ran (s : State) (f sp : Nat) (lost : Bool) (from_ : Option Nat) : s.Ran (s.fillSlice f sp lost from_) := by
  cases from_ with
  | none => exact .refl s
  | some p =>
    cases lost with
    | false => exact State.copySlice_ran (.refl s) p sp
    | true => exact State.noteF_ran (State.loseSlice_ran (.refl s) sp) _ _ _

/-- The rest of what the slice leaves alone. -/
theorem State.fillSlice_frame (s : State) (f sp : Nat) (lost : Bool) (from_ : Option Nat) :
    (s.fillSlice f sp lost from_).descs = s.descs ∧ (s.fillSlice f sp lost from_).folds = s.folds ∧
      (s.fillSlice f sp lost from_).host = s.host ∧ SparesCounted s (s.fillSlice f sp lost from_) ∧
      (from_ = none ∨ lost = false → (s.fillSlice f sp lost from_).evt = s.evt) := by
  cases from_ with
  | none => exact ⟨rfl, rfl, rfl, .of_eq rfl, fun _ => rfl⟩
  | some p =>
    cases lost with
    | false =>
      obtain ⟨hframe, hcnt⟩ := s.noteReads_readOn (s.wordsInError p)
      have hdescs : (s.noteReads (s.wordsInError p)).descs = s.descs := by rw [hframe]
      have hfolds : (s.noteReads (s.wordsInError p)).folds = s.folds := by rw [hframe]
      have hhost : (s.noteReads (s.wordsInError p)).host = s.host := by rw [hframe]
      have hevt : (s.noteReads (s.wordsInError p)).evt = s.evt := by rw [hframe]
      exact ⟨hdescs, hfolds, hhost, hcnt, fun _ => hevt⟩
    | true =>
      obtain ⟨hframe, -⟩ := State.event_onlyEvents (s.loseSlice sp) 0x0308 (some f) nullTag 0 0 131072
      have hcnt := State.event_sparesCounted (s.loseSlice sp) 0x0308 (some f) nullTag 0 0 131072
      have heq : s.fillSlice f sp true (some p) = (s.loseSlice sp).event 0x0308 (some f) nullTag 0 0 131072 := rfl
      rw [heq]
      refine ⟨?_, ?_, ?_, hcnt, by simp⟩
      · rw [hframe]; rfl
      · rw [hframe]; rfl
      · rw [hframe]; rfl

/-- Pasture after a slice has been copied. -/
theorem State.fillSlice_copied (s : State) (f sp p k : Nat) :
    sget 0 (s.fillSlice f sp false (some p)).past k =
      if sp * 2 ^ 20 ≤ k ∧ k < sp * 2 ^ 20 + 2 ^ 20 then sget 0 s.past (p * 2 ^ 20 + (k - sp * 2 ^ 20)) else sget 0 s.past k := by
  have hpast : (s.noteReads (s.wordsInError p)).past = s.past := by rw [(s.noteReads_readOn _).frame]
  have heq : (s.fillSlice f sp false (some p)).past = scopy 0 (s.noteReads (s.wordsInError p)).past (p * slice) (sp * slice) slice := rfl
  rw [heq, hpast, sget_scopy]
  rfl

/-- Pasture and its raddle bits after a slice has been lost. -/
theorem State.fillSlice_lost (s : State) (f sp p k : Nat) :
    sget 0 (s.fillSlice f sp true (some p)).past k = (if sp * 2 ^ 20 ≤ k ∧ k < sp * 2 ^ 20 + 2 ^ 20 then 0 else sget 0 s.past k) ∧
      sget false (s.fillSlice f sp true (some p)).raddle k =
        (if sp * 2 ^ 20 ≤ k ∧ k < sp * 2 ^ 20 + 2 ^ 20 then true else sget false s.raddle k) := by
  obtain ⟨hframe, -⟩ := State.event_onlyEvents (s.loseSlice sp) 0x0308 (some f) nullTag 0 0 131072
  have heq : s.fillSlice f sp true (some p) = (s.loseSlice sp).event 0x0308 (some f) nullTag 0 0 131072 := rfl
  have hpast : (s.fillSlice f sp true (some p)).past = sfill 0 s.past (sp * slice) slice 0 := by rw [heq, hframe]; rfl
  have hraddle : (s.fillSlice f sp true (some p)).raddle = sfill false s.raddle (sp * slice) slice true := by rw [heq, hframe]; rfl
  rw [hpast, hraddle, sget_sfill, sget_sfill]
  exact ⟨rfl, rfl⟩

end Sys2Proof.Machine
end

section
/-!
SUPPORT. The end of a substitution (R340, steps 2 to 4), and the statement on retired folds and their spares (R17, R168, R340, R341,
R353).
-/
namespace Sys2Proof.Machine

/-- The record of a spare as it starts to back a logical fold: after a reset, with its scrub and patrol positions and the strikes of
the fold that it replaces. -/
def State.spareFold (s : State) (tick f sp : Nat) : Fold :=
  { Fold.blank with scrub := (s.fold sp).scrub, patrol := (s.fold sp).patrol, logicOn := true, lastTick := tick,
                    strikes := ((s.phys f).map (fun p => (s.fold p).strikes)).getD [] }

/-- Spare `sp` backs logical fold `f` in the fold map, and its record is that of a fold after a reset. -/
def State.takeOver (s : State) (tick f sp : Nat) : State :=
  let s2 := s.setFold sp (s.spareFold tick f sp)
  let s3 := (s2.setPhys ((s2.phys f).getD sp) .retired).setPhys sp .backs
  { s3 with fmap := { s3.fmap with phys := setNth s3.fmap.phys f (some sp), subst := s3.fmap.subst.filter (fun y => y.1 ≠ f) } }

/-- The fold map that a spare leaves as it takes over. -/
theorem State.takeOver_map (s : State) (tick f sp : Nat) :
    (s.takeOver tick f sp).fmap = { s.fmap with phys := setNth s.fmap.phys f (some sp)
                                                state := setNth (setNth s.fmap.state ((s.phys f).getD sp) .retired) sp .backs
                                                subst := s.fmap.subst.filter (fun y => y.1 ≠ f) } := by
  rfl

/-- What a spare that takes over leaves alone. -/
theorem State.takeOver_fields (s : State) (tick f sp : Nat) :
    (s.takeOver tick f sp).past = s.past ∧ (s.takeOver tick f sp).raddle = s.raddle ∧ (s.takeOver tick f sp).descs = s.descs ∧
      (s.takeOver tick f sp).cfg = s.cfg ∧ (s.takeOver tick f sp).mram = s.mram ∧ (s.takeOver tick f sp).host = s.host ∧
      (s.takeOver tick f sp).cnt = s.cnt ∧ (s.takeOver tick f sp).evt = s.evt ∧ (s.takeOver tick f sp).own = s.own ∧
      (s.takeOver tick f sp).tick = s.tick := by
  simp only [State.takeOver, State.setPhys_fields, State.setFold_fields, and_self]

/-- The end of a substitution, step by step. -/
theorem State.spareIn_eq {s : State} {f f' sp : Nat} {from_ : Option Nat}
    (h : s.fmap.subst.find? (fun x => decide (x.1 = f)) = some (f', sp, from_)) (lost : Bool) :
    s.spareIn f lost = (((((s.fillSlice f sp lost from_).takeOver s.tick f sp).noteF 0x0307 f (place sp 0 7 + place f 8 6)).setReady f
      true).count 15 1) := by
  unfold State.spareIn State.takeOver State.spareFold
  rw [h]
  cases from_ with
  | none => rfl
  | some p => unfold State.fillSlice; rfl

theorem State.spareIn_none {s : State} {f : Nat} (h : ∀ x ∈ s.fmap.subst, x.1 ≠ f) (lost : Bool) : s.spareIn f lost = s := by
  have hfind : s.fmap.subst.find? (fun x => decide (x.1 = f)) = none := by simpa using h
  rw [State.spareIn, hfind]

theorem execSpareIn_next {s : State} (hl : s.live = true) (hr : s.ready.shepherd = true) (hu : s.pause.paused = false) (f : BitVec 6)
    (lost : Bool) : exec (.spareIn f lost) s = .next (s.spareIn f.toNat lost) := by
  show execSpareIn f lost s = _
  simp [execSpareIn, hl, hr, hu]

/-- The fold map after a spare took over from physical fold `g`. -/
theorem State.takeOver_fmap {s : State} {f sp g : Nat} (tick : Nat) (hphys : s.fmap.phys.length = 64) (hstate : s.fmap.state.length = 68)
    (hf : f < 64) (hsp : sp < 68) (hg : g < 68) (hne : g ≠ sp) (hback : s.phys f = some g) :
    (∀ h, (s.takeOver tick f sp).phys h = if h = f then some sp else s.phys h) ∧
      (s.takeOver tick f sp).pstate sp = .backs ∧ (s.takeOver tick f sp).pstate g = .retired ∧
      ∀ x ∈ (s.takeOver tick f sp).fmap.subst, x.1 ≠ f := by
  unfold State.phys State.pstate
  rw [State.takeOver_map]
  refine ⟨fun h => getD_setNth_of_lt (hphys ▸ hf) h _ none, ?_, ?_, fun x hx => by simpa using (List.mem_filter.mp hx).2⟩
  · refine (getD_setNth_of_lt ?_ sp _ _).trans (if_pos rfl)
    rw [length_setNth, hstate]
    exact hsp
  · refine (getD_setNth_of_lt ?_ g _ _).trans ((if_neg hne).trans ?_)
    · rw [length_setNth, hstate]
      exact hsp
    · rw [hback]
      exact (getD_setNth_of_lt (hstate ▸ hg) g _ _).trans (if_pos rfl)

theorem State.takeOver_fold (s : State) (tick f sp q : Nat) :
    (s.takeOver tick f sp).fold q = if q = sp then s.spareFold tick f sp else s.fold q :=
  sget_sset _ _ _ _

/-- What the last steps of a substitution leave of the state in which the spare has taken over. -/
theorem State.spareIn_last (v : State) (f info : Nat) {t : State} (ht : t = ((v.noteF 0x0307 f info).setReady f true).count 15 1) :
    t.fmap = v.fmap ∧ t.folds = v.folds ∧ t.past = v.past ∧ t.raddle = v.raddle ∧ t.descs = v.descs ∧ t.cfg = v.cfg ∧
      t.mram = v.mram ∧ t.host = v.host ∧ (f < 64 → bit t.ready.fold.toNat f = true) ∧ v.logged t 0x0307 info ∧
      (15 < v.cnt.length → t.cnt.getD 15 0 = v.cnt.getD 15 0 + 1) := by
  obtain ⟨hw, -⟩ := State.event_onlyEvents v 0x0307 (some f) nullTag 0 0 info
  obtain ⟨hlen, hcnt⟩ := State.event_sparesCounted v 0x0307 (some f) nullTag 0 0 info
  have hlog := State.event_logged v 0x0307 (some f) nullTag 0 0 info
  have hnote : v.noteF 0x0307 f info = v.event 0x0307 (some f) nullTag 0 0 info := rfl
  rw [hnote] at ht
  generalize v.event 0x0307 (some f) nullTag 0 0 info = w at *
  subst ht
  refine ⟨?_, ?_, ?_, ?_, ?_, ?_, ?_, ?_, fun hf => ?_, hlog, fun h => ?_⟩
  iterate 8
    simp only [State.count_fields, State.setReady_fields]
    rw [hw]
  · rw [(State.count_fields _ 15 1).2.2.2.2.2.1]
    exact State.bit_setReady w true hf
  · rw [State.count_spare _ (by simpa only [State.setReady_fields, hlen] using h), ← hcnt]
    rfl

/-- R340: the spare backs the logical fold, its record is that of a fold after a reset, and the record SPARE_IN waits. -/
theorem State.spareIn_replaces {s t : State} {f sp g : Nat} {from_ : Option Nat} {lost : Bool} (hshape : s.shaped = true) (hf : f < 64)
    (hsp : sp < 68) (hg : g < 68) (hne : g ≠ sp) (hback : s.phys f = some g)
    (hsub : s.fmap.subst.find? (fun x => decide (x.1 = f)) = some (f, sp, from_)) (ht : t = s.spareIn f lost) :
    t.phys f = some sp ∧ t.pstate sp = .backs ∧ t.pstate g = .retired ∧
      bit t.ready.fold.toNat f = true ∧ (∀ x ∈ t.fmap.subst, x.1 ≠ f) ∧ (∀ h, h ≠ f → t.phys h = s.phys h) ∧
      (t.fold sp).vregs = [] ∧ (t.fold sp).route = [] ∧ (t.fold sp).srow = Srow.blank ∧ (t.fold sp).acc = false ∧
      (∀ q, q ≠ sp → t.fold q = s.fold q) ∧ (15 < s.cnt.length → t.cnt.getD 15 0 = s.cnt.getD 15 0 + 1) ∧
      (from_ = none ∨ lost = false → s.logged t 0x0307 (sp + 2 ^ 8 * f)) ∧
      t.descs = s.descs ∧ t.cfg = s.cfg ∧ t.mram = s.mram ∧ t.host = s.host := by
  obtain ⟨-, -, -, -, -, hphys, hstate⟩ := of_decide_eq_true hshape
  have hran := s.fillSlice_ran f sp lost from_
  obtain ⟨hdescs, hfolds, hhost, ⟨hlen, hcnt⟩, hevt⟩ := s.fillSlice_frame f sp lost from_
  rw [State.spareIn_eq hsub] at ht
  generalize s.fillSlice f sp lost from_ = u at *
  have hphysU : ∀ h, u.phys h = s.phys h := fun h => by rw [State.phys, hran.fmap, State.phys]
  obtain ⟨vphys, vsp, vg, vsub⟩ := State.takeOver_fmap (s := u) s.tick (hran.fmap ▸ hphys) (hran.fmap ▸ hstate) hf hsp hg hne
    ((hphysU f).trans hback)
  obtain ⟨-, -, vdescs, vcfg, vmram, vhost, vcnt, vevt, vown, vtick⟩ := u.takeOver_fields s.tick f sp
  have vfold := u.takeOver_fold s.tick f sp
  generalize u.takeOver s.tick f sp = v at *
  obtain ⟨tfmap, tfolds, -, -, tdescs, tcfg, tmram, thost, tready, tlog, tcnt⟩ := State.spareIn_last v f _ ht
  have tphys : ∀ h, t.phys h = v.phys h := fun h => by rw [State.phys, tfmap, State.phys]
  have tpstate : ∀ p, t.pstate p = v.pstate p := fun p => State.pstate_of_state (by rw [tfmap]) p
  have tfold : ∀ q, t.fold q = v.fold q := fun q => by rw [State.fold, tfolds, State.fold]
  have tsp : t.fold sp = u.spareFold s.tick f sp := by rw [tfold, vfold, if_pos rfl]
  have hplace : place sp 0 7 + place f 8 6 = sp + 2 ^ 8 * f := by
    simp only [place, Nat.shiftLeft_eq]
    omega
  refine ⟨?_, ?_, ?_, tready hf, tfmap ▸ vsub, fun h hh => ?_, ?_, ?_, ?_, ?_, fun q hq => ?_, fun h => ?_, fun h => ?_,
    tdescs.trans (vdescs.trans hdescs), tcfg.trans (vcfg.trans hran.cfg), tmram.trans (vmram.trans hran.mram),
    thost.trans (vhost.trans hhost)⟩
  · rw [tphys, vphys, if_pos rfl]
  · rw [tpstate, vsp]
  · rw [tpstate, vg]
  · rw [tphys, vphys, if_neg hh, hphysU]
  iterate 4
    rw [tsp]
    rfl
  · rw [tfold, vfold, if_neg hq, State.fold, hfolds, State.fold]
  · rw [tcnt (by rw [vcnt, hlen]; exact h), vcnt, hcnt]
  · rw [hplace] at tlog
    exact tlog.of_eq (vevt.trans (hevt h)) (vown.trans hran.own) (vcfg.trans hran.cfg) (vtick.trans hran.tick)

/-- R340: the slice of the spare, once it has taken over. -/
theorem State.spareIn_slice {s t : State} {f sp : Nat} {from_ : Option Nat} {lost : Bool}
    (hsub : s.fmap.subst.find? (fun x => decide (x.1 = f)) = some (f, sp, from_)) (ht : t = s.spareIn f lost) :
    t.past = (s.fillSlice f sp lost from_).past ∧ t.raddle = (s.fillSlice f sp lost from_).raddle := by
  rw [State.spareIn_eq hsub] at ht
  obtain ⟨-, -, tpast, traddle, -⟩ := State.spareIn_last _ f _ ht
  obtain ⟨vpast, vraddle, -⟩ := (s.fillSlice f sp lost from_).takeOver_fields s.tick f sp
  exact ⟨tpast.trans vpast, traddle.trans vraddle⟩

/-- No byte of another fold's slice changes. -/
theorem State.fillSlice_past_other (s : State) (f sp : Nat) (lost : Bool) (from_ : Option Nat) {k : Nat} (hk : k / 2 ^ 20 ≠ sp) :
    sget 0 (s.fillSlice f sp lost from_).past k = sget 0 s.past k := by
  have hout : ¬(sp * 2 ^ 20 ≤ k ∧ k < sp * 2 ^ 20 + 2 ^ 20) := by omega
  cases from_ with
  | none => rfl
  | some p =>
    cases lost with
    | false => rw [State.fillSlice_copied, if_neg hout]
    | true => rw [(s.fillSlice_lost f sp p k).1, if_neg hout]

/-- Settles O53: FOLD_RETIRE through the three states of the physical fold, SPARE_IN through the slice that the spare receives and
the fold map that it leaves. -/
theorem sparesReplaceRetiredFolds : Obligations.SparesReplaceRetiredFolds := by
  unfold Obligations.SparesReplaceRetiredFolds
  refine ⟨fun s phys pts hp hl hr hu => ⟨fun f hb hf hs hlen hn => ?_, fun hsp => ?_, fun hgone => ?_⟩,
    fun s logical f sp g from_ lost hl hr hu hshape hf hsub hsp hback hg hne => ?_, fun s logical lost hnone => ?_⟩
  · refine ⟨_, execFoldRetire_next hp hl hr hu pts, ?_⟩
    rw [State.retire_backing hb hf hs]
    obtain ⟨hbit, hspare, habsent, hlog, hrest⟩ := State.retire_replaces (s := s) (p := phys.toNat) (State.logical_some hf).1 pts rfl
    refine ⟨hbit, fun i hi => ?_, hspare, fun h => habsent h hlen, hlog, hrest⟩
    obtain ⟨x, hx, ⟨hstage, hdigest, hstatus⟩, hlost⟩ := State.retire_ends phys.toNat pts hn hi
    exact ⟨x, hx, hstage, hdigest, hstatus, hlost⟩
  · refine ⟨_, execFoldRetire_next hp hl hr hu pts, ?_⟩
    rw [State.retire_spare hsp]
    have hrep := s.retireSpare_replaced phys.toNat
    have hran := s.spareRetired_ran phys.toNat
    exact ⟨fun h => State.retireSpare_pstate (h ▸ hp), (s.spareRetired_logged phys.toNat).mono hrep.queue, hrep.cfg.trans hran.cfg,
      hrep.mram.trans hran.mram⟩
  · rw [execFoldRetire_next hp hl hr hu, State.retire_gone hgone]
  · subst hf
    refine ⟨_, execSpareIn_next hl hr hu logical lost, ?_⟩
    obtain ⟨hpast, hraddle⟩ := State.spareIn_slice (lost := lost) hsub rfl
    obtain ⟨hphys, hsp', hg', hready, hsubst, hothers, hvregs, hroute, hsrow, hacc, hfolds, hcnt, hlog, hrest⟩ :=
      State.spareIn_replaces (lost := lost) hshape logical.isLt hsp hg hne hback hsub rfl
    refine ⟨hphys, hsp', hg', hready, hsubst, hothers, hvregs, hroute, hsrow, hacc, hfolds, hcnt, ?_, ?_, ?_, fun k hk => ?_, hlog, hrest⟩
    · rintro p rfl rfl i hi
      rw [hpast, State.fillSlice_copied, if_pos (by omega), Nat.add_sub_cancel_left]
    · rintro p rfl rfl i hi
      obtain ⟨hzero, hset⟩ := s.fillSlice_lost logical.toNat sp p (sp * 2 ^ 20 + i)
      rw [if_pos (by omega)] at hzero hset
      rw [hpast, hraddle]
      exact ⟨hzero, hset⟩
    · rintro rfl
      exact hpast
    · rw [hpast]
      exact s.fillSlice_past_other _ sp lost from_ hk
  · show execSpareIn logical lost s = .next s
    simp [execSpareIn, State.spareIn_none hnone lost]

end Sys2Proof.Machine
end

section
/-!
SUPPORT. The bits that a unit leaves in memory as it commits (R31, R40, R165, R336): what one piece leaves of a byte, that merging
the pieces of a byte leaves what writing them in turn does, and what a commit does to host memory and pasture beside its pieces.
-/
namespace Sys2Proof.Machine

/-! ### The two memories -/

/-- Host memory, or pasture. -/
def State.mem (s : State) (h : Bool) : Sparse Byte := bif h then s.host else s.past

section Memories

variable (s : State) (h : Bool)

theorem State.mem_congr {s t : State} (hh : t.host = s.host) (hp : t.past = s.past) (h : Bool) : t.mem h = s.mem h := by
  rw [State.mem, State.mem, hh, hp]

theorem State.mem_foldl {α : Type} {f : State → α → State} {h : Bool} (hf : ∀ s a, (f s a).mem h = s.mem h) :
    ∀ (l : List α) (s : State), (l.foldl f s).mem h = s.mem h
  | [], _ => rfl
  | a :: l, s => (State.mem_foldl hf l (f s a)).trans (hf s a)

theorem State.mem_corrected : s.corrected.mem h = s.mem h := by
  unfold State.corrected State.bumpFault
  split <;> rfl

theorem State.mem_hand (w : Nat) : (s.hand w).mem h = s.mem h := by
  unfold State.hand
  split <;> rfl

theorem State.mem_mergeWord (ps : List Piece) (w : Nat) : (s.mergeWord ps w).mem h = s.mem h := by
  unfold State.mergeWord
  split
  · rfl
  · extract_lets full s1 keep
    split
    · rfl
    · split
      · exact State.mem_corrected s1 h
      · exact State.mem_hand _ h w

theorem State.mem_poisonLine (ps : List Piece) (l : Nat) : (s.poisonLine ps l).mem h = s.mem h := by
  unfold State.poisonLine
  dsimp only
  split
  · rfl
  · split <;> rfl

theorem State.mem_noteReads (ws : List Nat) : (s.noteReads ws).mem h = s.mem h := by
  rw [(s.noteReads_readOn ws).frame]
  rfl

theorem State.mem_noteD (code : Nat) (f : Option Nat) (d : Desc) (info : Nat) : (s.noteD code f d info).mem h = s.mem h := by
  rw [State.noteD, (s.event_onlyEvents code f d.p.tag d.p.brand d.pen info).1]
  rfl

theorem State.mem_modL (f : Nat) (g : Fold → Fold) : (s.modL f g).mem h = s.mem h := by
  unfold State.modL
  split <;> rfl

theorem State.mem_modPair (f : Nat) (g : Fold → Fold) : (s.modPair f g).mem h = s.mem h := by
  unfold State.modPair
  dsimp only
  split
  · rw [State.mem_modL, State.mem_modL]
  · exact s.mem_modL h f g

end Memories

/-! ### One bit under pieces written in turn -/

section Bits

variable (h : Bool) (k j : Nat)

/-- The piece writes bit `j` of byte `k` of host memory, or of pasture. -/
def Piece.writes (p : Piece) : Bool := p.host == h && decide (p.key = k) && p.mask.testBit j

/-- The bit that a piece leaves of an old one. -/
def Piece.bitOver (old : Bool) (p : Piece) : Bool := if p.writes h k j then p.val.testBit j else old

/-- The bit that pieces written in turn leave of an old one. -/
def bitAfter (ps : List Piece) (old : Bool) : Bool := ps.foldl (Piece.bitOver h k j) old

/-- The value of a piece has no bit outside its mask. -/
def Piece.masked (p : Piece) : Prop := ∀ j, j < 8 → p.val.testBit j = true → p.mask.testBit j = true

variable {h k j}

theorem Piece.bitOver_other {p : Piece} (hp : ¬(p.host = h ∧ p.key = k)) (old : Bool) : p.bitOver h k j old = old := by
  rw [Piece.bitOver, if_neg]
  simp only [Piece.writes, Bool.and_eq_true, beq_iff_eq, decide_eq_true_eq]
  exact fun hw => hp hw.1

theorem Piece.bitOver_same {p : Piece} (hh : p.host = h) (hk : p.key = k) (old : Bool) :
    p.bitOver h k j old = if p.mask.testBit j then p.val.testBit j else old := by
  rw [Piece.bitOver, Piece.writes, beq_iff_eq.mpr hh, decide_eq_true hk, Bool.true_and, Bool.true_and]

theorem bitAfter_cons (p : Piece) (ps : List Piece) (old : Bool) :
    bitAfter h k j (p :: ps) old = bitAfter h k j ps (p.bitOver h k j old) := rfl

/-- Pieces of other bytes leave a bit as it was. -/
theorem bitAfter_other : ∀ {ps : List Piece}, (∀ p ∈ ps, ¬(p.host = h ∧ p.key = k)) → ∀ old, bitAfter h k j ps old = old
  | [], _, _ => rfl
  | p :: ps, hps, old => by
    obtain ⟨hp, hrest⟩ := List.forall_mem_cons.mp hps
    rw [bitAfter_cons, Piece.bitOver_other hp, bitAfter_other hrest]

/-- Pieces of other bytes may be left out. -/
theorem bitAfter_filter {c : Piece → Bool} (hc : ∀ p : Piece, p.host = h → p.key = k → c p = true) :
    ∀ (ps : List Piece) (old : Bool), bitAfter h k j (ps.filter c) old = bitAfter h k j ps old
  | [], _ => rfl
  | p :: ps, old => by
    by_cases hp : c p = true
    · rw [List.filter_cons_of_pos hp, bitAfter_cons, bitAfter_cons, bitAfter_filter hc ps]
    · have hother : ¬(p.host = h ∧ p.key = k) := fun e => hp (hc p e.1 e.2)
      rw [List.filter_cons_of_neg hp, bitAfter_cons, Piece.bitOver_other hother, bitAfter_filter hc ps]

/-- Of pieces written in turn the last one that writes the bit gives it. -/
theorem bitAfter_eq_last : ∀ (ps : List Piece) (old : Bool),
    bitAfter h k j ps old = ((ps.filter (Piece.writes h k j)).getLast?).elim old (fun p => p.val.testBit j)
  | [], _ => rfl
  | p :: ps, old => by
    rw [bitAfter_cons, bitAfter_eq_last ps, Piece.bitOver]
    by_cases hp : p.writes h k j = true
    · rw [List.filter_cons_of_pos hp, if_pos hp, List.getLast?_cons]
      cases (ps.filter (Piece.writes h k j)).getLast? <;> rfl
    · rw [List.filter_cons_of_neg hp, if_neg hp]

/-! ### Pieces of one byte merged -/

theorem testBit_outside (m : Nat) (hj : j < 8) : (0xFF ^^^ m).testBit j = !m.testBit j := by
  have hff : (0xFF : Nat).testBit j = true := (Nat.testBit_two_pow_sub_one 8 j).trans (decide_eq_true hj)
  rw [Nat.testBit_xor, hff, Bool.true_xor]

/-- A value that the mask covers is masked. -/
theorem Piece.masked_of_land {p : Piece} (hp : p.val &&& (0xFF ^^^ p.mask) = 0) : p.masked := by
  intro j hj hv
  have hbit : (p.val &&& (0xFF ^^^ p.mask)).testBit j = false := by rw [hp, Nat.zero_testBit]
  rw [Nat.testBit_and, hv, testBit_outside _ hj, Bool.true_and] at hbit
  rw [← Bool.not_not (p.mask.testBit j), hbit, Bool.not_false]

theorem Piece.masked.val_bit {p : Piece} (hp : p.masked) (hj : j < 8) (hm : p.mask.testBit j = false) : p.val.testBit j = false := by
  refine Bool.eq_false_iff.mpr (fun hv => ?_)
  rw [hp j hj hv] at hm
  exact Bool.noConfusion hm

theorem Piece.over_mask_bit (p q : Piece) : (p.over q).mask.testBit j = (p.mask.testBit j || q.mask.testBit j) :=
  Nat.testBit_or _ _ _

theorem Piece.over_val_bit (p q : Piece) (hj : j < 8) :
    (p.over q).val.testBit j = (p.val.testBit j && !q.mask.testBit j || q.val.testBit j) := by
  rw [Piece.over, Nat.testBit_or, Nat.testBit_and, testBit_outside _ hj]

theorem Piece.over_masked {p q : Piece} (hp : p.masked) (hq : q.masked) : (p.over q).masked := by
  intro j hj hv
  rw [Piece.over_val_bit p q hj, Bool.or_eq_true, Bool.and_eq_true] at hv
  rw [Piece.over_mask_bit, Bool.or_eq_true]
  exact hv.imp (fun hpv => hp j hj hpv.1) (hq j hj)

/-- A piece laid over another of its byte leaves the bit that the two leave in turn. -/
theorem Piece.bitOver_over {p q : Piece} (hq : q.masked) (hhost : p.host = q.host) (hkey : p.key = q.key) (hj : j < 8) (old : Bool) :
    (p.over q).bitOver h k j old = q.bitOver h k j (p.bitOver h k j old) := by
  by_cases hb : q.host = h ∧ q.key = k
  · obtain ⟨hh, hk⟩ := hb
    rw [Piece.bitOver_same (p := p.over q) (hhost.trans hh) (hkey.trans hk), Piece.bitOver_same hh hk,
      Piece.bitOver_same (hhost.trans hh) (hkey.trans hk), Piece.over_mask_bit, Piece.over_val_bit p q hj]
    cases hm : q.mask.testBit j with
    | false =>
      rw [hq.val_bit hj hm, Bool.or_false, Bool.or_false, Bool.not_false, Bool.and_true]
      rfl
    | true =>
      rw [Bool.or_true, Bool.not_true, Bool.and_false, Bool.false_or]
      rfl
  · rw [Piece.bitOver_other (p := p.over q) (hhost ▸ hkey ▸ hb), Piece.bitOver_other hb, Piece.bitOver_other (hhost ▸ hkey ▸ hb)]

/-- The byte that a piece writes. -/
def Piece.byte (p : Piece) : Bool × Nat := (p.host, p.key)

theorem Piece.byte_eq_iff {p q : Piece} : p.byte = q.byte ↔ p.host = q.host ∧ p.key = q.key := Prod.ext_iff

theorem byte_addPiece (q : Piece) : ∀ l : List Piece,
    (addPiece l q).map Piece.byte = if q.byte ∈ l.map Piece.byte then l.map Piece.byte else l.map Piece.byte ++ [q.byte]
  | [] => rfl
  | p :: l => by
    rw [addPiece]
    by_cases hpq : p.host = q.host ∧ p.key = q.key
    · have hbyte : q.byte ∈ (p :: l).map Piece.byte := List.mem_map.mpr ⟨p, List.mem_cons_self, Piece.byte_eq_iff.mpr hpq⟩
      rw [if_pos hpq, if_pos hbyte]
      rfl
    · have hne : q.byte ≠ p.byte := fun e => hpq (Piece.byte_eq_iff.mp e.symm)
      rw [if_neg hpq, List.map_cons, byte_addPiece q l, List.map_cons]
      by_cases hq : q.byte ∈ l.map Piece.byte
      · rw [if_pos hq, if_pos (List.mem_cons_of_mem _ hq)]
      · rw [if_neg hq, if_neg (List.not_mem_cons_of_ne_of_not_mem hne hq), List.cons_append]

theorem addPiece_nodup {l : List Piece} (hl : (l.map Piece.byte).Nodup) (q : Piece) : ((addPiece l q).map Piece.byte).Nodup := by
  rw [byte_addPiece]
  split
  · exact hl
  · next hq =>
    refine List.nodup_append.mpr ⟨hl, List.nodup_cons.mpr ⟨List.not_mem_nil, List.nodup_nil⟩, fun a ha b hb e => hq ?_⟩
    exact (e.trans (List.mem_singleton.mp hb)) ▸ ha

theorem addPiece_masked {q : Piece} (hq : q.masked) : ∀ {l : List Piece}, (∀ p ∈ l, p.masked) → ∀ p ∈ addPiece l q, p.masked
  | [], _ => List.forall_mem_singleton.mpr hq
  | p :: l, hl => by
    obtain ⟨hp, hrest⟩ := List.forall_mem_cons.mp hl
    rw [addPiece]
    split
    · exact List.forall_mem_cons.mpr ⟨Piece.over_masked hp hq, hrest⟩
    · exact List.forall_mem_cons.mpr ⟨hp, addPiece_masked hq hrest⟩

/-- Among pieces of bytes apart, adding one is writing it after them. -/
theorem bitAfter_addPiece {q : Piece} (hq : q.masked) (hj : j < 8) : ∀ {l : List Piece}, (l.map Piece.byte).Nodup → ∀ old,
    bitAfter h k j (addPiece l q) old = q.bitOver h k j (bitAfter h k j l old)
  | [], _, _ => rfl
  | p :: l, hl, old => by
    obtain ⟨hnot, hrest⟩ := List.nodup_cons.mp hl
    rw [addPiece, bitAfter_cons]
    by_cases hpq : p.host = q.host ∧ p.key = q.key
    · rw [if_pos hpq, bitAfter_cons, Piece.bitOver_over hq hpq.1 hpq.2 hj]
      by_cases hb : q.host = h ∧ q.key = k
      · have hother : ∀ x ∈ l, ¬(x.host = h ∧ x.key = k) := fun x hx e =>
          hnot (List.mem_map.mpr ⟨x, hx, Piece.byte_eq_iff.mpr ⟨by rw [e.1, hpq.1, hb.1], by rw [e.2, hpq.2, hb.2]⟩⟩)
        rw [bitAfter_other hother, bitAfter_other hother]
      · rw [Piece.bitOver_other hb, Piece.bitOver_other hb]
    · rw [if_neg hpq, bitAfter_cons, bitAfter_addPiece hq hj hrest]

theorem foldl_addPiece_masked : ∀ {ps l : List Piece}, (∀ p ∈ ps, p.masked) → (∀ p ∈ l, p.masked) →
    ∀ p ∈ ps.foldl addPiece l, p.masked
  | [], _, _, hl => hl
  | q :: ps, _, hps, hl => by
    obtain ⟨hq, hrest⟩ := List.forall_mem_cons.mp hps
    exact foldl_addPiece_masked (ps := ps) hrest (addPiece_masked hq hl)

/-- Adding pieces in turn to pieces of bytes apart is writing them after those. -/
theorem bitAfter_foldl_addPiece (hj : j < 8) : ∀ {ps l : List Piece}, (∀ p ∈ ps, p.masked) → (l.map Piece.byte).Nodup → ∀ old,
    bitAfter h k j (ps.foldl addPiece l) old = bitAfter h k j ps (bitAfter h k j l old)
  | [], _, _, _, _ => rfl
  | q :: ps, l, hps, hl, old => by
    obtain ⟨hq, hrest⟩ := List.forall_mem_cons.mp hps
    rw [List.foldl_cons, bitAfter_foldl_addPiece hj hrest (addPiece_nodup hl q), bitAfter_addPiece hq hj hl, bitAfter_cons]

theorem mergePieces_masked {ps : List Piece} (hps : ∀ p ∈ ps, p.masked) : ∀ p ∈ mergePieces ps, p.masked :=
  foldl_addPiece_masked hps (fun _ hp => absurd hp List.not_mem_nil)

/-- R31: merged pieces leave what the pieces leave in turn. -/
theorem bitAfter_mergePieces {ps : List Piece} (hps : ∀ p ∈ ps, p.masked) (hj : j < 8) (old : Bool) :
    bitAfter h k j (mergePieces ps) old = bitAfter h k j ps old :=
  bitAfter_foldl_addPiece (l := []) hj hps List.nodup_nil old

/-! ### Pieces written to memory -/

/-- R336: a bit of the byte that a masked piece leaves. -/
theorem Piece.apply_bit {p : Piece} (hp : p.masked) (hj : j < 8) (old : Byte × Bool) :
    (p.apply old).1.getLsbD j = if p.mask.testBit j then p.val.testBit j else old.1.getLsbD j := by
  rw [Piece.apply, BitVec.getLsbD_ofNat, Nat.testBit_or, Nat.testBit_and, testBit_outside _ hj, decide_eq_true hj,
    BitVec.testBit_toNat, Bool.true_and]
  cases hm : p.mask.testBit j with
  | false =>
    rw [hp.val_bit hj hm, Bool.or_false, Bool.not_false, Bool.and_true]
    rfl
  | true =>
    rw [Bool.not_true, Bool.and_false, Bool.false_or]
    rfl

theorem State.mem_putPiece (s : State) (p : Piece) :
    (s.putPiece p).mem h = if p.host = h then sset 0 (s.mem h) p.key (p.apply (sget 0 (s.mem h) p.key, false)).1 else s.mem h := by
  unfold State.putPiece
  cases hp : p.host <;> cases h <;> rfl

theorem State.putPiece_bit (s : State) {p : Piece} (hp : p.masked) (hj : j < 8) :
    (sget 0 ((s.putPiece p).mem h) k).getLsbD j = p.bitOver h k j ((sget 0 (s.mem h) k).getLsbD j) := by
  rw [State.mem_putPiece]
  by_cases hb : p.host = h ∧ p.key = k
  · obtain ⟨hh, rfl⟩ := hb
    rw [if_pos hh, sget_sset_same, Piece.apply_bit hp hj, Piece.bitOver_same hh rfl]
  · rw [Piece.bitOver_other hb]
    split
    · next hh => rw [sget_sset_other _ (fun e => hb ⟨hh, e.symm⟩)]
    · rfl

theorem State.foldl_putPiece_bit (hj : j < 8) : ∀ {ps : List Piece}, (∀ p ∈ ps, p.masked) → ∀ s : State,
    (sget 0 ((ps.foldl State.putPiece s).mem h) k).getLsbD j = bitAfter h k j ps ((sget 0 (s.mem h) k).getLsbD j)
  | [], _, _ => rfl
  | p :: ps, hps, s => by
    obtain ⟨hp, hrest⟩ := List.forall_mem_cons.mp hps
    rw [List.foldl_cons, State.foldl_putPiece_bit hj hrest, State.putPiece_bit s hp hj, bitAfter_cons]

theorem State.putAll_bit (s : State) {ps : List Piece} (hps : ∀ p ∈ ps, p.masked) (hj : j < 8) :
    (sget 0 ((s.putAll ps).mem h) k).getLsbD j = bitAfter h k j ps ((sget 0 (s.mem h) k).getLsbD j) := by
  unfold State.putAll
  extract_lets words s1 s2
  have hmem : s2.mem h = s.mem h :=
    (State.mem_foldl (fun t l => t.mem_poisonLine h ps l) _ _).trans (State.mem_foldl (fun t w => t.mem_mergeWord h ps w) _ _)
  rw [State.foldl_putPiece_bit hj hps, hmem]

/-! ### What a unit writes as it commits -/

/-- The pieces left of a list when those on host lines that write transactions of the unit carry are left out. -/
def Desc.offWire (d : Desc) (f u : Nat) (ps : List Piece) : List Piece :=
  ps.filter (fun p => !(p.host && (d.onWire f u).contains (p.key / 64)))

theorem Desc.bitAfter_offWire (d : Desc) (f u : Nat) (ps : List Piece) (old : Bool) :
    bitAfter h k j (d.offWire f u ps) old = if h && (d.onWire f u).contains (k / 64) then old else bitAfter h k j ps old := by
  split
  · next hw =>
    refine bitAfter_other (fun p hp e => ?_) old
    have hkept := (List.mem_filter.mp hp).2
    rw [e.1, e.2, hw] at hkept
    exact absurd hkept (by decide)
  · next hw => exact bitAfter_filter (fun p hh hk => by rw [hh, hk, Bool.not_eq_true _ |>.mp hw]; rfl) ps old

theorem State.mirror_inactive {s : State} (hs : ∀ w ∈ s.twins, w.active = false) (ps : List Piece) : s.mirror ps = [] := by
  rw [State.mirror, List.filter_eq_nil_iff.mpr (fun w hw => Bool.eq_false_iff.mp (hs w hw)), List.flatMap_nil]

/-- Of the steps of a commit only the writing of its pieces touches the memories. -/
theorem State.mem_commit {s : State} (hs : ∀ w ∈ s.twins, w.active = false) (d : Desc) (f u : Nat) (o : Out) :
    (s.commit d f u o).mem h =
      ((s.noteReads o.words).putAll (d.offWire f u (mergePieces (keepPieces d.derr o.pieces)))).mem h := by
  have htwins : (s.noteReads o.words).twins = s.twins := by rw [(s.noteReads_readOn o.words).frame]
  unfold State.commit
  extract_lets s1 ps s2 s3 s4
  have hs2 : s2 = s1.putAll (d.offWire f u (mergePieces (keepPieces d.derr o.pieces))) := by
    have hmirror : s1.mirror ps = [] := State.mirror_inactive (htwins ▸ hs) ps
    show s1.putAll (ps ++ s1.mirror ps) = _
    rw [hmirror, List.append_nil]
    rfl
  have hs3 : s3.mem h = s2.mem h := State.mem_foldl (fun t x => t.mem_modPair h _ _) _ _
  have hs4 : s4.mem h = s3.mem h := State.mem_foldl (fun t x => t.mem_noteD h _ _ d _) _ _
  rw [← hs2, ← hs3, ← hs4]
  rfl

/-- A bit of memory after a unit has committed: that of its pieces in turn, but for lines answered DERR and lines on the wire. -/
theorem State.commit_bit {s : State} (hs : ∀ w ∈ s.twins, w.active = false) (d : Desc) (f u : Nat) {o : Out}
    (ho : ∀ p ∈ o.pieces, p.masked) (hj : j < 8) :
    (sget 0 ((s.commit d f u o).mem h) k).getLsbD j =
      if h && (d.onWire f u).contains (k / 64) then (sget 0 (s.mem h) k).getLsbD j
      else bitAfter h k j (keepPieces d.derr o.pieces) ((sget 0 (s.mem h) k).getLsbD j) := by
  have hkept : ∀ p ∈ keepPieces d.derr o.pieces, p.masked := fun p hp => ho p (List.mem_filter.mp hp).1
  have hwritten : ∀ p ∈ d.offWire f u (mergePieces (keepPieces d.derr o.pieces)), p.masked := fun p hp =>
    mergePieces_masked hkept p (List.mem_filter.mp hp).1
  rw [State.mem_commit hs, State.putAll_bit _ hwritten hj, State.mem_noteReads, Desc.bitAfter_offWire, bitAfter_mergePieces hkept hj]

/-- No DERR on a host line keeps a piece from pasture. -/
theorem bitAfter_keepPieces_past (derr : List Nat) (ps : List Piece) (old : Bool) :
    bitAfter false k j (keepPieces derr ps) old = bitAfter false k j ps old :=
  bitAfter_filter (fun p hh _ => by rw [hh]; rfl) ps old

end Bits

theorem Piece.writes_host (k j : Nat) : Piece.writes true k j = fun p => p.host && decide (p.key = k) && p.mask.testBit j := by
  funext p
  rw [Piece.writes, beq_true]

theorem Piece.writes_past (k j : Nat) : Piece.writes false k j = fun p => !p.host && decide (p.key = k) && p.mask.testBit j := by
  funext p
  rw [Piece.writes, beq_false]

/-- Settles O34: by the bit that pieces written in turn leave, which merging the pieces of a byte does not change. -/
theorem unitsWriteTheirBitsAndNoOthers : Obligations.UnitsWriteTheirBitsAndNoOthers := by
  unfold Obligations.UnitsWriteTheirBitsAndNoOthers
  rintro s _ d f u o hpieces hs rfl
  have ho : ∀ p ∈ o.pieces, p.masked := fun p hp => Piece.masked_of_land (hpieces p hp).2.2
  refine ⟨fun k j hj => ?_, fun k j hj => ?_⟩
  · have hbit := State.commit_bit (h := true) (k := k) hs d f u ho hj
    rw [bitAfter_eq_last, Piece.writes_host] at hbit
    refine hbit.trans ?_
    generalize List.getLast? _ = last
    cases last with
    | none => exact ite_self _
    | some p => rfl
  · have hbit := State.commit_bit (h := false) (k := k) hs d f u ho hj
    rw [bitAfter_keepPieces_past, bitAfter_eq_last, Piece.writes_past] at hbit
    refine hbit.trans ?_
    generalize List.getLast? _ = last
    cases last with
    | none => rfl
    | some p => rfl

end Sys2Proof.Machine
end

section
/-!
SUPPORT. The dither of a stochastic rounding (R135, R287): what DG64 takes from seed and step, and the element that one output of a
channel gives when it is requantised (R133, R134).
-/
namespace Sys2Proof.Machine

/-- R287's κ, of seed and step, settles DG64. -/
theorem dg64_eq_of_xor_eq {a b st st' : BitVec 64} (i : BitVec 64)
    (h : a ^^^ (st * 0x9E3779B97F4A7C15#64) = b ^^^ (st' * 0x9E3779B97F4A7C15#64)) : dg64 a st i = dg64 b st' i := by
  rw [dg64, dg64, h]

/-- An output of a type other than S48 and FP32 is requantised, and its dither word, where RND asks for one, is of the
descriptor's seed and STEP and of the output's index. -/
theorem chanStep_elts_requant {y : Grat} (fp : Bool) (a : TParams) (d : Desc) (bad : Bool) (o : ChanOut) (l : Nat) (v : Val)
    (hint : y.ty ≠ .s48) (hfp : y.ty ≠ .fp32) :
    (chanStep fp y a d bad o l v).elts = o.elts ++ [(l,
      { val := toBits (requantOne fp y.ty a (o.stat.map (fun r => r.update a (if y.w = 8 then 127 else 32767) d.period)) v.v
          (if a.rnd then some (dg64 d.seed (BitVec.ofNat 64 d.step) (BitVec.ofNat 64 l)) else none)).y y.w
        rad := radAll y.w (v.rad || bad) })] := by
  rw [chanStep, if_neg (not_or.mpr ⟨hint, hfp⟩)]

/-- Settles O25: DG64 reads seed and step through κ alone, and RND = 1 takes its word as the dither of a requantised output. -/
theorem ditherDependsOnSeedAndStepAlone : Obligations.DitherDependsOnSeedAndStepAlone := by
  unfold Obligations.DitherDependsOnSeedAndStepAlone
  refine ⟨fun a b st st' i hkey => dg64_eq_of_xor_eq i hkey, fun fp y a d bad o l v hrnd hint hfp => ?_⟩
  rw [chanStep_elts_requant fp a d bad o l v hint hfp, if_pos hrnd]

end Sys2Proof.Machine
end

section
/-!
SUPPORT. The folds that run a descriptor while its execution goes on (R163, R241): `State.KeepsRunning` says of an operation that
every fold runs what it ran; `State.Goes i` that descriptor `i` keeps its cells and, where it is still in flight, was so before
while every fold ran what it ran. Every operation that an execution is made of has one lemma; a fold that has done its share lets
go of the descriptor at the end.
-/
namespace Sys2Proof.Machine

/-! ### Operations that leave what the folds run alone -/

/-- Every physical fold runs what it ran. -/
def State.KeepsRunning (s t : State) : Prop := ∀ p, (t.fold p).running = (s.fold p).running

theorem State.KeepsRunning.refl (s : State) : s.KeepsRunning s := fun _ => rfl

theorem State.KeepsRunning.trans {r s t : State} (h : r.KeepsRunning s) (k : s.KeepsRunning t) : r.KeepsRunning t :=
  fun p => (k p).trans (h p)

theorem State.KeepsRunning.of_folds {s t : State} (h : t.folds = s.folds) : s.KeepsRunning t := fun p => by
  rw [State.fold, h, State.fold]

theorem State.KeepsRunning.foldl {α : Type} {f : State → α → State} (hf : ∀ (s : State) (a : α), s.KeepsRunning (f s a)) :
    ∀ (l : List α) (s : State), s.KeepsRunning (l.foldl f s)
  | [], s => .refl s
  | a :: l, s => (hf s a).trans (State.KeepsRunning.foldl hf l (f s a))

theorem State.KeepsRunning.ite {s t u : State} {c : Prop} [Decidable c] (ht : s.KeepsRunning t) (hu : s.KeepsRunning u) :
    s.KeepsRunning (if c then t else u) := by
  split
  · exact ht
  · exact hu

section FoldChanges

variable (s : State)

/-- What a change of a fold keeps of any fold, a change of a logical fold keeps of every physical one. -/
theorem State.fold_modL_of {P : Fold → Prop} {g : Fold → Fold} (hg : ∀ fo, P fo → P (g fo)) (f : Nat) {p : Nat}
    (h : P (s.fold p)) : P ((s.modL f g).fold p) := by
  unfold State.modL
  split
  · exact h
  · rw [State.fold_modFold]
    split
    · next e => exact hg _ (e ▸ h)
    · exact h

/-- The same of a fold changed with its shadow. -/
theorem State.fold_modPair_of {P : Fold → Prop} {g : Fold → Fold} (hg : ∀ fo, P fo → P (g fo)) (f : Nat) {p : Nat}
    (h : P (s.fold p)) : P ((s.modPair f g).fold p) := by
  unfold State.modPair
  dsimp only
  split
  · exact State.fold_modL_of _ hg _ (s.fold_modL_of hg f h)
  · exact s.fold_modL_of hg f h

/-- A present fold changed with its shadow is changed once, or twice where the shadow is backed by the same physical fold. -/
theorem State.fold_modPair_self {f p : Nat} (hp : s.phys f = some p) (g : Fold → Fold) :
    (s.modPair f g).fold p = g (s.fold p) ∨ (s.modPair f g).fold p = g (g (s.fold p)) := by
  have hself : (s.modL f g).fold p = g (s.fold p) := by simp [State.modL, hp]
  unfold State.modPair
  dsimp only
  split
  · unfold State.modL at hself ⊢
    split
    · exact .inl hself
    · rw [State.fold_modFold]
      split
      · next e => exact .inr (by rw [← e, hself])
      · exact .inl hself
  · exact .inl hself

theorem State.modL_keepsRunning (f : Nat) {g : Fold → Fold} (hg : ∀ fo, (g fo).running = fo.running) : s.KeepsRunning (s.modL f g) :=
  fun p => s.fold_modL_of (P := fun fo => fo.running = (s.fold p).running) (fun fo h => (hg fo).trans h) f rfl

theorem State.modPair_keepsRunning (f : Nat) {g : Fold → Fold} (hg : ∀ fo, (g fo).running = fo.running) :
    s.KeepsRunning (s.modPair f g) :=
  fun p => s.fold_modPair_of (P := fun fo => fo.running = (s.fold p).running) (fun fo h => (hg fo).trans h) f rfl

end FoldChanges

section LowOperations

variable (s : State)

theorem State.event_keepsRunning (code : Nat) (fold : Option Nat) (tag brand pen info : Nat) :
    s.KeepsRunning (s.event code fold tag brand pen info) := by
  obtain ⟨h, -⟩ := s.event_onlyEvents code fold tag brand pen info
  exact .of_folds (by rw [h])

theorem State.noteReads_keepsRunning (ws : List Nat) : s.KeepsRunning (s.noteReads ws) :=
  .of_folds (by rw [(s.noteReads_readOn ws).frame])

theorem State.corrected_keepsRunning : s.KeepsRunning s.corrected := by
  unfold State.corrected State.bumpFault
  split <;> exact .of_folds rfl

theorem State.hand_keepsRunning (w : Nat) : s.KeepsRunning (s.hand w) := .ite (.refl s) (.of_folds rfl)

theorem State.mergeWord_keepsRunning (ps : List Piece) (w : Nat) : s.KeepsRunning (s.mergeWord ps w) := by
  unfold State.mergeWord
  split
  · exact .refl s
  · extract_lets full s1 keep
    have h1 : s.KeepsRunning s1 := .of_folds rfl
    refine .ite h1 (.ite (h1.trans s1.corrected_keepsRunning) (State.KeepsRunning.trans ?_ (State.hand_keepsRunning _ w)))
    exact .of_folds rfl

theorem State.poisonLine_keepsRunning (ps : List Piece) (l : Nat) : s.KeepsRunning (s.poisonLine ps l) :=
  .ite (.of_folds rfl) (.ite (.of_folds rfl) (.refl s))

theorem State.putPiece_keepsRunning (p : Piece) : s.KeepsRunning (s.putPiece p) := .ite (.of_folds rfl) (.of_folds rfl)

theorem State.putAll_keepsRunning (ps : List Piece) : s.KeepsRunning (s.putAll ps) := by
  unfold State.putAll
  extract_lets words s1 s2
  have h1 : s.KeepsRunning s1 := .foldl (fun t w => t.mergeWord_keepsRunning ps w) _ _
  have h2 : s1.KeepsRunning s2 := .foldl (fun t l => t.poisonLine_keepsRunning ps l) _ _
  exact (h1.trans h2).trans (.foldl State.putPiece_keepsRunning _ _)

theorem State.takeId_keepsRunning {s : State} {port : Nat} {x : Nat × State} (e : s.takeId port = some x) : s.KeepsRunning x.2 := by
  unfold State.takeId at e
  dsimp only at e
  split at e
  · cases e
  · obtain rfl := Option.some.inj e
    exact .of_folds rfl

theorem State.latchPermute_keepsRunning (d : Desc) (f : Nat) : s.KeepsRunning (s.latchPermute d f) :=
  .ite (s.modPair_keepsRunning f (by intro _; rfl)) (.refl s)

theorem State.pickPieces_folds : ∀ (s : State) (l : List (List Piece)), (s.pickPieces l).1.folds = s.folds
  | _, [] => rfl
  | s, [] :: l => State.pickPieces_folds s l
  | s, (p :: q) :: l => by
    unfold State.pickPieces
    split
    · exact State.pickPieces_folds s l
    · exact State.pickPieces_folds _ l

theorem State.settleBytes_folds (old : Nat → Bool) : ∀ (s : State) (l : List Piece), (s.settleBytes old l).1.folds = s.folds
  | _, [] => rfl
  | s, p :: l => by
    unfold State.settleBytes
    split
    · exact State.settleBytes_folds old _ l
    · exact State.settleBytes_folds old s l

theorem State.putFree_keepsRunning (ps : List Piece) : s.KeepsRunning (s.putFree ps) :=
  (State.KeepsRunning.of_folds (s.pickPieces_folds _)).trans (State.putAll_keepsRunning _ _)

theorem State.raceByte_folds : ∀ (n : Nat) (s : State) (ps : List (Piece × (Byte × Bool))) (cur : Byte × Bool),
    (State.raceByte n s ps cur).1.folds = s.folds
  | 0, _, _, _ => rfl
  | _ + 1, _, [], _ => rfl
  | n + 1, _, _ :: _, _ => State.raceByte_folds n _ _ _

theorem State.raceBytes_folds : ∀ (s : State) (wins : List Win) (l : List Nat), (s.raceBytes wins l).1.folds = s.folds
  | _, _, [] => rfl
  | s, wins, k :: l => by
    have picks : ∀ (m : List (List (Piece × (Byte × Bool)))) (acc : State × List (Piece × (Byte × Bool))),
        (m.foldl (fun (acc : State × List (Piece × (Byte × Bool))) w =>
          ((acc.1.pickPieces (groupPieces (w.map Prod.fst))).1,
            acc.2 ++ (mergePieces (acc.1.pickPieces (groupPieces (w.map Prod.fst))).2).map (fun p =>
              (p, (w.head?.map Prod.snd).getD (s.hostByte k))))) acc).1.folds = acc.1.folds := by
      intro m
      induction m with
      | nil => exact fun _ => rfl
      | cons w m ih => exact fun acc => (ih _).trans (State.pickPieces_folds _ _)
    exact ((State.raceBytes_folds _ wins l).trans (State.raceByte_folds _ _ _ _)).trans (picks _ (s, []))

theorem State.settleWins_keepsRunning (d : Desc) (wins : List Win) (keys : List (Bool × Nat)) :
    s.KeepsRunning (s.settleWins d wins keys) :=
  .ite ((State.KeepsRunning.of_folds (s.raceBytes_folds _ _)).trans (State.putAll_keepsRunning _ _))
    (.ite (s.putFree_keepsRunning _) (s.putFree_keepsRunning _))

theorem State.settle_keepsRunning (d : Desc) (o : Out) : s.KeepsRunning (s.settle d o).1 := by
  unfold State.settle
  split
  · exact .of_folds ((State.settleBytes_folds _ _ _).trans (s.pickPieces_folds _))
  · exact .refl s

theorem State.holdLines_keepsRunning (d : Desc) (f u : Nat) (o : Out) : s.KeepsRunning (s.holdLines d f u o).1 := by
  unfold State.holdLines
  split
  · exact .refl s
  · exact s.modL_keepsRunning f (by intro _; rfl)

theorem State.unitBytes_keepsRunning (d : Desc) (f u : Nat) (ls : List Nat) : s.KeepsRunning (s.unitBytes d f u ls).1 := by
  unfold State.unitBytes
  extract_lets o x
  split
  · exact .refl s
  · exact s.settle_keepsRunning d o

theorem State.wake_keepsRunning (fs : List Nat) : s.KeepsRunning (s.wake fs) :=
  .foldl (fun t f => t.modPair_keepsRunning f (by intro _; rfl)) _ _

theorem State.sendLeg_keepsRunning (d : Desc) (x : Transfer) (len : Nat) : s.KeepsRunning (s.sendLeg d x len) := by
  unfold State.sendLeg
  dsimp only
  refine .ite (State.KeepsRunning.trans ?_ (State.wake_keepsRunning _ _)) (.of_folds rfl)
  exact (s.putAll_keepsRunning _).trans (.of_folds rfl)

theorem State.startLeg_keepsRunning (d : Desc) (k : Nat) (pass : Bool) : s.KeepsRunning (s.startLeg d k pass) := by
  unfold State.startLeg
  split
  · exact .ite (s.sendLeg_keepsRunning d _ _) (.refl s)
  · exact .refl s

theorem State.runLegs_keepsRunning (i : Nat) : s.KeepsRunning (s.runLegs i) := by
  unfold State.runLegs
  split
  · exact .refl s
  · exact .foldl (fun t k => t.startLeg_keepsRunning _ k true) _ _

theorem State.unpair_keepsRunning (k : Nat) : s.KeepsRunning (s.unpair k) := by
  unfold State.unpair
  split
  · exact .refl s
  · refine .trans ?_ (State.event_keepsRunning _ _ _ _ _ _ _)
    exact .of_folds rfl

end LowOperations

/-! ### The execution of a descriptor while it is in flight -/

/-- Descriptor `i` keeps its cells; where it is in flight in `t` it was so in `s`, and every fold runs what it ran. -/
def State.Goes (i : Nat) (s t : State) : Prop :=
  ∀ d, s.desc? i = some d → ∃ e, t.desc? i = some e ∧ e.cells = d.cells ∧ (e.active = true → d.active = true ∧ s.KeepsRunning t)

theorem State.Goes.of_keeps {s t : State} (h : s.KeepsDescs t) (k : s.KeepsRunning t) (i : Nat) : s.Goes i t :=
  fun d hd => ⟨d, (h.desc? i).trans hd, rfl, fun ha => ⟨ha, k⟩⟩

theorem State.Goes.refl (i : Nat) (s : State) : s.Goes i s := .of_keeps (.refl s) (.refl s) i

theorem State.Goes.trans {i : Nat} {r s t : State} (h : r.Goes i s) (k : s.Goes i t) : r.Goes i t := by
  intro d hd
  obtain ⟨e, he, hcells, hact⟩ := h d hd
  obtain ⟨x, hx, kcells, kact⟩ := k e he
  refine ⟨x, hx, kcells.trans hcells, fun ha => ?_⟩
  obtain ⟨hea, hst⟩ := kact ha
  obtain ⟨hda, hrs⟩ := hact hea
  exact ⟨hda, hrs.trans hst⟩

theorem State.Goes.foldl {i : Nat} {α : Type} {f : State → α → State} (hf : ∀ (s : State) (a : α), s.Goes i (f s a)) :
    ∀ (l : List α) (s : State), s.Goes i (l.foldl f s)
  | [], s => .refl i s
  | a :: l, s => (hf s a).trans (State.Goes.foldl hf l (f s a))

theorem State.Goes.ite {i : Nat} {s t u : State} {c : Prop} [Decidable c] (ht : s.Goes i t) (hu : s.Goes i u) :
    s.Goes i (if c then t else u) := by
  split
  · exact ht
  · exact hu

section Execution

variable (s : State)

/-- A change of the descriptor that leaves cells and stage alone. -/
theorem State.modDesc_goes (i : Nat) (f : Desc → Desc) (hf : ∀ d, (f d).did = d.did ∧ (f d).cells = d.cells ∧ (f d).stage = d.stage) :
    s.Goes i (s.modDesc i f) := by
  intro d hd
  obtain ⟨-, hcells, hstage⟩ := hf d
  refine ⟨f d, ?_, hcells, fun ha => ⟨?_, .of_folds rfl⟩⟩
  · rw [State.desc?_modDesc _ _ _ _ (fun d h => (hf d).1.trans h), if_pos rfl, hd, Option.map_some]
  · rwa [Desc.active, hstage] at ha

theorem State.noteReads_goes (ws : List Nat) (i : Nat) : s.Goes i (s.noteReads ws) :=
  .of_keeps (s.noteReads_keepsDescs ws) (s.noteReads_keepsRunning ws) i

theorem State.noteD_goes (code : Nat) (f : Option Nat) (d : Desc) (info i : Nat) : s.Goes i (s.noteD code f d info) :=
  .of_keeps (s.noteD_keepsDescs code f d info) (s.event_keepsRunning _ _ _ _ _ _) i

theorem State.putAll_goes (ps : List Piece) (i : Nat) : s.Goes i (s.putAll ps) :=
  .of_keeps (s.putAll_keepsDescs ps) (s.putAll_keepsRunning ps) i

theorem State.modL_goes (f i : Nat) {g : Fold → Fold} (hg : ∀ fo, (g fo).running = fo.running) : s.Goes i (s.modL f g) :=
  .of_keeps (s.modL_keepsDescs f g) (s.modL_keepsRunning f hg) i

theorem State.voidBound_goes (i : Nat) : s.Goes i (s.voidBound i) := by
  refine s.modDesc_goes i _ (fun d => ?_)
  split <;> exact ⟨rfl, rfl, rfl⟩

theorem State.takeId_goes {s : State} {port : Nat} {x : Nat × State} (e : s.takeId port = some x) (i : Nat) : s.Goes i x.2 :=
  .of_keeps (State.takeId_keepsDescs e) (State.takeId_keepsRunning e) i

theorem State.lineId_goes {s : State} {d : Desc} {line : Nat} {write : Bool} {x : Nat × Nat × State}
    (e : s.lineId d line write = some x) : s.Goes d.did x.2.2 := by
  unfold State.lineId at e
  dsimp only at e
  split at e
  · split at e
    · obtain rfl := Option.some.inj e
      exact .refl _ s
    · cases e
  · obtain ⟨u, hu, rfl⟩ := Option.map_eq_some_iff.mp e
    refine (State.takeId_goes hu _).trans (State.modDesc_goes _ _ _ ?_)
    exact fun _ => ⟨rfl, rfl, rfl⟩
  · obtain ⟨u, hu, rfl⟩ := Option.map_eq_some_iff.mp e
    exact State.takeId_goes hu _

theorem State.emit_goes (r : SnReq) (i : Nat) : s.Goes i (s.emit r) := .of_keeps (s.emit_keepsDescs r) (.of_folds rfl) i

theorem State.passBeat_goes (d : Desc) (l : HLine) (beat : BitVec 512 × BitVec 64 × Bool) : s.Goes d.did (s.passBeat d l beat) := by
  unfold State.passBeat
  split
  · exact .refl _ s
  · next e =>
    obtain ⟨a, ha, e⟩ := Option.bind_eq_some_iff.mp e
    rw [← State.desc?_did ha]
    exact (State.lineId_goes e).trans (State.emit_goes _ _ _)

theorem State.passRead_goes (d : Desc) (l : HLine) : s.Goes d.did (s.passRead d l) := by
  unfold State.passRead
  split
  · exact .refl _ s
  · next e => exact (State.lineId_goes e).trans (State.emit_goes _ _ _)

theorem State.passLines_goes (d : Desc) (write : Bool) (ps : List Piece) (hs : List HLine) :
    s.Goes d.did (s.passLines d write ps hs) :=
  .ite (.foldl (fun t l => t.passBeat_goes d l _) _ _) (.foldl (fun t l => t.passRead_goes d l) _ _)

theorem State.payLines_goes (d : Desc) (n : Nat) : s.Goes d.did (s.payLines d n) := by
  unfold State.payLines
  extract_lets tok s1
  have h1 : s.Goes d.did s1 := s.modDesc_goes _ _ (fun _ => ⟨rfl, rfl, rfl⟩)
  refine .ite h1 (h1.trans (.of_keeps ?_ ?_ _))
  · exact .of_eq rfl rfl
  · exact .of_folds rfl

theorem State.noWait_goes (j f i : Nat) : s.Goes i (s.noWait j f) := .of_keeps (s.noWait_keepsDescs j f) (.of_folds rfl) i

theorem State.waitFor_goes (j f i : Nat) : s.Goes i (s.waitFor j f) :=
  .of_keeps (s.waitFor_keepsDescs j f) (.ite (.refl s) (.of_folds rfl)) i

theorem State.deal_goes (d : Desc) (asks : Progress) : s.Goes d.did (s.deal d asks).1 := by
  unfold State.deal
  extract_lets fs g got s1
  refine (s.payLines_goes d _).trans (.foldl (fun t x => ?_) _ _)
  extract_lets k
  exact .ite (t.noWait_goes _ _ _) ((State.Goes.ite (.refl _ t) (t.noWait_goes _ _ _)).trans (State.waitFor_goes _ _ _ _))

theorem State.landPart_goes (i f u : Nat) (hs : List HLine) : s.Goes i (s.landPart i f u hs) := by
  refine (s.modL_goes f i (by intro _; rfl)).trans (State.modDesc_goes _ _ _ ?_)
  exact fun _ => ⟨rfl, rfl, rfl⟩

theorem State.writePart_goes (d : Desc) (f u : Nat) (ls : List Nat) (hs : List HLine) : s.Goes d.did (s.writePart d f u ls hs) := by
  have hbytes : s.Goes d.did (s.unitBytes d f u ls).1 := .of_keeps (s.unitBytes_keepsDescs d f u ls) (s.unitBytes_keepsRunning d f u ls) _
  refine ((hbytes.trans (State.passLines_goes _ d _ _ _)).trans (State.putAll_goes _ _ _)).trans (State.modDesc_goes _ _ _ ?_)
  exact fun _ => ⟨rfl, rfl, rfl⟩

theorem State.commit_goes (d : Desc) (f u : Nat) (o : Out) : s.Goes d.did (s.commit d f u o) := by
  unfold State.commit
  extract_lets s1 ps s2 s3 s4
  have h2 : s.Goes d.did s2 := (s.noteReads_goes _ _).trans (State.putAll_goes _ _ _)
  have h3 : s2.Goes d.did s3 :=
    .foldl (fun t _ => .of_keeps (t.modPair_keepsDescs _ _) (t.modPair_keepsRunning _ (by intro _; rfl)) _) _ _
  have h4 : s3.Goes d.did s4 := .foldl (fun t _ => t.noteD_goes _ _ d _ _) _ _
  refine (((h2.trans h3).trans h4).trans (.of_keeps ?_ ?_ _)).trans (State.modDesc_goes _ _ _ ?_)
  · exact .of_eq rfl rfl
  · exact .of_folds rfl
  · exact fun _ => ⟨rfl, rfl, rfl⟩

theorem State.commitRacy_goes (d : Desc) (f u : Nat) (o : Out) : s.Goes d.did (s.commitRacy d f u o) := by
  have hwins : ∀ (w : List Win) (k : List (Bool × Nat)), s.Goes d.did (s.settleWins d w k) := fun w k =>
    .of_keeps (s.settleWins_keepsDescs d w k) (s.settleWins_keepsRunning d w k) _
  refine ((hwins _ _).trans (State.commit_goes _ d f u _)).trans (State.modDesc_goes _ _ _ ?_)
  exact fun _ => ⟨rfl, rfl, rfl⟩

theorem State.commitUnit_goes (d : Desc) (f u : Nat) (ls : List Nat) (ws : List HLine) : s.Goes d.did (s.commitUnit d f u ls ws) := by
  unfold State.commitUnit
  extract_lets o x y s1
  have hx : s.Goes d.did x.1 := .of_keeps (s.settle_keepsDescs d o) (s.settle_keepsRunning d o) _
  have hy : x.1.Goes d.did y.1 := .of_keeps (State.holdLines_keepsDescs _ d f u _) (State.holdLines_keepsRunning _ d f u _) _
  have h1 : s.Goes d.did s1 := .ite ((s.passLines_goes d _ _ _).trans (State.commitRacy_goes _ d f u o))
    (((hx.trans hy).trans (State.passLines_goes _ d _ _ _)).trans (State.commit_goes _ d f u _))
  have hprog : s1.Goes d.did (s1.stepProg d.did f u) := s1.modDesc_goes _ _ (fun _ => ⟨rfl, rfl, rfl⟩)
  have hlatch := State.Goes.of_keeps (State.latchPermute_keepsDescs (s1.stepProg d.did f u) d f) (State.latchPermute_keepsRunning _ d f) d.did
  exact ((h1.trans hprog).trans hlatch).trans (State.modL_goes _ f _ (by intro _; rfl))

theorem State.rewrite_goes (d : Desc) (ws : List WLine) : s.Goes d.did (s.rewrite d ws) := by
  refine .foldl (fun t w => ((t.passBeat_goes d _ _).trans (State.putAll_goes _ _ _)).trans (State.modDesc_goes _ _ _ ?_)) _ _
  exact fun _ => ⟨rfl, rfl, rfl⟩

/-! ### Ends short of the finish -/

/-- VOID apart, no descriptor changes. -/
theorem State.desc?_voidBarred {s : State} {i : Nat} {d : Desc} (hd : s.desc? i = some d) :
    ∃ e, s.voidBarred.desc? i = some e ∧ e = { d with void := e.void } :=
  (s.voidBarred_drove (i + 1)).desc?_other (by omega) hd

/-- Another status for a descriptor that has ended. -/
theorem State.endAgain_goes (d : Desc) (st : Status) : s.Goes d.did (s.endAgain d st) :=
  .ite (s.modDesc_goes _ _ (fun _ => ⟨rfl, rfl, rfl⟩)) (.refl _ s)

/-- A descriptor in flight is so no more. -/
theorem State.endEarly_goes (i : Nat) (st : Status) : s.Goes i (s.endEarly i st) := by
  unfold State.endEarly
  split
  · exact .refl i s
  · next d hd =>
    extract_lets s0 s1 s2
    refine .ite (State.desc?_did hd ▸ s.endAgain_goes d st) (fun d' hd' => ?_)
    have h0 : ∃ e, s0.desc? i = some e ∧ e.cells = d'.cells := by
      show ∃ e, (if s.suspends d then s.voidBarred else s).desc? i = some e ∧ e.cells = d'.cells
      split
      · obtain ⟨e, he, hev⟩ := State.desc?_voidBarred hd'
        exact ⟨e, he, by rw [hev]⟩
      · exact ⟨d', hd', rfl⟩
    obtain ⟨e, he, hcells⟩ := h0
    have h1 : s1.desc? i = some e := ((s0.letGo_keepsDescs d i).desc? i).trans he
    refine ⟨{ e with stage := .ended, status := st, digest := 0, noted := s.cleanRerun d, tDone := s.tick, sent := [], stalled := [] },
      ?_, hcells, fun ha => nomatch ha⟩
    show s2.desc? i = _
    rw [State.desc?_modDesc, if_pos rfl, h1, Option.map_some]
    exact fun _ h => h

theorem State.mismatch_goes (k i f shd : Nat) : s.Goes i (s.mismatch k i f shd) :=
  ((s.endEarly_goes i _).trans (.of_keeps (State.unpair_keepsDescs _ k) (State.unpair_keepsRunning _ k) i)).trans
    (.foldl (fun t g => t.modL_goes g i (by intro _; rfl)) _ _)

theorem State.disagree_goes (d : Desc) (f u : Nat) (ls : List Nat) : s.Goes d.did (s.disagree d f u ls) := by
  unfold State.disagree
  split
  · exact .refl _ s
  · extract_lets seen s1 s2 s3
    have h2 : s.Goes d.did s2 := ((s.noteReads_goes _ _).trans (State.noteD_goes _ _ _ d _ _)).trans (State.voidBound_goes _ _)
    have h3 : s2.Goes d.did s3 := .ite (.refl _ s2) (s2.noteD_goes _ _ d _ _)
    exact (h2.trans h3).trans (State.mismatch_goes _ _ _ _ _)

theorem State.refuseLate_goes (i : Nat) (st : Status) : s.Goes i (s.refuseLate i st) := by
  unfold State.refuseLate
  split
  · exact .refl i s
  · next d hd =>
    extract_lets s1
    have h1 : s.Goes i s1 := .ite (s.noteD_goes _ _ d _ i) (.refl i s)
    refine (h1.trans (State.modDesc_goes _ _ _ (fun e => ?_))).trans (State.endEarly_goes _ i st)
    split <;> exact ⟨rfl, rfl, rfl⟩

/-! ### Running to the units asked for -/

theorem State.runUnits_goes (i f : Nat) (us : List (List Nat)) : ∀ (l : List (List Nat)) (u k : Nat) (s : State),
    s.Goes i (s.runUnits i f us u k l)
  | [], _, _, s => .refl i s
  | ls :: l, u, k, s => by
    unfold State.runUnits
    split
    · next d p hd hp =>
      obtain rfl := State.desc?_did hd
      extract_lets rs ws t
      have ht : s.Goes d.did t := s.passLines_goes d _ _ _
      refine .ite (.refl _ s) (.ite (ht.trans (t.landPart_goes _ _ _ _)) (.ite (ht.trans (t.disagree_goes d _ _ _)) (.ite ?_ ?_)))
      · exact (ht.trans (t.landPart_goes _ _ _ _)).trans (State.writePart_goes _ d _ _ _ _)
      · exact ((ht.trans (t.noteReads_goes _ _)).trans (State.commitUnit_goes _ d _ _ _ _)).trans
          (State.runUnits_goes d.did f us l _ _ _)
    · exact .refl i s

theorem State.runFold_goes (d : Desc) (f : Nat) (us : List (List Nat)) (u k : Nat) (ls : List (List Nat)) :
    s.Goes d.did (s.runFold d f us u k ls) := by
  unfold State.runFold
  extract_lets n t
  have ht : s.Goes d.did t := s.rewrite_goes d _
  exact .ite ht (ht.trans (State.runUnits_goes _ _ _ _ _ _ _))

theorem State.runStage_goes (i b : Nat) (want : Nat → Nat) : s.Goes i (s.runStage i b want) := by
  unfold State.runStage
  split
  · exact .refl i s
  · next d hd =>
    obtain rfl := State.desc?_did hd
    extract_lets goal mine g
    exact (s.deal_goes d _).trans (.foldl (fun t x => t.runFold_goes d _ _ _ _ _) _ _)

theorem State.stages_goes (i : Nat) (want : Nat → Nat) : ∀ (l : List Nat) (s : State), s.Goes i (s.stages i want l)
  | [], s => .refl i s
  | b :: l, s => by
    unfold State.stages
    extract_lets t
    have hlegs : s.Goes i (s.runLegs i) := .of_keeps (s.runLegs_keepsDescs i) (s.runLegs_keepsRunning i) i
    have ht : s.Goes i t := hlegs.trans (State.runStage_goes _ i b want)
    exact .ite (ht.trans (State.stages_goes i want l t)) ht

theorem State.readCheck_goes (d : Desc) : s.Goes d.did (s.readCheck d) := by
  unfold State.readCheck
  extract_lets mine asks g
  exact (s.deal_goes d _).trans (.foldl (fun t x => (t.passLines_goes d _ _ _).trans (State.landPart_goes _ _ _ _ _)) _ _)

theorem State.checkPass_goes (i : Nat) : s.Goes i (s.checkPass i) := by
  unfold State.checkPass
  split
  · exact .refl i s
  · next d hd =>
    extract_lets t u
    have ht : s.Goes i t := State.desc?_did hd ▸ s.readCheck_goes d
    have hu : s.Goes i u := ht.trans (t.noteReads_goes _ i)
    exact .ite (.refl i s) (.ite (.ite (hu.trans (u.refuseLate_goes i _)) hu) ht)

/-- A fold that runs descriptor `i`, or has let go of it and runs nothing with its latches clear. -/
def Fold.runsOrLeft (i : Nat) (fo : Fold) : Prop := fo.running = some i ∨ fo.running = none ∧ fo.latches = Latches.clear

theorem Fold.runsOrLeft.leave {i : Nat} {fo : Fold} (h : fo.runsOrLeft i) (tick : Nat) : (Fold.leave i tick fo).runsOrLeft i := by
  obtain h | ⟨hrun, hlatch⟩ := h
  · exact .inr ⟨if_pos h, if_pos h⟩
  · have hne : fo.running ≠ some i := by simp [hrun]
    exact .inr ⟨(if_neg hne).trans hrun, (if_neg hne).trans hlatch⟩

/-- The folds that have done their share run nothing, the others go on (R241). -/
theorem State.leaveDone_runsOrLeft (i : Nat) {p : Nat} (h : (s.fold p).runsOrLeft i) : ((s.leaveDone i).fold p).runsOrLeft i := by
  unfold State.leaveDone
  split
  · exact h
  · refine List.foldlRecOn (motive := fun t : State => (t.fold p).runsOrLeft i) _ _ h (fun t ht f _ => ?_)
    refine t.fold_modPair_of (P := Fold.runsOrLeft i) ?_ f ht
    exact fun _ k => k.leave t.tick

/-- `State.Goes` where a fold may have let go of descriptor `i`. -/
def State.GoesOrLeaves (i : Nat) (s t : State) : Prop :=
  ∀ d, s.desc? i = some d → ∃ e, t.desc? i = some e ∧ e.cells = d.cells ∧
    (e.active = true → d.active = true ∧ ∀ p, (s.fold p).running = some i → (t.fold p).runsOrLeft i)

theorem State.Goes.orLeaves {i : Nat} {s t : State} (h : s.Goes i t) : s.GoesOrLeaves i t := by
  intro d hd
  obtain ⟨e, he, hcells, hact⟩ := h d hd
  refine ⟨e, he, hcells, fun ha => ?_⟩
  obtain ⟨hda, hrun⟩ := hact ha
  exact ⟨hda, fun p hp => .inl ((hrun p).trans hp)⟩

theorem State.GoesOrLeaves.leaveDone {i : Nat} {s t : State} (h : s.GoesOrLeaves i t) : s.GoesOrLeaves i (t.leaveDone i) := by
  intro d hd
  obtain ⟨e, he, hcells, hact⟩ := h d hd
  refine ⟨e, ((t.leaveDone_keepsDescs i).desc? i).trans he, hcells, fun ha => ?_⟩
  obtain ⟨hda, hrun⟩ := hact ha
  exact ⟨hda, fun p hp => t.leaveDone_runsOrLeft i (hrun p hp)⟩

/-- A descriptor brought to the units asked for and still in flight is on the folds that ran it, but for those that it has left. -/
theorem State.advance_goesOrLeaves (i : Nat) (want : Nat → Nat) : s.GoesOrLeaves i (s.advance i want) := by
  have h0 : s.GoesOrLeaves i s := (State.Goes.refl i s).orLeaves
  unfold State.advance
  split
  · exact h0
  · extract_lets s1
    have h1 : s.Goes i s1 := s.checkPass_goes i
    split
    · exact h0
    · split
      · exact h1.orLeaves
      · split
        · exact h1.orLeaves
        · exact (h1.trans (State.stages_goes i want _ s1)).orLeaves.leaveDone

end Execution

end Sys2Proof.Machine
end

section
/-!
SUPPORT. Suspension for a bounded descriptor and resumption (R163, R164, R165, R225, Table 06-7), and the statement on both.
-/
namespace Sys2Proof.Machine

/-! ### The descriptors that do not move -/

/-- Cells, stage and progress of a descriptor. -/
def Desc.stand (d : Desc) : List Cell × Stage × Progress := (d.cells, d.stage, d.prog)

/-- The execution of descriptor `k` moves no other descriptor. -/
theorem State.Drove.stand_other {i k : Nat} {s t : State} (h : s.Drove k t) (hk : i ≠ k) :
    (t.desc? i).map Desc.stand = (s.desc? i).map Desc.stand := by
  have found : ∀ {l m : List Desc}, Desc.AllDrove k l m →
      (m.find? (fun x => x.did = i)).map Desc.stand = (l.find? (fun x => x.did = i)).map Desc.stand := by
    intro l m hlm
    induction hlm with
    | nil => rfl
    | @cons a b l m hab _ ih =>
      rw [List.find?_cons, List.find?_cons, hab.did]
      by_cases ha : a.did = i
      · have hb := hab.others (ha ▸ hk)
        simp only [ha, decide_true, Option.map_some]
        rw [hb]
        rfl
      · simpa only [ha, decide_false] using ih
  exact found h.descs

theorem State.stand_voidBarred (s : State) (i : Nat) : (s.voidBarred.desc? i).map Desc.stand = (s.desc? i).map Desc.stand :=
  (s.voidBarred_drove (i + 1)).stand_other (by omega)

/-! ### Suspension -/

section Suspension

variable {s : State} {f did p : Nat} {d : Desc}

/-- A fold as it suspends descriptor `did`, which it runs where `mine` is set. -/
def Fold.suspend (did : Nat) (why : SuspWhy) (sr : Srow) (mine : Bool) (fo : Fold) : Fold :=
  { fo with running := if mine then none else fo.running, susp := some { did := did, why := why, ready := false }, srow := sr,
            latches := if mine then Latches.clear else fo.latches }

theorem Fold.suspend_idle (did : Nat) (why : SuspWhy) (sr : Srow) {mine : Bool} {fo : Fold}
    (h : mine = true ∨ fo.running = none ∧ fo.latches = Latches.clear) :
    (fo.suspend did why sr mine).running = none ∧ (fo.suspend did why sr mine).latches = Latches.clear := by
  obtain rfl | ⟨hnone, hclear⟩ := h
  · exact ⟨rfl, rfl⟩
  · simp [Fold.suspend, hnone, hclear]

theorem State.suspendOn_eq (hd : s.desc? did = some d) (ha : d.active = true) (why : SuspWhy) :
    s.suspendOn f did why =
      (s.modPair f (Fold.suspend did why (s.srowOf d f) (decide ((s.lfold f).running = some did)))).voidBarred := by
  unfold State.suspendOn
  rw [hd]
  exact if_neg (by simp [ha])

/-- A fold that runs a descriptor, or has let go of it, runs nothing once it has suspended it, with its latches clear. -/
theorem State.fold_suspendOn (hd : s.desc? did = some d) (ha : d.active = true) (hp : s.phys f = some p)
    (hrun : (s.fold p).runsOrLeft did) (why : SuspWhy) {fo : Fold} (hfo : fo = (s.suspendOn f did why).fold p) :
    fo.running = none ∧ fo.susp = some { did := did, why := why, ready := false } ∧ fo.srow = s.srowOf d f ∧
      fo.latches = Latches.clear := by
  have hl : s.lfold f = s.fold p := by rw [State.lfold, hp, Option.getD_some]
  have hmine := hrun.imp_left fun h => decide_eq_true (hl ▸ h : (s.lfold f).running = some did)
  rw [State.suspendOn_eq hd ha] at hfo
  generalize decide ((s.lfold f).running = some did) = mine at hmine hfo
  have honce := Fold.suspend_idle did why (s.srowOf d f) hmine
  have htwice := Fold.suspend_idle did why (s.srowOf d f) (mine := mine) (.inr honce)
  obtain e | e := s.fold_modPair_self hp (Fold.suspend did why (s.srowOf d f) mine)
  · obtain rfl := hfo.trans e
    exact ⟨honce.1, rfl, rfl, honce.2⟩
  · obtain rfl := hfo.trans e
    exact ⟨htwice.1, rfl, rfl, htwice.2⟩

/-- A suspension changes descriptors in their VOID alone. -/
theorem State.suspendOn_drove (why : SuspWhy) (k : Nat) : s.Drove k (s.suspendOn f did why) := by
  unfold State.suspendOn
  split
  · exact .refl k s
  · exact .ite (.refl k s) (((s.modPair_keepsDescs f _).drove k).trans (State.voidBarred_drove _ k))

end Suspension

/-! ### Resumption -/

section Resumption

variable (s : State)

/-- The load of a route changes latches of folds alone, and neither memory. -/
structure State.LoadsRoute (s t : State) : Prop where
  descs : t.descs = s.descs
  mem : ∀ h, t.mem h = s.mem h
  fold : ∀ p, ∃ l, t.fold p = { s.fold p with latches := l }

theorem State.LoadsRoute.refl (s : State) : s.LoadsRoute s := ⟨rfl, fun _ => rfl, fun _ => ⟨_, rfl⟩⟩

theorem State.LoadsRoute.trans {r s t : State} (h : r.LoadsRoute s) (k : s.LoadsRoute t) : r.LoadsRoute t := by
  refine ⟨k.descs.trans h.descs, fun b => (k.mem b).trans (h.mem b), fun p => ?_⟩
  obtain ⟨l, hl⟩ := h.fold p
  obtain ⟨m, hm⟩ := k.fold p
  exact ⟨m, by rw [hm, hl]⟩

theorem State.noteReads_loadsRoute (ws : List Nat) : s.LoadsRoute (s.noteReads ws) := by
  refine ⟨(s.noteReads_keepsDescs ws).descs, fun h => s.mem_noteReads h ws, fun p => ⟨(s.fold p).latches, ?_⟩⟩
  rw [State.fold, (s.noteReads_readOn ws).frame]
  rfl

theorem State.setRoute_loadsRoute (f : Nat) (r : Option (List (Byte × Bool))) :
    s.LoadsRoute (s.modL f (fun fo => { fo with latches := { fo.latches with route := r } })) := by
  refine ⟨(s.modL_keepsDescs f _).descs, fun h => s.mem_modL h f _, fun p => ?_⟩
  refine s.fold_modL_of (P := fun fo => ∃ l, fo = { s.fold p with latches := l }) ?_ f ⟨_, rfl⟩
  rintro _ ⟨l, rfl⟩
  exact ⟨_, rfl⟩

theorem State.loadRoute_loadsRoute (d : Desc) (f : Nat) : s.LoadsRoute (s.loadRoute d f) := by
  have load : ∀ (t : State) (ws : List Nat) (r : Option (List (Byte × Bool))) (g : Nat),
      t.LoadsRoute ((t.noteReads ws).modL g (fun fo => { fo with latches := { fo.latches with route := r } })) := fun t ws r g =>
    (t.noteReads_loadsRoute ws).trans (State.setRoute_loadsRoute _ g r)
  unfold State.loadRoute
  split
  · extract_lets e ld t
    have ht : s.LoadsRoute t := load s _ _ f
    split
    · split
      · exact ht.trans (load t _ _ _)
      · exact ht
    · exact ht
  · exact .refl s

/-- Only a SHUFFLE loads a route. -/
theorem State.loadRoute_of_not_shuffle {d : Desc} (h : d.isOpc .shuffle = false) (f : Nat) : s.loadRoute d f = s := by
  simp [State.loadRoute, h]

/-- A fold as it takes descriptor `did` up again, but for the route of a SHUFFLE. -/
def Fold.takeAgain (did tick : Nat) (fo : Fold) : Fold :=
  { fo with running := some did, susp := none, srow := Srow.blank, latches := Latches.clear, lastTick := tick, logicOn := true,
            landing := fo.landing.filter (fun l => decide (l.did ≠ did)) }

/-- Fold `f` with its shadow as it takes descriptor `did` up again, but for the route of a SHUFFLE. -/
def State.takeAgain (s : State) (f did : Nat) : State :=
  (s.modDesc did (fun d => d.restart f s.tick)).modPair f (Fold.takeAgain did s.tick)

theorem State.resumeOn_cases (f did : Nat) :
    (∃ d, s.desc? did = some d ∧ s.resumeOn f did = (s.takeAgain f did).loadRoute d f) ∨ s.resumeOn f did = s.takeAgain f did := by
  unfold State.resumeOn
  split
  · next d hd => exact .inl ⟨d, hd, rfl⟩
  · exact .inr rfl

theorem State.resumeOn_loadsRoute (f did : Nat) : (s.takeAgain f did).LoadsRoute (s.resumeOn f did) := by
  obtain ⟨d, -, h⟩ | h := s.resumeOn_cases f did
  · exact h ▸ State.loadRoute_loadsRoute _ d f
  · exact h ▸ .refl _

theorem State.resumeOn_of_not_shuffle {f did : Nat} (hno : ∀ d, s.desc? did = some d → d.isOpc .shuffle = false) :
    s.resumeOn f did = s.takeAgain f did := by
  obtain ⟨d, hd, h⟩ | h := s.resumeOn_cases f did
  · exact h.trans (State.loadRoute_of_not_shuffle _ (hno d hd) f)
  · exact h

theorem State.fold_takeAgain {f p : Nat} (hp : s.phys f = some p) (did : Nat) :
    ((s.takeAgain f did).fold p).running = some did ∧ ((s.takeAgain f did).fold p).susp = none ∧
      ((s.takeAgain f did).fold p).srow = Srow.blank ∧ ((s.takeAgain f did).fold p).latches = Latches.clear := by
  obtain e | e := State.fold_modPair_self (s.modDesc did (fun d => d.restart f s.tick)) hp (Fold.takeAgain did s.tick) <;>
    · rw [State.takeAgain, e]
      exact ⟨rfl, rfl, rfl, rfl⟩

theorem State.vregs_takeAgain (f did p : Nat) : ((s.takeAgain f did).fold p).vregs = (s.fold p).vregs :=
  State.fold_modPair_of _ (P := fun fo => fo.vregs = (s.fold p).vregs) (g := Fold.takeAgain did s.tick) (fun _ h => h) f rfl

theorem State.stand_takeAgain (f did i : Nat) : ((s.takeAgain f did).desc? i).map Desc.stand = (s.desc? i).map Desc.stand := by
  rw [State.takeAgain, (State.modPair_keepsDescs _ _ _).desc?, State.desc?_modDesc]
  · split
    · rw [Option.map_map]
      rfl
    · rfl
  · exact fun _ h => h

theorem State.mem_takeAgain (f did : Nat) (h : Bool) : (s.takeAgain f did).mem h = s.mem h :=
  State.mem_modPair _ h f _

end Resumption

/-! ### PREEMPTION_SUSPEND and SUSPENDED_RESUME -/

section Preemption

variable {s : State} {d units : Nat} {fold : BitVec 6} {e b : Desc}

theorem execPreemptionSuspend_next (he : s.desc? d = some e) (hb : s.preemptor fold.toNat = some b)
    (hruns : s.runsOn e fold.toNat = true) (hrank : e.ranked = false) (hsusp : (s.lfold fold.toNat).susp = none)
    (h1 : 1 ≤ units) (h2 : e.at_ fold.toNat ≤ units) (h3 : units < e.unitsOn fold.toNat) {x : Desc}
    (hx : (s.advanceOne d fold.toNat units).desc? d = some x) :
    exec (.preemptionSuspend d fold units) s = .next (if x.at_ fold.toNat = units then
      (s.advanceOne d fold.toNat units).suspendOn fold.toNat d (.preempt b.did) else s.advanceOne d fold.toNat units) := by
  show execPreemptionSuspend d fold units s = _
  simp [execPreemptionSuspend, he, hb, hruns, hrank, hsusp, h1, h2, h3, hx]

/-- A fold that stands at the unit asked for, with no line to be written again, stays there. -/
theorem State.advanceOne_standing {f : Nat} (he : s.desc? d = some e) (hat : e.at_ f = units) (hs : e.stalled = []) :
    s.advanceOne d f units = s := by
  have hwant : ∀ g, ¬ e.at_ g < if g = f then units else e.at_ g := by
    intro g
    split
    · next h => rw [h, hat]; exact Nat.lt_irrefl _
    · exact Nat.lt_irrefl _
  simp [State.advanceOne, State.advance, he, hs, hwant]

theorem State.advanceOne_drove (s : State) (d f units : Nat) : s.Drove d (s.advanceOne d f units) := by
  unfold State.advanceOne
  split
  · exact .refl d s
  · exact s.advance_drove d _

/-- A descriptor brought on one fold to the unit asked for and still in flight. -/
theorem State.advanceOne_inFlight {f p : Nat} {x : Desc} (he : s.desc? d = some e) (hx : (s.advanceOne d f units).desc? d = some x)
    (ha : x.active = true) (hp : (s.fold p).running = some d) :
    x.cells = e.cells ∧ x.stage = e.stage ∧ ((s.advanceOne d f units).fold p).runsOrLeft d := by
  have hone : s.advanceOne d f units = s.advance d (fun g => if g = f then units else e.at_ g) := by
    simp [State.advanceOne, he]
  rw [hone] at hx ⊢
  obtain ⟨x', hx', hcells, hact⟩ := s.advance_goesOrLeaves d (fun g => if g = f then units else e.at_ g) e he
  obtain rfl := Option.some.inj (hx.symm.trans hx')
  obtain ⟨hea, hrun⟩ := hact ha
  refine ⟨hcells, ?_, hrun p hp⟩
  rw [of_decide_eq_true ha, of_decide_eq_true hea]

/-- The physical fold of a fold that runs a descriptor. -/
theorem State.runsOn_phys {f : Nat} (h : s.runsOn e f = true) : ∃ p, s.phys f = some p ∧ (s.fold p).running = some e.did := by
  simp only [State.runsOn, State.present, Bool.and_eq_true, decide_eq_true_eq] at h
  obtain ⟨⟨⟨⟨-, -, hp⟩, hrun⟩, -⟩, -⟩ := h
  obtain ⟨p, hp⟩ := Option.isSome_iff_exists.mp hp
  exact ⟨p, hp, by simpa [State.lfold, hp] using hrun⟩

/-- R163, R164: what a fold that has come to the unit asked for holds once it has suspended its descriptor. -/
theorem State.preempted {f : Nat} {u : State} {x : Desc} (he : s.desc? d = some e) (hruns : s.runsOn e f = true)
    (hu : u = s.advanceOne d f units) (hx : u.desc? d = some x) (ha : x.active = true) {t : State}
    (ht : t = u.suspendOn f d (.preempt b.did)) :
    ∃ y, t.desc? d = some y ∧ y.stage = e.stage ∧ y.cells = e.cells ∧ y.prog = x.prog ∧ (t.lfold f).running = none ∧
      (t.lfold f).susp = some { did := d, why := .preempt b.did, ready := false } ∧ (t.lfold f).srow.susp = true ∧
      (t.lfold f).srow.tag = BitVec.ofNat 32 e.p.tag ∧ (t.lfold f).srow.brand = BitVec.ofNat 16 e.p.brand ∧
      (t.lfold f).latches = Latches.clear ∧
      (∀ i, i ≠ d → (t.desc? i).map Desc.stand = (s.desc? i).map Desc.stand) ∧ s.runFrame t := by
  obtain ⟨p, hp, hrun⟩ := State.runsOn_phys hruns
  rw [State.desc?_did he] at hrun
  have hadvance : s.Ran u := hu ▸ State.advanceOne_ran (.refl s) d f units
  have hframe : s.Ran t := ht ▸ State.suspendOn_ran hadvance f d _
  have hphys : ∀ v, s.Ran v → v.phys f = some p := fun v hv => by rw [State.phys, hv.fmap]; exact hp
  have hlfold : t.lfold f = t.fold p := by rw [State.lfold, hphys t hframe, Option.getD_some]
  obtain ⟨hcells, hstage, hleft⟩ : x.cells = e.cells ∧ x.stage = e.stage ∧ (u.fold p).runsOrLeft d := by
    subst hu
    exact State.advanceOne_inFlight he hx ha hrun
  have hsusp : u.Drove (d + 1) t := ht ▸ State.suspendOn_drove _ _
  obtain ⟨y, hy, hyv⟩ := hsusp.desc?_other (by omega) hx
  obtain ⟨hnone, hheld, hsrow, hlatches⟩ := State.fold_suspendOn hx ha (hphys u hadvance) hleft (.preempt b.did) (congrArg (State.fold · p) ht)
  have hparsed : x.p = e.p := by rw [Desc.p, hcells, Desc.p]
  rw [hlfold, hsrow, ← hparsed]
  refine ⟨y, hy, ?_, ?_, ?_, hnone, hheld, rfl, rfl, rfl, hlatches, fun i hi => ?_, hframe.frame⟩
  · rw [hyv]; exact hstage
  · rw [hyv]; exact hcells
  · rw [hyv]
  · have hd : s.Drove d t := (hu ▸ s.advanceOne_drove d f units : s.Drove d u).trans (ht ▸ State.suspendOn_drove _ _)
    exact hd.stand_other hi

end Preemption

section SuspendedResume

variable {s : State} {fold : BitVec 6} {u : Susp}

theorem execSuspendedResume_next (hu : (s.lfold fold.toNat).susp = some u) (hl : s.live = true) (hq : s.pause.req = false)
    (hp : s.pause.paused = false) (hf : s.present fold.toNat = true) (hn : (s.lfold fold.toNat).running = none)
    (hr : s.suspReady u = true) : exec (.suspendedResume fold) s = .next (s.voidBarred.resumeOn fold.toNat u.did) := by
  show execSuspendedResume fold s = _
  simp [execSuspendedResume, hu, hl, hq, hp, hf, hn, hr]

/-- A suspended descriptor that may not resume yet stays suspended. -/
theorem execSuspendedResume_stays (hu : (s.lfold fold.toNat).susp = some u)
    (h : s.suspReady u = false ∨ (s.lfold fold.toNat).running ≠ none) : exec (.suspendedResume fold) s = .next s := by
  show execSuspendedResume fold s = _
  obtain h | h := h
  · simp [execSuspendedResume, hu, h]
  · have hrun : (s.lfold fold.toNat).running.isNone = false := by rwa [Option.isNone_eq_false_iff, Option.isSome_iff_ne_none]
    simp [execSuspendedResume, hu, hrun]

/-- R163, R165: what a fold holds that has taken its suspended descriptor up again, and what stays. -/
theorem State.resumed {f did : Nat} (hf : s.present f = true) {t : State} (ht : t = s.voidBarred.resumeOn f did) :
    (t.lfold f).running = some did ∧ (t.lfold f).susp = none ∧ (t.lfold f).srow = Srow.blank ∧
      ((∀ e, s.desc? did = some e → e.isOpc .shuffle = false) → (t.lfold f).latches = Latches.clear) ∧
      (∀ p, (t.fold p).vregs = (s.fold p).vregs) ∧
      (∀ i, (t.desc? i).map Desc.stand = (s.desc? i).map Desc.stand) ∧ t.host = s.host ∧ t.past = s.past ∧ s.runFrame t := by
  obtain ⟨p, hp⟩ : ∃ p, s.phys f = some p := Option.isSome_iff_exists.mp ((Bool.and_eq_true _ _).mp hf).2
  have hframe : s.Ran t := ht ▸ State.resumeOn_ran (State.voidBarred_ran (.refl s)) f did
  have hlfold : t.lfold f = t.fold p := by rw [State.lfold, State.phys, hframe.fmap, ← State.phys, hp, Option.getD_some]
  have hload : (s.voidBarred.takeAgain f did).LoadsRoute t := ht ▸ s.voidBarred.resumeOn_loadsRoute f did
  obtain ⟨hrun, hsusp, hsrow, hlatches⟩ := s.voidBarred.fold_takeAgain (f := f) (p := p) hp did
  have hmem : ∀ h, t.mem h = s.mem h := fun h => (hload.mem h).trans (s.voidBarred.mem_takeAgain f did h)
  obtain ⟨l, hl⟩ := hload.fold p
  refine ⟨?_, ?_, ?_, fun hno => ?_, fun q => ?_, fun i => ?_, hmem true, hmem false, hframe.frame⟩
  · rw [hlfold, hl]; exact hrun
  · rw [hlfold, hl]; exact hsusp
  · rw [hlfold, hl]; exact hsrow
  · rw [hlfold, ht, State.resumeOn_of_not_shuffle, hlatches]
    intro e he
    have hs := s.stand_voidBarred did
    rw [he] at hs
    obtain ⟨e', he', hstand⟩ := Option.map_eq_some_iff.mp hs.symm
    have hcells : e'.cells = e.cells := congrArg Prod.fst hstand
    rw [Desc.isOpc, Desc.p, ← hcells]
    exact hno e' he'
  · obtain ⟨m, hm⟩ := hload.fold q
    rw [hm]
    exact s.voidBarred.vregs_takeAgain f did q
  · have hdesc : t.desc? i = (s.voidBarred.takeAgain f did).desc? i := by
      rw [State.desc?, hload.descs, State.desc?]
    rw [hdesc, State.stand_takeAgain, State.stand_voidBarred]

end SuspendedResume

/-- Settles O42: an execution that leaves its descriptor in flight leaves it on the folds that ran it, which the suspension then
clears; a resumption changes the fold's own record alone. -/
theorem preemptionSuspendsAndResumes : Obligations.PreemptionSuspendsAndResumes := by
  unfold Obligations.PreemptionSuspendsAndResumes
  refine ⟨fun s u d units fold e b x he hb hruns hrank hsusp h1 h2 h3 hu hx => ?_, fun s fold u hu => ⟨?_, ?_⟩⟩
  · have hnext := execPreemptionSuspend_next he hb hruns hrank hsusp h1 h2 h3 (hu ▸ hx)
    rw [← hu] at hnext
    refine ⟨fun hat hs => hu.trans (State.advanceOne_standing he hat hs), fun hat => ?_, fun hat ha => ?_⟩
    · rw [hnext, if_neg hat]
    · rw [if_pos hat] at hnext
      exact ⟨_, (State.preempted he hruns hu hx ha rfl).imp fun y hy => ⟨hnext, hy⟩⟩
  · intro hl hq hp hf hn hr
    exact ⟨_, execSuspendedResume_next hu hl hq hp hf hn hr, State.resumed hf rfl⟩
  · exact execSuspendedResume_stays hu

end Sys2Proof.Machine
end

section
/-!
SUPPORT. Ring transfers (09_streaming.md R250, R252, R253, R376): what the arrival of a transfer's beats leaves alone, when a
transfer stands first in its queues, and the statement on RING_TRANSFER_START.
-/
namespace Sys2Proof.Machine

/-- A live state stays live along an execution. -/
theorem State.Ran.live {s t : State} (h : s.Ran t) : t.live = s.live := by
  rw [State.live, State.up, h.pins_]
  rfl

/-! ### Writing memory -/

section Stores

variable (s : State)

/-- `t` is `s` but for the two memories, their error state and the corrections counted. -/
def State.Stores (s t : State) : Prop :=
  t = { s with host := t.host, poison := t.poison, past := t.past, raddle := t.raddle, ecc := t.ecc, handed := t.handed,
               cnt := t.cnt, tally := t.tally }

theorem State.Stores.trans {r s t : State} (h : r.Stores s) (k : s.Stores t) : r.Stores t := by
  unfold State.Stores at *
  rw [k, h]

theorem State.Stores.foldl {α : Type} {f : State → α → State} (hf : ∀ (s : State) (a : α), s.Stores (f s a)) :
    ∀ (l : List α) (s : State), s.Stores (l.foldl f s)
  | [], _ => rfl
  | a :: l, s => (hf s a).trans (State.Stores.foldl hf l (f s a))

theorem State.Stores.xfers {s t : State} (h : s.Stores t) : t.xfers = s.xfers := by rw [h]

theorem State.Stores.folds {s t : State} (h : s.Stores t) : t.folds = s.folds := by rw [h]

theorem State.corrected_stores : s.Stores s.corrected := by
  unfold State.corrected State.bumpFault
  split <;> rfl

theorem State.hand_stores (w : Nat) : s.Stores (s.hand w) := by
  unfold State.hand
  split <;> rfl

theorem State.mergeWord_stores (ps : List Piece) (w : Nat) : s.Stores (s.mergeWord ps w) := by
  unfold State.mergeWord
  split
  · rfl
  · extract_lets full s1 keep
    have h1 : s.Stores s1 := rfl
    split
    · exact h1
    · split
      · exact h1.trans s1.corrected_stores
      · exact State.Stores.trans (s := { s1 with raddle := ssetAll false s1.raddle keep }) rfl (State.hand_stores _ w)

theorem State.poisonLine_stores (ps : List Piece) (l : Nat) : s.Stores (s.poisonLine ps l) := by
  unfold State.poisonLine
  dsimp only
  split
  · rfl
  · split <;> rfl

theorem State.putPiece_stores (p : Piece) : s.Stores (s.putPiece p) := by
  unfold State.putPiece
  split <;> rfl

theorem State.putAll_stores (ps : List Piece) : s.Stores (s.putAll ps) := by
  unfold State.putAll
  extract_lets words s1 s2
  have h1 : s.Stores s1 := .foldl (fun t w => t.mergeWord_stores ps w) _ _
  have h2 : s1.Stores s2 := .foldl (fun t l => t.poisonLine_stores ps l) _ _
  exact (h1.trans h2).trans (.foldl State.putPiece_stores _ _)

@[simp] theorem State.putAll_nil : s.putAll [] = s := by
  simp [State.putAll, hostLines, dedup]

@[simp] theorem State.mirror_nil : s.mirror [] = [] := by
  unfold State.mirror
  refine List.flatMap_eq_nil_iff.mpr fun w _ => ?_
  split <;> rfl

end Stores

/-! ### Waking folds -/

section Wakes

variable (s : State)

/-- `t` is `s` but for folds, whose registers stay. -/
structure State.Wakes (s t : State) : Prop where
  frame : t = { s with folds := t.folds }
  vregs : ∀ p, (t.fold p).vregs = (s.fold p).vregs

theorem State.Wakes.trans {r s t : State} (h : r.Wakes s) (k : s.Wakes t) : r.Wakes t := by
  refine ⟨?_, fun p => (k.vregs p).trans (h.vregs p)⟩
  rw [k.frame, h.frame]

theorem State.modL_frame (f : Nat) (g : Fold → Fold) : s.modL f g = { s with folds := (s.modL f g).folds } := by
  unfold State.modL
  split <;> rfl

theorem State.modPair_frame (f : Nat) (g : Fold → Fold) : s.modPair f g = { s with folds := (s.modPair f g).folds } := by
  unfold State.modPair
  extract_lets t
  have ht : t = { s with folds := t.folds } := s.modL_frame f g
  split
  · rw [State.modL_frame, ht]
  · exact ht

theorem State.wake_wakes : ∀ (fs : List Nat) (s : State), s.Wakes (s.wake fs)
  | [], _ => ⟨rfl, fun _ => rfl⟩
  | f :: fs, s => by
    refine State.Wakes.trans ⟨s.modPair_frame f _, fun p => ?_⟩ (State.wake_wakes fs _)
    exact s.fold_modPair_of (P := fun fo => fo.vregs = (s.fold p).vregs) (by exact fun _ h => h) f rfl

end Wakes

/-! ### Queues -/

section Queues

variable {s : State} {x : Transfer}

/-- A transfer put into the list replaces its own entry alone. -/
theorem State.mem_putXfer {z : Transfer} (hz : ¬(z.did = x.did ∧ z.index = x.index)) : z ∈ (s.putXfer x).xfers ↔ z ∈ s.xfers := by
  have hne : z ≠ x := fun h => hz ⟨by rw [h], by rw [h]⟩
  simp only [State.putXfer, List.mem_append, List.mem_filter, List.mem_singleton, hne, or_false, hz, decide_false, Bool.not_false,
    and_true]

theorem State.mem_putXfer_self : x ∈ (s.putXfer x).xfers := List.mem_append_right _ (List.mem_singleton.mpr rfl)

/-- R250: a transfer stands first where every other one that needs a resource of its has done with it or comes later. -/
theorem State.ringFree_iff : s.ringFree x = true ↔ ∀ z ∈ s.xfers, ¬(z.did = x.did ∧ z.index = x.index) → s.shareRing x z = true →
    (∃ w, z.until_ = some w ∧ w ≤ s.tick) ∨ (z.until_ = none ∧ x.before z = true) := by
  simp only [State.ringFree, List.all_eq_true, List.mem_filter, Bool.not_eq_true', decide_eq_false_iff_not, Bool.or_eq_true, and_imp]
  refine forall₃_congr fun z _ _ => ?_
  cases z.until_ <;> cases s.shareRing x z <;> simp

/-- R250, R376: what a transfer that stands first in its queues leaves. -/
theorem State.sendLeg_acquires (hfree : s.ringFree x = true) (d : Desc) (len : Nat) {t : State} (ht : t = s.sendLeg d x len) :
    t.xfers = (s.putXfer { x with until_ := some (s.tick + len) }).xfers ∧ (∀ p, (t.fold p).vregs = (s.fold p).vregs) ∧
      (d.isOpc .tprod = false → t.host = s.host ∧ t.past = s.past ∧ t.raddle = s.raddle) := by
  unfold State.sendLeg at ht
  rw [if_pos hfree] at ht
  extract_lets ps at ht
  have hstores := s.putAll_stores (ps ++ s.mirror ps)
  generalize hx : { x with until_ := some (s.tick + len) } = y at ht ⊢
  have hwakes := State.wake_wakes [x.src, x.dst] ((s.putAll (ps ++ s.mirror ps)).putXfer y)
  rw [← ht] at hwakes
  refine ⟨?_, fun p => ?_, fun hopc => ?_⟩
  · rw [hwakes.frame, State.putXfer, State.putXfer, hstores.xfers]
  · rw [hwakes.vregs p]
    exact congrArg (fun m => (sget Fold.blank m p).vregs) hstores.folds
  · have hnone : s.putAll (ps ++ s.mirror ps) = s := by simp [ps, hopc]
    rw [hnone] at hwakes
    rw [hwakes.frame]
    exact ⟨rfl, rfl, rfl⟩

theorem State.sendLeg_queues (hfree : s.ringFree x = false) (hx : x.until_ = none) (d : Desc) (len : Nat) :
    s.sendLeg d x len = s.putXfer x := by
  have hsame : { x with until_ := none } = x := by rw [← hx]
  rw [State.sendLeg, if_neg (by simp [hfree]), hsame]

end Queues

/-! ### RING_TRANSFER_START -/

section RingTransferStart

variable {s : State} {d i : Nat} {e : Desc} {x : Transfer}

theorem execRingTransferStart_next (hl : s.live = true) (he : (s.ensure d).desc? d = some e) (ha : e.active = true)
    (hb : e.begun = true) : exec (.ringTransferStart d i) s = .next ((s.ensure d).startLeg e i false) := by
  have hlive : (s.ensure d).live = true := (State.ensure_ran (.refl s) d).live.trans hl
  show execRingTransferStart d i s = _
  simp [execRingTransferStart, hl, he, hlive, ha, hb]

theorem State.startLeg_due (hx : s.transfer e i = some x) (hnone : x.until_ = none) (hdue : s.legDue e i = true) :
    s.startLeg e i false = s.sendLeg e x (s.legTicks x) := by
  simp [State.startLeg, hx, hnone, hdue]

theorem State.startLeg_not_due (hx : s.transfer e i = some x) (h : x.until_ ≠ none ∨ s.legDue e i = false) (pass : Bool) :
    s.startLeg e i pass = s := by
  have hno : (x.until_.isNone && s.legDue e i) = false := by
    obtain h | h := h
    · simp [h]
    · simp [h]
  simp [State.startLeg, hx, hno]

end RingTransferStart

/-- Settles O44: a transfer that stands first in its queues changes memory and folds as the arrival of its beats does, and the
list in its own entry alone; one that does not changes that entry alone. -/
theorem ringTransfersTakeAllOrWait : Obligations.RingTransfersTakeAllOrWait := by
  unfold Obligations.RingTransfersTakeAllOrWait
  intro s u d i e x hl hu he ha hb hx
  have hnext : exec (.ringTransferStart d i) s = .next (u.startLeg e i false) := by
    subst hu
    exact execRingTransferStart_next hl he ha hb
  refine ⟨fun hnone hdue => ⟨fun hfirst => ?_, ?_⟩, fun hstays => ?_⟩
  · have hstart := State.startLeg_due hx hnone hdue
    obtain ⟨hxfers, hvregs, hmem⟩ := State.sendLeg_acquires (State.ringFree_iff.mpr hfirst) e (u.legTicks x) hstart
    refine ⟨_, hnext, ?_, fun z hz => ?_, fun p => ⟨hvregs p, u.startLeg_keepsRunning e i false p⟩, hmem,
      (State.startLeg_ran (.refl u) e i false).frame⟩
    · rw [hxfers]
      exact State.mem_putXfer_self
    · rw [hxfers]
      exact State.mem_putXfer hz
  · rintro ⟨z, hz, hother, hshare, hblocks⟩
    have hfree : u.ringFree x = false := by
      refine Bool.eq_false_iff.mpr fun hfree => ?_
      obtain ⟨w, hw, hle⟩ | ⟨hw, hbefore⟩ := State.ringFree_iff.mp hfree z hz hother hshare
      · simp [hw, Nat.not_lt.mpr hle] at hblocks
      · simp [hw, hbefore] at hblocks
    rw [State.startLeg_due hx hnone hdue, State.sendLeg_queues hfree hnone] at hnext
    exact ⟨_, hnext, State.mem_putXfer_self, fun _ => State.mem_putXfer, rfl⟩
  · rw [hnext, State.startLeg_not_due hx hstays]

end Sys2Proof.Machine
end

section
/-!
SUPPORT. Grants of the crook (09_streaming.md R239, R240, R243 to R247, R258, R264): what the issue of one line changes in the
descriptor, its pen, the ports and the requests that wait, and the statement on CROOK_GRANT.
-/
namespace Sys2Proof.Machine

/-! ### The ID of a line -/

section LineId

variable {s w : State} {d : Desc} {line port id : Nat} {write : Bool}

theorem State.modDesc_same (s : State) (i : Nat) : s.modDesc i (fun e => e) = s := by
  simp [State.modDesc]

theorem State.takeId_state {x : Nat × State} (h : s.takeId port = some x) : x.2 = { s with freeCtr := s.freeCtr + 1 } := by
  unfold State.takeId at h
  dsimp only at h
  split at h
  · cases h
  · obtain rfl := Option.some.inj h
    rfl

/-- R247: the port of a line that is given an ID. -/
theorem State.lineId_port (h : s.lineId d line write = some (port, id, w)) : port = d.linePort line write := by
  unfold State.lineId at h
  dsimp only at h
  split at h
  · split at h
    · cases h; rfl
    · cases h
  · obtain ⟨x, -, hx⟩ := Option.map_eq_some_iff.mp h
    cases hx; rfl
  · obtain ⟨x, -, hx⟩ := Option.map_eq_some_iff.mp h
    cases hx; rfl

/-- R247, R258: an ID taken for a line changes nothing but the free choices and what an ORDERED descriptor holds of its port. -/
theorem State.lineId_state (h : s.lineId d line write = some (port, id, w)) :
    ∃ n g, (∀ e : Desc, g e = { e with ordPort := (g e).ordPort, ordId := (g e).ordId }) ∧
      w = { s.modDesc d.did g with freeCtr := n } := by
  have keeps : ∀ n, ({ s with freeCtr := n } : State) = { s.modDesc d.did (fun e => e) with freeCtr := n } := fun n => by
    rw [s.modDesc_same]
  unfold State.lineId at h
  dsimp only at h
  split at h
  · split at h
    · cases h
      exact ⟨s.freeCtr, fun e => e, fun _ => rfl, keeps s.freeCtr⟩
    · cases h
  · obtain ⟨x, hx, he⟩ := Option.map_eq_some_iff.mp h
    obtain ⟨-, he⟩ := Prod.mk.inj he
    obtain ⟨-, rfl⟩ := Prod.mk.inj he
    refine ⟨s.freeCtr + 1, fun e => { e with ordPort := some (d.linePort line write), ordId := some x.1 }, fun _ => rfl, ?_⟩
    rw [State.takeId_state hx]
    rfl
  · obtain ⟨x, hx, he⟩ := Option.map_eq_some_iff.mp h
    obtain ⟨-, he⟩ := Prod.mk.inj he
    obtain ⟨-, rfl⟩ := Prod.mk.inj he
    exact ⟨s.freeCtr + 1, fun e => e, fun _ => rfl, (State.takeId_state hx).trans (keeps _)⟩

end LineId

/-! ### One line paid for and issued -/

section IssuedLine

variable {s w : State} {d : Desc} {f p v port id : Nat} {write : Bool} {h : HLine} {bs : List Batch}
  {beat : BitVec 512 × BitVec 64 × Bool}

/-- R243, R244: one line is paid from the entitlement where it has bytes left, with tokens else. -/
theorem State.payLines_one (s : State) (d : Desc) : s.payLines d 1 =
    if (s.grants d).1 = 0 then
      (s.modDesc d.did (fun e => { e with issued := e.issued + 64 })).modPen d.pen
        (fun pn => { pn with tokens := s.bucket d.pen - 64, tokTick := s.tick })
    else s.modDesc d.did (fun e => { e with issued := e.issued + 64 }) := by
  by_cases hz : (s.grants d).1 = 0
  · simp [State.payLines, hz]
  · have hmin : Nat.min 1 (s.grants d).1 = 1 := Nat.min_eq_left (by omega)
    simp [State.payLines, hz, hmin]

/-- `t` is `s` with one line of `d` given an ID and paid for. -/
structure State.Pays (s : State) (d : Desc) (t : State) : Prop where
  frame : t = { s with descs := t.descs, pens := t.pens, freeCtr := t.freeCtr }
  desc : ∃ x, t.desc? d.did = some x ∧ x.issued = d.issued + 64 ∧ x.cells = d.cells ∧ x.stage = d.stage ∧ x.prog = d.prog
  others : ∀ i, i ≠ d.did → t.desc? i = s.desc? i
  tokens : (t.pen d.pen).tokens = if (s.grants d).1 = 0 then s.bucket d.pen - 64 else (s.pen d.pen).tokens
  pens_ : ∀ q, q ≠ d.pen → t.pen q = s.pen q

/-- The payment of a line, from a state that differs in its descriptors and the free choices alone. -/
theorem State.payLines_one_pen (q : Nat) (g : Desc → Desc) (n : Nat) :
    (State.payLines { s.modDesc d.did g with freeCtr := n } d 1).pen q =
      if q = d.pen ∧ (s.grants d).1 = 0 then { s.pen q with tokens := s.bucket q - 64, tokTick := s.tick } else s.pen q := by
  have hgrants : (State.grants { s.modDesc d.did g with freeCtr := n } d).1 = (s.grants d).1 := rfl
  rw [State.payLines_one, hgrants]
  by_cases hz : (s.grants d).1 = 0
  · rw [if_pos hz, State.pen_modPen]
    by_cases hq : q = d.pen
    · subst hq
      rw [if_pos rfl, if_pos ⟨rfl, hz⟩]
      rfl
    · rw [if_neg hq, if_neg (fun c => hq c.1)]
      rfl
  · rw [if_neg hz, if_neg (fun c => hz c.2)]
    rfl

theorem State.desc?_payLines_one (s : State) (d : Desc) (i : Nat) : (s.payLines d 1).desc? i =
    if i = d.did then (s.desc? i).map (fun e => { e with issued := e.issued + 64 }) else s.desc? i := by
  rw [← State.desc?_modDesc s d.did i _ (by exact fun _ hd => hd), State.payLines_one]
  split <;> rfl

theorem State.payLines_one_frame (s : State) (d : Desc) :
    s.payLines d 1 = { s with descs := (s.payLines d 1).descs, pens := (s.payLines d 1).pens } := by
  rw [State.payLines_one]
  split <;> rfl

theorem State.lineId_pays {line : Nat} (hd : s.desc? d.did = some d) (hid : s.lineId d line write = some (port, id, w)) :
    s.Pays d (w.payLines d 1) := by
  obtain ⟨n, g, hg, rfl⟩ := State.lineId_state hid
  have hdesc : ∀ i, State.desc? { s.modDesc d.did g with freeCtr := n } i = if i = d.did then (s.desc? i).map g else s.desc? i := fun i =>
    s.desc?_modDesc d.did i g (fun e he => by rw [hg e]; exact he)
  refine ⟨?_, ⟨{ g d with issued := (g d).issued + 64 }, ?_, ?_⟩, fun i hi => ?_, ?_, fun q hq => ?_⟩
  · rw [State.payLines_one_frame]
    rfl
  · rw [State.desc?_payLines_one, hdesc, if_pos rfl, if_pos rfl, hd]
    rfl
  · rw [hg d]
    exact ⟨rfl, rfl, rfl, rfl⟩
  · rw [State.desc?_payLines_one, hdesc, if_neg hi, if_neg hi]
  · rw [State.payLines_one_pen]
    by_cases hz : (s.grants d).1 = 0
    · simp [hz]
    · simp [hz]
  · rw [State.payLines_one_pen, if_neg (fun c => hq c.1)]

/-- `t` is `s` but for descriptors, folds, pens, the ports with what leaves on them, requests that wait and free choices. -/
def State.Streams (s t : State) : Prop :=
  t = { s with ports := t.ports, descs := t.descs, folds := t.folds, pens := t.pens, freeCtr := t.freeCtr, snOut := t.snOut,
               waiting := t.waiting }

theorem State.Streams.trans {r s t : State} (h : r.Streams s) (k : s.Streams t) : r.Streams t := by
  unfold State.Streams at *
  rw [k, h]

theorem State.noWait_streams (s : State) (i f : Nat) : s.Streams (s.noWait i f) := rfl

theorem State.modFold_streams (s : State) (p : Nat) (g : Fold → Fold) : s.Streams (s.modFold p g) := rfl

theorem State.modDesc_streams (s : State) (i : Nat) (g : Desc → Desc) : s.Streams (s.modDesc i g) := rfl

theorem State.issueTxn_streams (s : State) (o : Owner) (v : Nat) (r : SnReq) : s.Streams (s.issueTxn o v r) := rfl

/-- What a descriptor notes of a line that its fold issues, besides the bytes. -/
def Desc.lineSent (f u line : Nat) (write : Bool) (e : Desc) : Desc :=
  if write then e.issuedWrite f u line else e.bumpSent f u false 1

theorem Desc.lineSent_keeps (f u line : Nat) (write : Bool) (e : Desc) :
    (e.lineSent f u line write).did = e.did ∧ (e.lineSent f u line write).issued = e.issued ∧
      (e.lineSent f u line write).cells = e.cells ∧ (e.lineSent f u line write).stage = e.stage ∧
      (e.lineSent f u line write).prog = e.prog := by
  unfold Desc.lineSent
  split
  · unfold Desc.issuedWrite
    split <;> exact ⟨rfl, rfl, rfl, rfl, rfl⟩
  · exact ⟨rfl, rfl, rfl, rfl, rfl⟩

theorem State.issueHost_eq (hid : s.lineId d h.line write = some (port, id, w)) :
    s.issueHost d f p v write h beat bs =
      ((((w.payLines d 1).noWait d.did f).modFold p (fun fo => { fo with batches := bs })).modDesc d.did
        (Desc.lineSent f v h.line write)).issueTxn (.drover p d.did) v (s.hostReq d port id write h beat) := by
  rw [State.issueHost, hid]
  rfl

/-- R239, R243 to R247, R258, R264: what the issue of one line changes. -/
theorem State.issueHost_issues (hd : s.desc? d.did = some d) (hid : s.lineId d h.line write = some (port, id, w)) {r : SnReq}
    (hr : r = s.hostReq d port id write h beat) {t : State} (ht : t = s.issueHost d f p v write h beat bs) :
    (∃ x, t.desc? d.did = some x ∧ x.issued = d.issued + 64 ∧ x.cells = d.cells ∧ x.stage = d.stage ∧ x.prog = d.prog) ∧
      (∀ i, i ≠ d.did → t.desc? i = s.desc? i) ∧ t.snOut = s.snOut ++ [r] ∧
      t.ports.txns = s.ports.txns ++ [{ port := port, id := id, write := write, line := h.line, owner := .drover p d.did, unit := v,
                                        req := r, qos := r.qos, aged := 0, arrival := s.tick,
                                        limit := s.tick + s.cfg.snTmo.toNat, retryAt := none }] ∧
      (t.fold p).batches = bs ∧
      (t.pen d.pen).tokens = (if (s.grants d).1 = 0 then s.bucket d.pen - 64 else (s.pen d.pen).tokens) ∧
      (∀ q, q ≠ d.pen → t.pen q = s.pen q) ∧ (∀ y ∈ t.waiting, ¬(y.did = d.did ∧ y.fold = f)) ∧
      s.Streams t := by
  obtain ⟨hframe, ⟨x, hx, hissued, hcells, hstage, hprog⟩, hothers, htokens, hpens_⟩ := State.lineId_pays hd hid
  rw [State.issueHost_eq hid, ← hr] at ht
  generalize w.payLines d 1 = y at *
  have hsent := Desc.lineSent_keeps f v h.line write
  have hdescs : t.descs = (y.modDesc d.did (Desc.lineSent f v h.line write)).descs := by rw [ht]; rfl
  have hpens : t.pens = y.pens := by simp [ht]
  have hfold : t.fold p = ((y.noWait d.did f).modFold p (fun fo => { fo with batches := bs })).fold p := by simp [State.fold, ht]
  have hwaiting : t.waiting = y.waiting.filter (fun w => !(decide (w.did = d.did ∧ w.fold = f))) := by rw [ht]; rfl
  have hdesc : ∀ i, t.desc? i = if i = d.did then (y.desc? i).map (Desc.lineSent f v h.line write) else y.desc? i := fun i => by
    rw [State.desc?, hdescs, ← State.desc?]
    exact y.desc?_modDesc d.did i _ (fun e he => (hsent e).1.trans he)
  refine ⟨⟨x.lineSent f v h.line write, ?_, ?_⟩, fun i hi => ?_, ?_, ?_, ?_, ?_, fun q hq => ?_, ?_, ?_⟩
  · rw [hdesc, if_pos rfl, hx]
    rfl
  · obtain ⟨-, sissued, scells, sstage, sprog⟩ := hsent x
    exact ⟨sissued.trans hissued, scells.trans hcells, sstage.trans hstage, sprog.trans hprog⟩
  · rw [hdesc, if_neg hi, hothers i hi]
  · rw [ht, hframe]; rfl
  · rw [ht, hframe, hr]; rfl
  · rw [hfold, State.fold_modFold, if_pos rfl]
  · rw [State.pen, hpens, ← State.pen, htokens]
  · rw [State.pen, hpens, ← State.pen, hpens_ q hq]
  · intro z hz
    obtain ⟨-, hother⟩ := List.mem_filter.mp (hwaiting ▸ hz)
    simpa only [Bool.not_eq_true', decide_eq_false_iff_not] using hother
  · have hpays : s.Streams y := by
      unfold State.Streams
      rw [hframe]
    rw [ht]
    exact (((hpays.trans (y.noWait_streams _ _)).trans (State.modFold_streams _ _ _)).trans (State.modDesc_streams _ _ _)).trans
      (State.issueTxn_streams _ _ _ _)

end IssuedLine

/-! ### One request granted -/

section Grant

variable {s : State} {d : Desc} {f p v line : Nat} {write : Bool} {h : HLine} {bs : List Batch} {beat : BitVec 512 × BitVec 64 × Bool}

/-- R246, R247, R264: the request of a host line. -/
theorem State.hostReq_eq (s : State) (d : Desc) (port id : Nat) (write : Bool) (h : HLine) (beat : BitVec 512 × BitVec 64 × Bool) :
    s.hostReq d port id write h beat =
      { port := port, write := write, id := id, line := h.line, sid := s.cfg.smmuSid,
        qos := (if d.bounded = true ∧ (s.pen d.pen).rsv = true then 15 else Nat.min 14 (s.pen d.pen).ent.qos),
        noalloc := h.noalloc, msg := false, data := beat.1, strb := beat.2.1, poison := beat.2.2 } := by
  simp only [State.hostReq, State.lineQos, Bool.and_eq_true]

/-- R247: only the writes of an ORDERED descriptor leave the port of their line. -/
theorem Desc.linePort_eq (h : write = false ∨ d.p.ordered = false) : d.linePort line write = snPort line := by
  obtain h | h := h
  · simp [Desc.linePort, h]
  · simp [Desc.linePort, h]

/-- R245: the request of a fold waits from the tick at which it was made. -/
theorem State.waitFor_waits (s : State) (i f : Nat) :
    (∃ y ∈ (s.waitFor i f).waiting, y.did = i ∧ y.fold = f ∧ y.tick = s.askedAt i f) ∧
      s.waitFor i f = { s with waiting := (s.waitFor i f).waiting } := by
  unfold State.waitFor State.askedAt
  cases hfind : s.waiting.find? (fun w => decide (w.did = i ∧ w.fold = f)) with
  | none =>
    have hno : s.waiting.any (fun w => decide (w.did = i ∧ w.fold = f)) = false := by
      rw [← Bool.not_eq_true, List.any_eq_true]
      rintro ⟨w, hw, hwf⟩
      exact List.find?_eq_none.mp hfind w hw hwf
    rw [hno]
    exact ⟨⟨_, List.mem_append_right _ (List.mem_singleton.mpr rfl), rfl, rfl, rfl⟩, rfl⟩
  | some w =>
    have hw : w.did = i ∧ w.fold = f := of_decide_eq_true (List.find?_some hfind :)
    have hmem : w ∈ s.waiting := List.mem_of_find?_eq_some hfind
    have hany : s.waiting.any (fun w => decide (w.did = i ∧ w.fold = f)) = true :=
      List.any_eq_true.mpr ⟨w, hmem, decide_eq_true hw⟩
    rw [hany]
    exact ⟨⟨w, hmem, hw.1, hw.2, rfl⟩, rfl⟩

/-- R239, R245: a request that its batch, its port and the folds before it let through is issued where bytes are left, and waits
where none are. -/
theorem State.grantOne_eq (hbs : s.batchFor p d.did v (d.linePort h.line write) write = some bs) (hopen : s.portOpen d h.line write = true)
    (hfirst : s.firstAsking d f = true) : s.grantOne d f p v write h beat =
      if (s.grants d).1 + (s.grants d).2 = 0 then s.waitFor d.did f else s.issueHost d f p v write h beat bs := by
  simp [State.grantOne, hbs, hopen, hfirst]

/-- The line that comes next in the order of fold `f`, a write that it runs or a read that it may ask for. -/
def State.NextLine (s : State) (d : Desc) (f p v : Nat) (write : Bool) (h : HLine) (beat : BitVec 512 × BitVec 64 × Bool) : Prop :=
  if write then s.nextWrite d f p = some (v, h, beat) ∧ s.runsOn d f = true
  else s.nextRead d f = some (v, h) ∧ beat = (0, 0, false) ∧ s.mayFetchAhead d f = true ∧ s.mayRead d f p v h = true ∧
    s.landingUsed p < 64

/-- The grant of a line of either direction. -/
def State.grantLine (s : State) (d : Desc) (f p line : Nat) (write : Bool) : State :=
  if write then s.grantWrite d f p line else s.grantRead d f p line

/-- R240: no line is granted but the next one. -/
theorem State.grantLine_eq (hnext : s.NextLine d f p v write h beat) :
    s.grantLine d f p line write = if h.line = line then s.grantOne d f p v write h beat else s := by
  unfold State.NextLine at hnext
  unfold State.grantLine
  cases write with
  | true =>
    rw [if_pos rfl] at hnext
    obtain ⟨hline, hruns⟩ := hnext
    simp [State.grantWrite, hline, hruns]
  | false =>
    rw [if_neg Bool.false_ne_true] at hnext
    obtain ⟨hline, hbeat, hahead, hmay, hroom⟩ := hnext
    simp only [State.grantRead, Bool.false_eq_true, if_false, hline, hbeat, hahead, hmay, hroom, decide_true, Bool.and_true, decide_eq_true_eq]

end Grant

/-! ### CROOK_GRANT -/

section CrookGrant

variable {s u : State} {d p v : Nat} {fold : BitVec 6} {line : BitVec 42} {write : Bool} {e : Desc}

theorem State.comeOn_ran {r s : State} (h : r.Ran s) (d f : Nat) : r.Ran (s.comeOn d f) := by
  unfold State.comeOn
  split
  · split
    · exact State.Ran.upd (State.advanceOne_ran h d f _) rfl rfl rfl
    · exact h
  · exact h

/-- A fold that has a line of its unit in progress to ask for commits nothing first. -/
theorem State.comeOn_standing {f : Nat} (he : s.desc? d = some e) (hp : s.phys f = some p) (hat : s.cameTo e f p ≤ e.at_ f) :
    s.comeOn d f = s := by
  simp [State.comeOn, he, hp, Nat.not_lt.mpr hat]

theorem execCrookGrant_next (hl : s.live = true) (hpause : s.pause.paused = false) (hu : u = (s.ensure d).comeOn d fold.toNat)
    (he : u.desc? d = some e) (hp : u.phys fold.toNat = some p) (ha : e.active = true) :
    exec (.crookGrant d fold line write) s = .next (u.grantLine e fold.toNat p line.toNat write) := by
  have hran : s.Ran u := hu ▸ State.comeOn_ran (State.ensure_ran (.refl s) d) d fold.toNat
  have hlive : u.live = true := hran.live.trans hl
  have hpaused : u.pause.paused = false := by rw [hran.pause, hpause]
  show execCrookGrant d fold line write s = _
  simp [execCrookGrant, State.grantLine, hl, hpause, ← hu, he, hp, hlive, hpaused, ha]

end CrookGrant

/-- Settles O43: the state that the fold has come to grants nothing but its next line, which is issued or waits. -/
theorem grantsIssueOneLineEach : Obligations.GrantsIssueOneLineEach := by
  unfold Obligations.GrantsIssueOneLineEach
  intro s u d p v fold line write e h beat hl hpause hu he hp ha hline
  have hnext : exec (.crookGrant d fold line write) s =
      .next (if h.line = line.toNat then u.grantOne e fold.toNat p v write h beat else u) := by
    rw [execCrookGrant_next hl hpause hu he hp ha, State.grantLine_eq hline]
  refine ⟨fun x hx hpx hat => hu.trans (State.comeOn_standing hx hpx hat), fun bs port id w r hsame hbs hopen hfirst hid hr => ?_,
    fun hother => by rw [hnext, if_neg hother]⟩
  have hdid : e.did = d := State.desc?_did he
  rw [if_pos hsame, State.grantOne_eq (hdid ▸ hbs) hopen hfirst] at hnext
  refine ⟨fun hsome => ?_, fun hnone => ?_⟩
  · rw [if_neg (Nat.ne_of_gt hsome)] at hnext
    rw [← hsame, ← State.hostReq_eq u e port id write h beat] at hr
    obtain ⟨⟨x, hx, hissued, hcells, hstage, hprog⟩, hothers, hout, htxns, hbatches, htokens, hpens, hwaiting, hframe⟩ :=
      State.issueHost_issues (f := fold.toNat) (p := p) (v := v) (bs := bs) (hdid.symm ▸ he) hid hr rfl
    rw [hdid] at hx hothers htxns hwaiting
    rw [hsame] at htxns
    exact ⟨_, x, hnext, hx, hissued, hcells, hstage, hprog, hothers, hout, htxns,
      fun hport => hsame ▸ (State.lineId_port hid).trans (Desc.linePort_eq hport), hbatches, htokens, hpens, hwaiting, hframe⟩
  · rw [if_pos hnone, hdid] at hnext
    obtain ⟨hwaits, hframe⟩ := u.waitFor_waits d fold.toNat
    exact ⟨_, hnext, hwaits, hframe⟩

end Sys2Proof.Machine
end
